-- ==== Sys2Proof/Word.lean ====
section
/-! DEFINITION. The word types of the Decnas D7: 64-bit scalar words, 32-bit vector elements, bytes and register numbers. -/

namespace Sys2Proof

/-- A scalar register or address, 64 bits (R47). -/
abbrev Word := BitVec 64

/-- A vector element, 32 bits without a type (R49). -/
abbrev Elem := BitVec 32

/-- The smallest addressable unit of the byte spaces (R113). -/
abbrev Byte := BitVec 8

/-- A scalar register number, g0 to g31 (R269). -/
abbrev Reg := BitVec 5

end Sys2Proof
end

