-- ==== Sys2Proof/Config.lean ====
section
/-! DEFINITION. What one implementation fixes, and the free values: opaque constants that no proof can see into. -/

namespace Sys2Proof

namespace Config

/-- Free choice number `n` of a run (log 3): the winner of a VSTX.u (R135), the order of a free set. -/
opaque freeNat : Nat → Nat

/-- Byte `off` of a context, save or spill area written under seed `seed`: its layout is not architectural (R101, R216, R409; log 4). -/
opaque veilByte : (seed : Nat) → (off : Nat) → Byte

/-- What a byte reads as when it was sealed with one key and is read with another (R40, R41; log 5). -/
opaque unsealed : (written : BitVec 256) → (used : BitVec 256) → (addr : Nat) → Byte → Byte

/-- Byte `i` of the 48-byte integrity code of the context saved under a seed (R101; log 4). -/
opaque ctxMac : (seed : Nat) → (i : Nat) → Byte

/-- The device's prefix secret, derived from its identity key material (R110; log 6). -/
opaque prefixSecret : List Byte

/-- The 40-bit location handle the page engine gives the `n`-th stored page; opaque to software (R94; log 7). -/
opaque handle : Nat → BitVec 40

/-- The counter under which the `n`-th stored page is encrypted, and the authentication tag of a page under a key and a counter (R42, R78; log 7). -/
opaque pageCounter : Nat → BitVec 64
opaque pageTag : (key : BitVec 256) → (counter : BitVec 64) → (page : Nat) → BitVec 128

/-- The measurement of the management controller's and the hub's own code (R452; log 8). -/
opaque measurement : Nat → BitVec 384

/-- exp of a difference of two equal infinities, rounded down or up, to which R422 gives no value (log 14). -/
opaque expIndeterminate : (up : Bool) → Elem

/-- Where IMPORT finds the bytes of a prefix whose record stands at an address, which R111 does not say (log 17). -/
opaque importSource : BitVec 64 → BitVec 64

/-- The export master secret of an interface without a session, which R110 does not give (log 18). -/
opaque absentSecret : Nat → List Byte

/-- The telemetry the management controller reports over PLDM (R456; log 8). -/
opaque telemetry : Nat → Nat

/-- The egress port of the hub on the path from one module to another for a 64-byte line, as the fabric manager firmware sets it (R178; log 88). -/
opaque fabricPort : (source target line : Nat) → Nat

end Config

end Sys2Proof
end

