-- ==== Sys2Proof/Machine/Float.lean ====
section
/-! DEFINITION. Floating-point values as exact rationals, and the one rounding of each result (R252, R253, R258, R262, R263, R407, R422). -/

namespace Sys2Proof.Machine

/-- The rounding modes of R262. -/
inductive Rounding where
  | rne
  | rtz
  | rdn
  | rup
  deriving DecidableEq, Repr

/-- The mode that bits [24:23] select (R262). -/
def Rounding.ofCode (c : Nat) : Rounding := match c with | 0 => .rne | 1 => .rtz | 2 => .rdn | _ => .rup

/-- The flags of FSTAT (R265): NV, DZ, OF, UF, NX from bit 0. -/
abbrev FlagSet := BitVec 5
def flagNv : FlagSet := 1
def flagDz : FlagSet := 2
def flagOf : FlagSet := 4
def flagUf : FlagSet := 8
def flagNx : FlagSet := 16

/-- A floating-point format with infinities (R253): exponent bits, fraction bits, bias. -/
structure FloatFmt where
  ebits : Nat
  fbits : Nat
  bias : Nat
  deriving DecidableEq, Repr

def fp32 : FloatFmt := { ebits := 8, fbits := 23, bias := 127 }
def bf16 : FloatFmt := { ebits := 8, fbits := 7, bias := 127 }
def fp16 : FloatFmt := { ebits := 5, fbits := 10, bias := 15 }
def e5m2 : FloatFmt := { ebits := 5, fbits := 2, bias := 15 }
def e4m3 : FloatFmt := { ebits := 4, fbits := 3, bias := 7 }

/-- A value: a NaN, quiet or signalling, an infinity, or a finite value as a sign and a magnitude num / 2^sh. -/
inductive Fl where
  | nan (signalling : Bool)
  | inf (neg : Bool)
  | fin (neg : Bool) (num : Nat) (den : Nat)
  deriving DecidableEq, Repr

/-- The magnitude m × 2^e as a fraction. -/
def scaled (m : Nat) (e : Int) : Nat × Nat := if 0 ≤ e then (m * 2 ^ e.toNat, 1) else (m, 2 ^ (-e).toNat)

/-- Reads a code of a format (R253). -/
def FloatFmt.decode (f : FloatFmt) (x : Nat) : Fl :=
  let frac := x % 2 ^ f.fbits
  let ex := x / 2 ^ f.fbits % 2 ^ f.ebits
  let neg : Bool := x / 2 ^ (f.fbits + f.ebits) % 2 = 1
  if ex = 2 ^ f.ebits - 1 then
    if frac = 0 then .inf neg else .nan (frac / 2 ^ (f.fbits - 1) = 0)
  else
    let (n, d) := if ex = 0 then scaled frac (1 - (f.bias : Int) - f.fbits) else scaled (2 ^ f.fbits + frac) ((ex : Int) - f.bias - f.fbits)
    .fin neg n d

/-- Reads an OFP8 E4M3 code: no infinity, and exponent 0xF with fraction 7 is NaN (R253). -/
def decodeE4m3 (x : Nat) : Fl :=
  if x % 128 = 127 then .nan false
  else
    let ex := x / 8 % 16
    let (n, d) := if ex = 0 then scaled (x % 8) (-9) else scaled (8 + x % 8) ((ex : Int) - 10)
    .fin (decide (x / 128 % 2 = 1)) n d

/-- floor(log2(n / d)) for positive n and d. -/
def ilog2 (n d : Nat) : Int :=
  let l : Int := (Nat.log2 n : Int) - Nat.log2 d
  let (a, b) := if 0 ≤ l then (n, d * 2 ^ l.toNat) else (n * 2 ^ (-l).toNat, d)
  if a < b then l - 1 else l

/-- Rounds n / d in units of 2^e: the integer and whether it is inexact (R262). -/
def roundAt (mode : Rounding) (neg : Bool) (n d : Nat) (e : Int) : Nat × Bool :=
  let (a, b) := if 0 ≤ e then (n, d * 2 ^ e.toNat) else (n * 2 ^ (-e).toNat, d)
  let q := a / b
  let r := a % b
  let up := match mode with
    | .rne => decide (b < 2 * r) || (2 * r = b && q % 2 = 1)
    | .rtz => false
    | .rdn => neg && decide (0 < r)
    | .rup => !neg && decide (0 < r)
  (if up then q + 1 else q, decide (0 < r))

/-- The magnitude of a rounding of n / d > 0 to a format's precision, with its exponent unbounded above: mantissa, unit
exponent, and whether it is inexact and tiny: below 2^-126, in every format (R258, R262). -/
def FloatFmt.round (f : FloatFmt) (mode : Rounding) (neg : Bool) (n d : Nat) : Nat × Int × Bool × Bool :=
  let e := ilog2 n d
  let unit := e - f.fbits
  let least : Int := 1 - (f.bias : Int) - f.fbits
  let (free, _) := roundAt mode neg n d unit
  let tiny := decide (e < -126) && !(e = -127 && free = 2 ^ (f.fbits + 1))
  let u := if unit < least then least else unit
  let (m, inexact) := roundAt mode neg n d u
  if m = 2 ^ (f.fbits + 1) then (2 ^ f.fbits, u + 1, inexact, tiny) else (m, u, inexact, tiny)

/-- The sign bit of a format. -/
def FloatFmt.sign (f : FloatFmt) (neg : Bool) : Nat := if neg then 2 ^ (f.fbits + f.ebits) else 0

/-- The code of an infinity, of the largest finite value and of zero. -/
def FloatFmt.infCode (f : FloatFmt) (neg : Bool) : Nat := f.sign neg + (2 ^ f.ebits - 1) * 2 ^ f.fbits
def FloatFmt.maxCode (f : FloatFmt) (neg : Bool) : Nat := f.infCode neg - 1
def FloatFmt.zeroCode (f : FloatFmt) (neg : Bool) : Nat := f.sign neg

/-- Rounds a finite value once into a format in a mode, with its flags (R262). -/
def FloatFmt.encode (f : FloatFmt) (mode : Rounding) (neg : Bool) (n d : Nat) : Nat × FlagSet :=
  if n = 0 then (f.zeroCode neg, 0)
  else
    let (m, u, inexact, tiny) := f.round mode neg n d
    let ex : Int := if m < 2 ^ f.fbits then 0 else u + f.fbits + f.bias
    if (2 ^ f.ebits - 2 : Int) < ex then
      let toInf := match mode with | .rne => true | .rtz => false | .rdn => neg | .rup => !neg
      (if toInf then f.infCode neg else f.maxCode neg, flagOf ||| flagNx)
    else
      (f.sign neg + ex.toNat * 2 ^ f.fbits + m % 2 ^ f.fbits,
        (if inexact then flagNx else 0) ||| (if inexact && tiny then flagUf else 0))

/-- The canonical NaN of a float result (R263). -/
def nanElem : Elem := 0x7FC00000

/-- Reads an element as f32 or as b16 (R252). -/
def readFloat (b16 : Bool) (x : Elem) : Fl := fp32.decode (if b16 then x.toNat / 2 ^ 16 * 2 ^ 16 else x.toNat)

/-- Rounds a finite value into an f32 or a b16 element (R252, R262). -/
def roundElem (b16 : Bool) (mode : Rounding) (neg : Bool) (n d : Nat) : Elem × FlagSet :=
  if b16 then
    let (c, fl) := bf16.encode mode neg n d
    (BitVec.ofNat 32 (c * 2 ^ 16), fl)
  else
    let (c, fl) := fp32.encode mode neg n d
    (BitVec.ofNat 32 c, fl)

/-- An infinite, and a zero, element. -/
def infElem (neg : Bool) : Elem := if neg then 0xFF800000 else 0x7F800000
def zeroElem (neg : Bool) : Elem := if neg then 0x80000000 else 0

/-- An invalid operation's result (R263). -/
def invalid : Elem × FlagSet := (nanElem, flagNv)

/-- A signalling NaN operand raises invalid (R263). -/
def Fl.signals : Fl → Bool
  | .nan s => s
  | _ => false
def Fl.isNan : Fl → Bool
  | .nan _ => true
  | _ => false
def Fl.neg? : Fl → Bool
  | .fin n _ _ => n
  | .inf n => n
  | .nan _ => false
def Fl.isZero : Fl → Bool
  | .fin _ n _ => n = 0
  | _ => false
def Fl.negate : Fl → Fl
  | .fin s n d => .fin (!s) n d
  | .inf s => .inf (!s)
  | .nan s => .nan s

/-- The signed numerator of a finite value. -/
def signed (neg : Bool) (n : Nat) : Int := if neg then -(n : Int) else n

/-- The exact product of two values whose product is no invalid operation. -/
def Fl.times : Fl → Fl → Option Fl
  | .fin s n d, .fin t m e => some (.fin (s != t) (n * m) (d * e))
  | .inf s, .inf t => some (.inf (s != t))
  | .inf s, .fin t m _ => if m = 0 then none else some (.inf (s != t))
  | .fin s n _, .inf t => if n = 0 then none else some (.inf (s != t))
  | _, _ => none

/-- The rounded exact sum of two values that are not NaN (R262, R263). -/
def sumElem (b16 : Bool) (mode : Rounding) : Fl → Fl → Elem × FlagSet
  | .inf s, .inf t => if s = t then (infElem s, 0) else invalid
  | .inf s, _ => (infElem s, 0)
  | _, .inf t => (infElem t, 0)
  | .fin s n d, .fin t m e =>
    let x := signed s n * e + signed t m * d
    if x = 0 then
      if n = 0 ∧ m = 0 ∧ s = t then (zeroElem s, 0) else (zeroElem (mode = .rdn), 0)
    else roundElem b16 mode (decide (x < 0)) x.natAbs (d * e)
  | _, _ => invalid

/-- The NaN result of an instruction with NaN operands (R263). -/
def nanOf (ops : List Fl) : Option (Elem × FlagSet) :=
  if ops.any Fl.isNan then some (nanElem, if ops.any Fl.signals then flagNv else 0) else none

/-- a + b, a × b, a × b + c and a / b (R329, R262, R263). -/
def addFl (b16 : Bool) (mode : Rounding) (a b : Fl) : Elem × FlagSet :=
  (nanOf [a, b]).getD (sumElem b16 mode a b)

def mulFl (b16 : Bool) (mode : Rounding) (a b : Fl) : Elem × FlagSet :=
  (nanOf [a, b]).getD (match a.times b with
    | some (.fin s n d) => roundElem b16 mode s n d
    | some (.inf s) => (infElem s, 0)
    | _ => invalid)

def fmaFl (b16 : Bool) (mode : Rounding) (a b c : Fl) : Elem × FlagSet :=
  match nanOf [a, b, c] with
  | some r => if (!a.isNan && !b.isNan && (a.times b).isNone) then (nanElem, flagNv) else r
  | none => match a.times b with
    | some p => sumElem b16 mode p c
    | none => invalid

def divFl (b16 : Bool) (mode : Rounding) (a b : Fl) : Elem × FlagSet :=
  (nanOf [a, b]).getD (match a, b with
    | .inf _, .inf _ => invalid
    | .inf s, .fin t _ _ => (infElem (s != t), 0)
    | .fin s _ _, .inf t => (zeroElem (s != t), 0)
    | .fin s n d, .fin t m e =>
      if m = 0 then (if n = 0 then invalid else (infElem (s != t), flagDz))
      else roundElem b16 mode (s != t) (n * e) (d * m)
    | _, _ => invalid)

/-- The integer square root of `n`, by `k` binary digits from the top. -/
def isqrt (n : Nat) : Nat → Nat → Nat
  | 0, r => r
  | k + 1, r => isqrt n k (if (r + 2 ^ k) * (r + 2 ^ k) ≤ n then r + 2 ^ k else r)

/-- The square root of a value (R330, R263): exact digits with a sticky half, then one rounding. -/
def sqrtFl (b16 : Bool) (mode : Rounding) (a : Fl) : Elem × FlagSet :=
  (nanOf [a]).getD (match a with
    | .inf s => if s then invalid else (infElem false, 0)
    | .fin s n d =>
      if n = 0 then (zeroElem s, 0)
      else if s then invalid
      else
        let x := n * d * 2 ^ 200
        let r := isqrt x ((Nat.log2 x) / 2 + 2) 0
        if r * r = x then roundElem b16 mode false r (d * 2 ^ 100)
        else roundElem b16 mode false (2 * r + 1) (d * 2 ^ 101)
    | .nan _ => invalid)

/-- Fixed-point constants and series, scaled by 2^p. Each errs by less than 2^10 units below p = 1024 bits (log 13). -/
def seriesError : Int := 2 ^ 10

/-- 2 × atanh(n / d) × 2^p by `k` terms of its series. -/
def atanhSeries (p : Nat) (n d : Int) : Nat → Int
  | 0 => 0
  | k + 1 =>
    let z : Int := n * 2 ^ p / d
    let rec go : Nat → Nat → Int → Int → Int
      | 0, _, _, acc => acc
      | f + 1, i, t, acc => go f (i + 2) (t * n * n / (d * d)) (acc + 2 * t / i)
    go (k + 1) 1 z 0

/-- ln 2 × 2^p. -/
def ln2 (p : Nat) : Int := atanhSeries p 1 3 (p / 3 + 8)

/-- exp(y / 2^p) × 2^p for 0 ≤ y < 2^p. -/
def expSeries (p : Nat) (y : Int) : Nat → Nat → Int → Int → Int
  | 0, _, _, acc => acc
  | f + 1, i, t, acc => expSeries p y f (i + 1) (t * y / (2 ^ p * (i + 1))) (acc + t)

/-- ln(n / d) × 2^p for positive n and d. -/
def lnFixed (p n d : Nat) : Int :=
  let k := ilog2 n d
  let (a, b) := if 0 ≤ k then (n, d * 2 ^ k.toNat) else (n * 2 ^ (-k).toNat, d)
  let (a, b, k) := if 3 * b ≤ 2 * a then (a, 2 * b, k + 1) else (a, b, k)
  k * ln2 p + atanhSeries p ((a : Int) - b) ((a : Int) + b) (p / 3 + 8)

/-- exp(x) for x = n / d as bounds over a denominator: lower, upper, denominator. -/
def expBounds (p : Nat) (n : Int) (d : Nat) : Int × Int × Nat :=
  if n < -(400 * (d : Int)) then (0, 1, 2 ^ 400)
  else if 400 * (d : Int) < n then (2 ^ 400, 2 ^ 401, 1)
  else
    let q := p + 16
    let x : Int := n * 2 ^ q / d
    let l := ln2 q
    let k := x / l
    let v := expSeries q (x - k * l) (q / 3 + 16) 0 (2 ^ q) 0
    let e := seriesError * 1024
    if 0 ≤ k then ((v - e) * 2 ^ k.toNat, (v + e) * 2 ^ k.toNat, 2 ^ q) else (v - e, v + e, 2 ^ q * 2 ^ (-k).toNat)

/-- 2^x for x = n / d. -/
def exp2Bounds (p : Nat) (n : Int) (d : Nat) : Int × Int × Nat :=
  if n < -(400 * (d : Int)) then (0, 1, 2 ^ 400)
  else if 400 * (d : Int) < n then (2 ^ 400, 2 ^ 401, 1)
  else
    let q := p + 16
    let k := n / (d : Int)
    let f := (n - k * d) * ln2 q / d
    let v := expSeries q f (q / 3 + 16) 0 (2 ^ q) 0
    let e := seriesError * 1024
    if 0 ≤ k then ((v - e) * 2 ^ k.toNat, (v + e) * 2 ^ k.toNat, 2 ^ q) else (v - e, v + e, 2 ^ q * 2 ^ (-k).toNat)

/-- log2 of n / d. -/
def log2Bounds (p n d : Nat) : Int × Int × Nat :=
  let k := ilog2 n d
  let (a, b) := if 0 ≤ k then (n, d * 2 ^ k.toNat) else (n * 2 ^ (-k).toNat, d)
  let (a, b, k) := if 3 * b ≤ 2 * a then (a, 2 * b, k + 1) else (a, b, k)
  let q := p + 16
  let m := atanhSeries q ((a : Int) - b) ((a : Int) + b) (q / 3 + 8) * 2 ^ q / ln2 q
  let e := seriesError * 8
  (k * 2 ^ q + m - e, k * 2 ^ q + m + e, 2 ^ q)

/-- −ln(−ln(n / d)) for 0 < n / d < 1. -/
def gumbelBounds (p n d : Nat) : Int × Int × Nat :=
  let q := p + 16
  let l := -(lnFixed q n d)
  let e := seriesError
  let up := -(lnFixed q (l - e).toNat (2 ^ q))
  let dn := -(lnFixed q (l + e).toNat (2 ^ q))
  (dn - 4 * e, up + 4 * e, 2 ^ q)

/-- Rounds an irrational value known by bounds that narrow with the precision: the first precision at which both bounds
round alike decides. -/
def settleBounds (b16 : Bool) (mode : Rounding) (bounds : Nat → Int × Int × Nat) : List Nat → Elem × FlagSet
  | [] =>
    let (lo, _, d) := bounds 1024
    roundElem b16 mode (decide (lo < 0)) lo.natAbs d
  | p :: ps =>
    let (lo, hi, d) := bounds p
    let x := roundElem b16 mode (decide (lo < 0)) lo.natAbs d
    let y := roundElem b16 mode (decide (hi < 0)) hi.natAbs d
    if (decide (lo < 0) = decide (hi < 0)) && (lo ≠ 0 || hi = 1) && x.1 = y.1 && (x.2 ||| flagNx) = (y.2 ||| flagNx) then (x.1, x.2 ||| flagNx)
    else if lo = 0 ∧ hi = 1 then (y.1, y.2 ||| flagNx)
    else settleBounds b16 mode bounds ps

/-- The precisions tried in turn. -/
def precisions : List Nat := [96, 192, 384, 768]

/-- 2^a (R330): exact when a is an integer. -/
def exp2Fl (b16 : Bool) (mode : Rounding) (a : Fl) : Elem × FlagSet :=
  (nanOf [a]).getD (match a with
    | .inf s => if s then (zeroElem false, 0) else (infElem false, 0)
    | .fin s n d =>
      if n % d = 0 then
        let k := n / d
        if s then roundElem b16 mode false 1 (2 ^ (min k 400)) else roundElem b16 mode false (2 ^ (min k 400)) 1
      else settleBounds b16 mode (fun p => exp2Bounds p (signed s n) d) precisions
    | .nan _ => invalid)

/-- log2 a (R330, R263): exact when a is a power of two. -/
def log2Fl (b16 : Bool) (mode : Rounding) (a : Fl) : Elem × FlagSet :=
  (nanOf [a]).getD (match a with
    | .inf s => if s then invalid else (infElem false, 0)
    | .fin s n d =>
      if n = 0 then (infElem true, flagDz)
      else if s then invalid
      else
        let k := ilog2 n d
        if (if 0 ≤ k then n = d * 2 ^ k.toNat else n * 2 ^ (-k).toNat = d) then roundElem b16 mode (decide (k < 0)) k.natAbs 1
        else settleBounds b16 mode (fun p => log2Bounds p n d) precisions
    | .nan _ => invalid)

/-- exp of an exact real n / d, rounded once to FP32 (R422). -/
def expRound (mode : Rounding) (n : Int) (d : Nat) : Elem :=
  if n = 0 then 0x3F800000 else (settleBounds false mode (fun p => expBounds p n d) precisions).1

/-- Entry t of the noise table (R407). -/
def noiseEntry (t : Nat) : Elem := (settleBounds false .rne (fun p => gumbelBounds p (2 * t + 1) 8192) precisions).1

/-- The total-order key of an element (R264); `ty` is 0 f32, 1 b16, 2 i32, 3 n32. -/
def keyOf (ty : Nat) (x : Elem) : Elem :=
  if ty = 3 then x
  else if ty = 2 then x ^^^ 0x80000000
  else if (readFloat (ty = 1) x).isNan then 0xFFFFFFFF
  else
    let y := if ty = 1 then x &&& 0xFFFF0000 else x
    if y.getLsbD 31 then ~~~y else y ||| 0x80000000

/-- Two floats that are not NaN in numeric order: −1, 0 or 1; zeros are equal. -/
def cmpFl : Fl → Fl → Int
  | .inf s, .inf t => if s = t then 0 else if s then -1 else 1
  | .inf s, _ => if s then -1 else 1
  | _, .inf t => if t then 1 else -1
  | .fin s n d, .fin t m e =>
    let x := signed s n * e - signed t m * d
    if x < 0 then -1 else if x = 0 then 0 else 1
  | _, _ => 0

/-- Comparisons of FP32 elements as the race unit makes them; a NaN compares as nothing. -/
def f32Lt (a b : Elem) : Bool :=
  !(readFloat false a).isNan && !(readFloat false b).isNan && cmpFl (readFloat false a) (readFloat false b) = -1
def f32Eq (a b : Elem) : Bool :=
  !(readFloat false a).isNan && !(readFloat false b).isNan && cmpFl (readFloat false a) (readFloat false b) = 0
def isNan32 (a : Elem) : Bool := (readFloat false a).isNan

/-- −∞ and +∞ as FP32 elements. -/
def negInf : Elem := 0xFF800000
def posInf : Elem := 0x7F800000

/-- The exact difference of two finite FP32 elements. -/
def diffOf (a b : Elem) : Int × Nat :=
  match readFloat false a, readFloat false b with
  | .fin s n d, .fin t m e => (signed s n * e - signed t m * d, d * e)
  | _, _ => (0, 1)

/-- exp(a − b) rounded once, for FP32 values of which neither is a NaN (R422); of two equal infinities the spec states no value (log 14). -/
def expDiff (mode : Rounding) (a b : Elem) : Elem :=
  match readFloat false a, readFloat false b with
  | .inf s, .inf t => if s = t then Config.expIndeterminate (mode = .rup) else if s then 0 else posInf
  | .inf s, _ => if s then 0 else posInf
  | _, .inf t => if t then posInf else 0
  | _, _ => expRound mode (diffOf a b).1 (diffOf a b).2

end Sys2Proof.Machine
end

