-- ==== Sys2Proof/Syntax.lean ====
section
/-! DEFINITION. The instructions and events of the Decnas D7: one constructor of `Instr` per row of the opcode table. Scalar words carry the table's bit fields, vector words the fields of R277, engine commands the place of the command in its engine's queue, and events what the outside world or an arbiter supplies. -/

namespace Sys2Proof

/-- The fields of a vector word (R277) after its opcode, with its trailing literal word (R279); the literal is zero when L = 0. -/
structure VFields where
  vd : BitVec 5
  sa : BitVec 6
  sb : BitVec 6
  sc : BitVec 6
  ty : BitVec 3
  mask : BitVec 2
  tail : BitVec 1
  nb : BitVec 2
  rs : BitVec 3
  l : BitVec 1
  ext : BitVec 21
  lit : BitVec 64
  deriving DecidableEq, Repr

/-- How a promotion ended: in HBM, or failed with XINFO reason 6 or 7 (R26, R99). -/
inductive PromotionResult where
  | inHbm
  | tierFailed
  | authFailed
  deriving DecidableEq, Repr

/-- What a fabric request does to each of its elements at the target (R174, R176); or a request to a node's allocation arbiter,
whose first element names the result and notify addresses and whose others the members (R192, R198); or a load through a pull
window of the requester, with the window's operation, members and source base (R200). -/
inductive FabricKind where
  | load
  | store
  | amo (op : Nat)
  | addF32
  | addI32
  | redAlloc (op m len : Nat)
  | redFree (slot : Nat) (forced : Bool)
  | pull (op : Nat) (members : List Nat) (base : BitVec 64)
  deriving DecidableEq, Repr

/-- One element of a fabric request: its flat index, effective address, width in bytes, operand and comparand. -/
structure FabricElem where
  idx : Nat
  va : BitVec 64
  n : Nat
  data : BitVec 64
  cmp : BitVec 64
  deriving DecidableEq, Repr

/-- A fabric request as it arrives at its target (R175): its source module, its identity there, its tenant tag and its elements. -/
structure FabricArrival where
  src : Nat
  id : Nat
  tag : BitVec 16
  kind : FabricKind
  elems : List FabricElem
  deriving DecidableEq, Repr

/-- Why a target refuses: FAB_REMOTE_FAULT or FAB_PERM (R181), with the XINFO detail it reports (R182). -/
inductive RefusedAs where
  | remoteFault
  | perm
  deriving DecidableEq, Repr

/-- A reply or acknowledgement of a request (R181): values by flat index, or the refusal at one flat index with the values of the elements
performed below it (R176, R177). -/
inductive FabricReply where
  | done (vals : List (Nat × BitVec 64))
  | refused (idx : Nat) (r : RefusedAs) (kind : Nat) (reason : Nat) (vals : List (Nat × BitVec 64))
  deriving DecidableEq, Repr

/-- Why a node drops a decombining record (R191). -/
inductive RecordDrop where
  | uncorrectable
  | aged
  deriving DecidableEq, Repr

/-- A contribution line at a reduction slot (R195): slot, generation, member, line number and 64 bytes, and the module and request it came by. -/
structure ReductionLine where
  slot : Nat
  gen : Nat
  member : Nat
  line : Nat
  data : List (BitVec 8)
  src : Nat
  id : Nat
  deriving DecidableEq, Repr

/-- The 64-byte line one member module answers a pull with (R200). -/
structure MemberLine where
  module : Nat
  data : List (BitVec 8)
  deriving DecidableEq, Repr

/-- Where a host read goes: to an offset of the host window or of BAR0 (R43, R449). -/
inductive HostPlace where
  | window (off : Nat)
  | register (off : Nat)
  deriving DecidableEq, Repr

/-- What a host write carries: bytes for the host window, a compare-and-swap of eight aligned bytes there, or bytes for BAR0 (R43, R449, R454). -/
inductive HostWrite where
  | window (data : List (BitVec 8))
  | swap (expected : BitVec 64) (new : BitVec 64)
  | register (data : List (BitVec 8))
  deriving DecidableEq, Repr

/-- The TDISP messages that move an interface besides STOP_INTERFACE (R453). -/
inductive TdispMessage where
  | lockInterface
  | startInterface
  | getState
  deriving DecidableEq, Repr

/-- A firmware image offered for update (R455). -/
structure FirmwareImage where
  secVersion : Nat
  measurement : BitVec 384
  signatureGood : Bool
  deriving DecidableEq, Repr

/-- The steps of a firmware update: an image arrives, through the physical function or over the management interface, or its writing ends (R455). -/
inductive UpdateStep where
  | supply (img : FirmwareImage) (physical : Bool)
  | written
  deriving DecidableEq, Repr

/-- How an instruction or block fetch faults (R17, R283). -/
inductive FetchFault where
  | address (cause : BitVec 6) (level : Nat) (reason : Nat)
  | overrun
  | machineCheck
  deriving DecidableEq, Repr

/-- What a bit error strikes (R248, R191). -/
inductive Struck where
  | hbmLine (line : Nat)
  | scratchWord (core : Nat) (word : Nat)
  | vectorRegister (tid : Nat) (reg : Nat)
  | queueRow (tid : Nat) (queue : Nat) (group : Nat)
  | operandSlot (core : Nat) (slot : Nat)
  | accumulator (core : Nat) (acc : Nat)
  | fetchPath (core : Nat)
  deriving DecidableEq, Repr

/-- A bit error: corrected silently and counted, or uncorrectable (R63, R75, R248). -/
structure EccError where
  struck : Struck
  correctable : Bool
  deriving DecidableEq, Repr

/-- What firmware takes from the administrator when it creates a virtual interface (R41, R450, R15; log 9). -/
structure InterfaceConfig where
  key0 : BitVec 256
  syncFirst : Nat
  syncCount : Nat
  hbmShare : BitVec 64
  cxlShare : BitVec 64
  flashShare : BitVec 64
  tag : BitVec 16
  astbase : BitVec 64
  rgnbase : BitVec 64
  deriving DecidableEq, Repr

/-- One constructor per row of the opcode table, in the table's order. -/
inductive Instr where
  /-- ADD (R297). Sets gd to ga plus gb modulo 2^64. -/
  | add (d : BitVec 5) (a : BitVec 5) (b : BitVec 5)
  /-- SUB (R297). Sets gd to ga minus gb modulo 2^64. -/
  | sub (d : BitVec 5) (a : BitVec 5) (b : BitVec 5)
  /-- AND (R297). Sets gd to the bitwise AND of ga and gb. -/
  | and (d : BitVec 5) (a : BitVec 5) (b : BitVec 5)
  /-- OR (R297). Sets gd to the bitwise OR of ga and gb. -/
  | or (d : BitVec 5) (a : BitVec 5) (b : BitVec 5)
  /-- XOR (R297). Sets gd to the bitwise XOR of ga and gb. -/
  | xor (d : BitVec 5) (a : BitVec 5) (b : BitVec 5)
  /-- SHL (R297). Shifts ga left by gb[5:0], with zeros entering. -/
  | shl (d : BitVec 5) (a : BitVec 5) (b : BitVec 5)
  /-- SHR (R297). Shifts ga right logically by gb[5:0]. -/
  | shr (d : BitVec 5) (a : BitVec 5) (b : BitVec 5)
  /-- SRA (R297). Shifts ga right arithmetically by gb[5:0]. -/
  | sra (d : BitVec 5) (a : BitVec 5) (b : BitVec 5)
  /-- MUL (R297). Sets gd to the low 64 bits of ga times gb. -/
  | mul (d : BitVec 5) (a : BitVec 5) (b : BitVec 5)
  /-- MULH (R297). Sets gd to the high 64 bits of the signed 128-bit product. -/
  | mulh (d : BitVec 5) (a : BitVec 5) (b : BitVec 5)
  /-- MULHN (R297). Sets gd to the high 64 bits of the unsigned 128-bit product. -/
  | mulhn (d : BitVec 5) (a : BitVec 5) (b : BitVec 5)
  /-- DIV (R298). Sets gd to the signed quotient truncated towards zero, never trapping. -/
  | div (d : BitVec 5) (a : BitVec 5) (b : BitVec 5)
  /-- DIVN (R298). Sets gd to the unsigned quotient, never trapping. -/
  | divn (d : BitVec 5) (a : BitVec 5) (b : BitVec 5)
  /-- REM (R298). Sets gd to the signed remainder with the sign of ga. -/
  | rem (d : BitVec 5) (a : BitVec 5) (b : BitVec 5)
  /-- REMN (R298). Sets gd to the unsigned remainder. -/
  | remn (d : BitVec 5) (a : BitVec 5) (b : BitVec 5)
  /-- SLT (R297). Sets gd to 1 when ga is less than gb as signed values, else 0. -/
  | slt (d : BitVec 5) (a : BitVec 5) (b : BitVec 5)
  /-- SLTN (R297). Sets gd to 1 when ga is less than gb as unsigned values, else 0. -/
  | sltn (d : BitVec 5) (a : BitVec 5) (b : BitVec 5)
  /-- MIN (R297). Sets gd to the signed minimum of ga and gb. -/
  | min (d : BitVec 5) (a : BitVec 5) (b : BitVec 5)
  /-- MAX (R297). Sets gd to the signed maximum of ga and gb. -/
  | max (d : BitVec 5) (a : BitVec 5) (b : BitVec 5)
  /-- MINN (R297). Sets gd to the unsigned minimum of ga and gb. -/
  | minn (d : BitVec 5) (a : BitVec 5) (b : BitVec 5)
  /-- MAXN (R297). Sets gd to the unsigned maximum of ga and gb. -/
  | maxn (d : BitVec 5) (a : BitVec 5) (b : BitVec 5)
  /-- CLZ (R297). Sets gd to the number of leading zero bits of ga. -/
  | clz (d : BitVec 5) (a : BitVec 5)
  /-- POPC (R297). Sets gd to the number of one bits of ga. -/
  | popc (d : BitVec 5) (a : BitVec 5)
  /-- ADDI (R299). Sets gd to ga plus the sign-extended immediate. -/
  | addi (d : BitVec 5) (a : BitVec 5) (i : BitVec 16)
  /-- ANDI (R299). Sets gd to ga AND the zero-extended immediate. -/
  | andi (d : BitVec 5) (a : BitVec 5) (i : BitVec 16)
  /-- ORI (R299). Sets gd to ga OR the zero-extended immediate. -/
  | ori (d : BitVec 5) (a : BitVec 5) (i : BitVec 16)
  /-- XORI (R299). Sets gd to ga XOR the zero-extended immediate. -/
  | xori (d : BitVec 5) (a : BitVec 5) (i : BitVec 16)
  /-- SHLI (R299). Shifts ga left by the immediate count. -/
  | shli (d : BitVec 5) (a : BitVec 5) (i : BitVec 6)
  /-- SHRI (R299). Shifts ga right logically by the immediate count. -/
  | shri (d : BitVec 5) (a : BitVec 5) (i : BitVec 6)
  /-- SRAI (R299). Shifts ga right arithmetically by the immediate count. -/
  | srai (d : BitVec 5) (a : BitVec 5) (i : BitVec 6)
  /-- SLTI (R299). Sets gd to 1 when ga is below the sign-extended immediate as signed values. -/
  | slti (d : BitVec 5) (a : BitVec 5) (i : BitVec 16)
  /-- SLTNI (R299). Sets gd to 1 when ga is below the sign-extended immediate as unsigned values. -/
  | sltni (d : BitVec 5) (a : BitVec 5) (i : BitVec 16)
  /-- LIMC (R300). Replaces the 16-bit chunk c of gd with the immediate. -/
  | limc (d : BitVec 5) (c : BitVec 2) (i : BitVec 16)
  /-- ADDPC (R301). Sets gd to pc plus four times the sign-extended immediate. -/
  | addpc (d : BitVec 5) (i : BitVec 16)
  /-- LD (R302). Loads 1 to 8 bytes from the named space into g after the address checks. -/
  | ld (g : BitVec 5) (a : BitVec 5) (s : BitVec 3) (p : BitVec 2) (o : BitVec 11)
  /-- ST (R302). Stores 1 to 8 bytes of g to the named space after the address checks. -/
  | st (g : BitVec 5) (a : BitVec 5) (s : BitVec 3) (p : BitVec 2) (o : BitVec 11)
  /-- BEQ (R303). Branches when ga equals gb. -/
  | beq (a : BitVec 5) (b : BitVec 5) (i : BitVec 16)
  /-- BNE (R303). Branches when ga differs from gb. -/
  | bne (a : BitVec 5) (b : BitVec 5) (i : BitVec 16)
  /-- BLT (R303). Branches when ga is less than gb, signed. -/
  | blt (a : BitVec 5) (b : BitVec 5) (i : BitVec 16)
  /-- BGE (R303). Branches when ga is at least gb, signed. -/
  | bge (a : BitVec 5) (b : BitVec 5) (i : BitVec 16)
  /-- BLTN (R303). Branches when ga is less than gb, unsigned. -/
  | bltn (a : BitVec 5) (b : BitVec 5) (i : BitVec 16)
  /-- BGEN (R303). Branches when ga is at least gb, unsigned. -/
  | bgen (a : BitVec 5) (b : BitVec 5) (i : BitVec 16)
  /-- JMP (R304). Continues at pc plus four times the sign-extended 26-bit offset. -/
  | jmp (i : BitVec 26)
  /-- CALL (R304). Jumps like JMP and sets g31 to pc plus 4. -/
  | call (i : BitVec 26)
  /-- JMPR (R304). Sets gd to pc plus 4 and continues at ga plus the immediate. -/
  | jmpr (d : BitVec 5) (a : BitVec 5) (i : BitVec 16)
  /-- AMO_ADD (R305). Atomically adds gb to the location at its home and returns the old value. -/
  | amoAdd (d : BitVec 5) (a : BitVec 5) (b : BitVec 5) (l : BitVec 1) (o : BitVec 2) (c : BitVec 3) (w : BitVec 1)
  /-- AMO_AND (R305). Atomically ANDs gb into the location and returns the old value. -/
  | amoAnd (d : BitVec 5) (a : BitVec 5) (b : BitVec 5) (l : BitVec 1) (o : BitVec 2) (c : BitVec 3) (w : BitVec 1)
  /-- AMO_OR (R305). Atomically ORs gb into the location and returns the old value. -/
  | amoOr (d : BitVec 5) (a : BitVec 5) (b : BitVec 5) (l : BitVec 1) (o : BitVec 2) (c : BitVec 3) (w : BitVec 1)
  /-- AMO_XOR (R305). Atomically XORs gb into the location and returns the old value. -/
  | amoXor (d : BitVec 5) (a : BitVec 5) (b : BitVec 5) (l : BitVec 1) (o : BitVec 2) (c : BitVec 3) (w : BitVec 1)
  /-- AMO_SWP (R305). Atomically swaps gb into the location and returns the old value. -/
  | amoSwp (d : BitVec 5) (a : BitVec 5) (b : BitVec 5) (l : BitVec 1) (o : BitVec 2) (c : BitVec 3) (w : BitVec 1)
  /-- AMO_CAS (R305). Atomically writes gb when the location equals gd and returns the old value. -/
  | amoCas (d : BitVec 5) (a : BitVec 5) (b : BitVec 5) (l : BitVec 1) (o : BitVec 2) (c : BitVec 3) (w : BitVec 1)
  /-- AMO_MIN (R305). Atomically stores the signed minimum and returns the old value. -/
  | amoMin (d : BitVec 5) (a : BitVec 5) (b : BitVec 5) (l : BitVec 1) (o : BitVec 2) (c : BitVec 3) (w : BitVec 1)
  /-- AMO_MAX (R305). Atomically stores the signed maximum and returns the old value. -/
  | amoMax (d : BitVec 5) (a : BitVec 5) (b : BitVec 5) (l : BitVec 1) (o : BitVec 2) (c : BitVec 3) (w : BitVec 1)
  /-- AMO_MINN (R305). Atomically stores the unsigned minimum and returns the old value. -/
  | amoMinn (d : BitVec 5) (a : BitVec 5) (b : BitVec 5) (l : BitVec 1) (o : BitVec 2) (c : BitVec 3) (w : BitVec 1)
  /-- AMO_MAXN (R305). Atomically stores the unsigned maximum and returns the old value. -/
  | amoMaxn (d : BitVec 5) (a : BitVec 5) (b : BitVec 5) (l : BitVec 1) (o : BitVec 2) (c : BitVec 3) (w : BitVec 1)
  /-- CSRR (R307). Reads a CSR into gd after the CSR checks, waiting for FSTAT, FIDX or RSTAT where required. -/
  | csrr (d : BitVec 5) (f : BitVec 12)
  /-- CSRW (R307). Writes ga to a CSR and returns the old value in gd. -/
  | csrw (d : BitVec 5) (a : BitVec 5) (f : BitVec 12)
  /-- CSRS (R307). Sets the bits of ga in a CSR and returns the old value in gd. -/
  | csrs (d : BitVec 5) (a : BitVec 5) (f : BitVec 12)
  /-- CSRC (R307). Clears the bits of ga in a CSR and returns the old value in gd. -/
  | csrc (d : BitVec 5) (a : BitVec 5) (f : BitVec 12)
  /-- SETLEN (R310). Enqueues a flat setting of VL and VR and writes VL times VR to gd. -/
  | setlen (d : BitVec 5) (a : BitVec 5)
  /-- SETLEN_2D (R310). Enqueues a two-dimensional setting of VL and VR and writes both to gd. -/
  | setlen2d (d : BitVec 5) (a : BitVec 5)
  /-- VSPLIT (R311). Requests a change of the core's split count to n. -/
  | vsplit (n : BitVec 12)
  /-- VMERGE (R311). Requests a change of the core's split count to 1. -/
  | vmerge
  /-- VARG (R312). Enqueues a write of ga to block argument bk. -/
  | varg (a : BitVec 5) (k : BitVec 3)
  /-- VPOP (R313). Waits for and pops the oldest return-queue entry into gd. -/
  | vpop (d : BitVec 5)
  /-- VQWAIT (R314). Waits until the VCQ entry with the given sequence number has completed. -/
  | vqwait (a : BitVec 5)
  /-- VQWAIT_ALL (R314). Waits until the VCQ is empty and no vector instruction executes. -/
  | vqwaitAll
  /-- VSEQ (R314). Writes the completed and latest VCQ sequence numbers to gd. -/
  | vseq (d : BitVec 5)
  /-- VF_LABEL (R315). Enqueues the vector block at a pc-relative address. -/
  | vfLabel (i : BitVec 16)
  /-- VF_REG (R315). Enqueues the vector block at ga plus eight times the offset. -/
  | vfReg (a : BitVec 5) (i : BitVec 16)
  /-- FENCE_SV (R316). Orders earlier scalar accesses before vector accesses of later blocks. -/
  | fenceSv
  /-- FENCE_VS (R316). Orders earlier vector accesses before later scalar accesses and TLBINV. -/
  | fenceVs
  /-- FENCE_VV (R316). Orders earlier vector accesses before later vector accesses on every stream. -/
  | fenceVv
  /-- FENCE_SCOPED (R316). Performs an acquire, release or both at the named scope. -/
  | fenceScoped (o : BitVec 2) (c : BitVec 3)
  /-- TRAP (R317). Raises the retired trap TRAP_INSN with the code in TVAL. -/
  | trap (c : BitVec 12)
  /-- RTE (R244). Returns from a trap, restoring held vector and WMU work and the saved privilege. -/
  | rte
  /-- WFE (R318). Waits while the 8-byte word at ga equals gb, then writes it to gd. -/
  | wfe (d : BitVec 5) (a : BitVec 5) (b : BitVec 5) (p : BitVec 2)
  /-- PARK (R102). Parks the executing task on the record at ga after its checks. -/
  | park (d : BitVec 5) (a : BitVec 5)
  /-- YIELD (R319). Applies the quantum check to the gang at once. -/
  | yield
  /-- EXIT (R320). Ends the task after draining its VCQ and engine commands and releasing its tiles and contexts. -/
  | exit
  /-- BRK (R317). Raises the instruction trap BREAK. -/
  | brk
  /-- IFLUSH (R321). Discards the core's instruction and vector block cache lines. -/
  | iflush
  /-- TLBINV_PG (R37). Removes the translation of one page in one address space within a scope. -/
  | tlbinvPg (a : BitVec 5) (c : BitVec 3) (s : BitVec 4)
  /-- TLBINV_AS (R37). Removes every translation of one address space within a scope. -/
  | tlbinvAs (c : BitVec 3) (s : BitVec 4)
  /-- TLBINV_VI (R37). Removes every translation of the virtual interface within a scope. -/
  | tlbinvVi (c : BitVec 3)
  /-- LAUNCH (R217). Reads a gang descriptor, checks it and queues the gang with its home dispatcher. -/
  | launch (d : BitVec 5) (a : BitVec 5)
  /-- EPUT (R430). Pushes a header or argument word to an engine, completing and releasing the command at its last word. -/
  | eput (a : BitVec 5) (e : BitVec 6)
  /-- EGET (R432). Waits for and pops an engine result word as an acquire, raising a retired trap for failing statuses. -/
  | eget (d : BitVec 5) (e : BitVec 6)
  /-- ECNT (R433). Writes the engine's free, queued-result and outstanding counts to gd. -/
  | ecnt (d : BitVec 5) (e : BitVec 6)
  /-- SYTAS (R442). Atomically sets a synchronisation cell to gb when it is zero and returns the old value. -/
  | sytas (d : BitVec 5) (a : BitVec 5) (b : BitVec 5) (o : BitVec 2) (c : BitVec 3)
  /-- SYADD (R442). Atomically adds gb to a synchronisation cell and returns the old value. -/
  | syadd (d : BitVec 5) (a : BitVec 5) (b : BitVec 5) (o : BitVec 2) (c : BitVec 3)
  /-- SYRD (R442). Reads a synchronisation cell's mirror on the reader's die. -/
  | syrd (d : BitVec 5) (a : BitVec 5) (o : BitVec 1) (c : BitVec 3)
  /-- TCLAIM (R383). Claims c consecutive operand slots with the extent in ga. -/
  | tclaim (d : BitVec 5) (a : BitVec 5) (c : BitVec 7)
  /-- TCLAIM_P (R383). Claims c operand slots as 16-bit pairs. -/
  | tclaimP (d : BitVec 5) (a : BitVec 5) (c : BitVec 7)
  /-- TCLAIM_A (R383). Claims one accumulator at the geometry's slot width. -/
  | tclaimA (d : BitVec 5)
  /-- TREL (R384). Releases an operand slot or pair. -/
  | trel (a : BitVec 5)
  /-- TREL_A (R384). Releases an accumulator. -/
  | trelA (a : BitVec 5)
  /-- TSTAT (R385). Writes the status word of an operand slot to gd. -/
  | tstat (d : BitVec 5) (a : BitVec 5)
  /-- TSTAT_A (R385). Writes the status word of an accumulator to gd. -/
  | tstatA (d : BitVec 5) (a : BitVec 5)
  /-- WCFG (R386). Checks a geometry word and makes it the task's geometry. -/
  | wcfg (d : BitVec 5) (a : BitVec 5)
  /-- WCFG_W (R386). Sets the geometry and widens the named accumulator in place. -/
  | wcfgW (d : BitVec 5) (a : BitVec 5)
  /-- WCFG_R (R386). Writes the task's geometry word to gd. -/
  | wcfgR (d : BitVec 5)
  /-- WZERO (R387). Waits for READY and sets every slot of an accumulator to zero. -/
  | wzero (a : BitVec 5)
  /-- WMAC (R389). Checks and accepts a multiply-accumulate of two slots into an accumulator. -/
  | wmac (a : BitVec 5)
  /-- WMACS_O (R390). Reads a WMACS descriptor and hands an ordered tiled product to the sequencer. -/
  | wmacsO (a : BitVec 5)
  /-- WMACS_F (R390). Reads a WMACS descriptor and hands a free-order tiled product to the sequencer. -/
  | wmacsF (a : BitVec 5)
  /-- WWAIT (R388). Waits until an accumulator has no accepted step left. -/
  | wwait (a : BitVec 5)
  /-- WWAIT_ALL (R388). Waits until no WMU step of the task is left. -/
  | wwaitAll
  /-- WNORM (R397). Rewrites an accumulator into normal two's-complement digit form. -/
  | wnorm (a : BitVec 5)
  /-- RBEGIN (R408). Reads a race request record and joins or allocates a race context. -/
  | rbegin (d : BitVec 5) (a : BitVec 5)
  /-- RCFG (R410). Enqueues a write of one race configuration field of the shard. -/
  | rcfg (a : BitVec 5) (f : BitVec 4)
  /-- RCFG_R (R410). Reads one race configuration field of the shard into gd. -/
  | rcfgR (d : BitVec 5) (f : BitVec 4)
  /-- RWAIT (R421). Waits for the race decision or a return to the round loop and reports it. -/
  | rwait (d : BitVec 5)
  /-- RPROB (R423). Waits for the decision and returns the bounds on the winner's probability. -/
  | rprob (d : BitVec 5)
  /-- RPROB_X (R423). Returns the exact probability when every term was exact, else NEED_EXACT. -/
  | rprobX (d : BitVec 5)
  /-- REND (R412). Ends the executing shard of its race. -/
  | rend
  /-- VSTOP (R327). Ends the vector block. -/
  | vstop (f : VFields)
  /-- VNOP (R327). Does nothing and counts as one vector instruction. -/
  | vnop (f : VFields)
  /-- VSBAR (R124). Orders the accesses of the named vector streams across the barrier. -/
  | vsbar (f : VFields)
  /-- VADD (R329). Adds sa and sb element-wise. -/
  | vadd (f : VFields)
  /-- VSUB (R329). Subtracts sb from sa element-wise. -/
  | vsub (f : VFields)
  /-- VMUL (R329). Multiplies sa and sb element-wise. -/
  | vmul (f : VFields)
  /-- VFMA (R329). Computes sa times sb plus sc with one rounding. -/
  | vfma (f : VFields)
  /-- VFMS (R329). Computes sa times sb minus sc with one rounding. -/
  | vfms (f : VFields)
  /-- VFNMA (R329). Computes sc minus sa times sb with one rounding. -/
  | vfnma (f : VFields)
  /-- VDIV (R329). Divides sa by sb element-wise. -/
  | vdiv (f : VFields)
  /-- VSQRT (R330). Computes the square root of sa element-wise. -/
  | vsqrt (f : VFields)
  /-- VEXP2 (R330). Computes 2 to the power sa element-wise. -/
  | vexp2 (f : VFields)
  /-- VLOG2 (R330). Computes the base-2 logarithm of sa element-wise. -/
  | vlog2 (f : VFields)
  /-- VMIN (R331). Takes the element-wise minimum. -/
  | vmin (f : VFields)
  /-- VMAX (R331). Takes the element-wise maximum. -/
  | vmax (f : VFields)
  /-- VABS (R331). Takes the element-wise absolute value. -/
  | vabs (f : VFields)
  /-- VNEG (R331). Negates each element. -/
  | vneg (f : VFields)
  /-- VCLAMP (R331). Clamps sa between sb and sc element-wise. -/
  | vclamp (f : VFields)
  /-- VFCSA (R333). Computes c plus a times 2^k exactly and rounds once to FP32. -/
  | vfcsa (f : VFields)
  /-- VMULH (R334). Writes the high 32 bits of each 64-bit product. -/
  | vmulh (f : VFields)
  /-- VAND (R334). Bitwise AND of each element. -/
  | vand (f : VFields)
  /-- VOR (R334). Bitwise OR of each element. -/
  | vor (f : VFields)
  /-- VXOR (R334). Bitwise XOR of each element. -/
  | vxor (f : VFields)
  /-- VNOT (R334). Bitwise NOT of each element. -/
  | vnot (f : VFields)
  /-- VSHL (R334). Shifts each element left. -/
  | vshl (f : VFields)
  /-- VSHR (R334). Shifts each element right with zeros entering. -/
  | vshr (f : VFields)
  /-- VSRA (R334). Shifts each element right arithmetically. -/
  | vsra (f : VFields)
  /-- VPOPC (R334). Counts the one bits of each element. -/
  | vpopc (f : VFields)
  /-- VCLZ (R334). Counts the leading zero bits of each element. -/
  | vclz (f : VFields)
  /-- VSADD (R334). Adds with saturation element-wise. -/
  | vsadd (f : VFields)
  /-- VSSUB (R334). Subtracts with saturation element-wise. -/
  | vssub (f : VFields)
  /-- VCMP (R335). Writes 1 or 0 per element by the selected comparison condition. -/
  | vcmp (f : VFields)
  /-- VSEL (R336). Selects sa or sb per element by bit 0 of sc. -/
  | vsel (f : VFields)
  /-- VMPOP (R337). Pushes the number of counting elements to the return queue. -/
  | vmpop (f : VFields)
  /-- VMFIRST (R337). Pushes the lowest flat index of a counting element to the return queue. -/
  | vmfirst (f : VFields)
  /-- VMOV (R338). Copies the bits of sa element-wise. -/
  | vmov (f : VFields)
  /-- VSPLAT (R345). Broadcasts the element at flat index k. -/
  | vsplat (f : VFields)
  /-- VIOTA (R339). Writes sa plus the flat index to each element. -/
  | viota (f : VFields)
  /-- VCVT (R340). Converts each element from the source type to the destination type. -/
  | vcvt (f : VFields)
  /-- VKEY (R341). Writes the total-order key of each element. -/
  | vkey (f : VFields)
  /-- VFOLD (R351). Folds the rows into row 0 by a fixed tree. -/
  | vfold (f : VFields)
  /-- VGATH (R345). Gathers elements of sa by per-element indices. -/
  | vgath (f : VFields)
  /-- VSLUP (R345). Slides elements up by k, flat or within rows. -/
  | vslup (f : VFields)
  /-- VSLDN (R345). Slides elements down by k, flat or within rows. -/
  | vsldn (f : VFields)
  /-- VCMPR (R346). Compresses the selected elements to the front of vd. -/
  | vcmpr (f : VFields)
  /-- VRSUM (R348). Sums the selected elements over a fixed pairwise tree. -/
  | vrsum (f : VFields)
  /-- VRMIN (R348). Takes the minimum of the selected elements over a fixed tree. -/
  | vrmin (f : VFields)
  /-- VRMAX (R348). Takes the maximum of the selected elements over a fixed tree. -/
  | vrmax (f : VFields)
  /-- VRMINI (R349). Pushes the minimum value with its lowest index. -/
  | vrmini (f : VFields)
  /-- VRMAXI (R349). Pushes the maximum value with its lowest index. -/
  | vrmaxi (f : VFields)
  /-- VRTS (R350). Computes a two-word sum of the selected FP32 elements. -/
  | vrts (f : VFields)
  /-- VSCAN (R352). Computes an inclusive or exclusive prefix combination in flat order. -/
  | vscan (f : VFields)
  /-- VCONF (R353). Counts earlier selected elements with equal bits. -/
  | vconf (f : VFields)
  /-- VLD (R358). Loads contiguous elements, converting the format, to vd or a queue. -/
  | vld (f : VFields)
  /-- VLDS (R358). Loads elements with two-dimensional strides. -/
  | vlds (f : VFields)
  /-- VLDX (R358). Loads elements at indexed addresses after a sounding pass. -/
  | vldx (f : VFields)
  /-- VST (R361). Stores contiguous elements with narrowing. -/
  | vst (f : VFields)
  /-- VSTS (R361). Stores elements with two-dimensional strides. -/
  | vsts (f : VFields)
  /-- VSTX_O (R362). Scatters elements, duplicates taking effect in ascending flat order. -/
  | vstxO (f : VFields)
  /-- VSTX_U (R362). Scatters elements, duplicates in any order. -/
  | vstxU (f : VFields)
  /-- VSTN (R363). Stores elements and writes waypoint counts as releases. -/
  | vstn (f : VFields)
  /-- VGLL (R364). Gathers elements and links each line read to the thread and stream. -/
  | vgll (f : VFields)
  /-- VSCC (R365). Stores elements on still-linked lines and writes the success mask. -/
  | vscc (f : VFields)
  /-- VSCTADD (R366). Combines duplicate addends and adds them atomically per distinct word. -/
  | vsctadd (f : VFields)
  /-- VSTRM (R367). Binds a load queue to a stream of addresses for a count of elements. -/
  | vstrm (f : VFields)
  /-- PACK (R398). Writes mantissas from a vector into k-steps of an operand slot. -/
  | pack (f : VFields)
  /-- WEXT (R399). Reads accumulator slots into a vector register, optionally clearing them. -/
  | wext (f : VFields)
  /-- RNOISE (R415). Writes each row's Gumbel noise value or noise index. -/
  | rnoise (f : VFields)
  /-- RBOUND (R415). Maps logit values through the score map with the selected rounding. -/
  | rbound (f : VFields)
  /-- VBIAS (R415). Looks up each row's sparse bias and penalty flag in an ascending list. -/
  | vbias (f : VFields)
  /-- RMASK (R415). Writes the score or minus infinity by each row's bitmap bit. -/
  | rmask (f : VFields)
  /-- RQUEUE (R416). Enters rows with score bounds into the shard's heap and raises the floor. -/
  | rqueue (f : VFields)
  /-- RQUEUE_K (R416). Records rank bounds on rows of the shard's heap. -/
  | rqueueK (f : VFields)
  /-- RNEXT (R417). Arrives at a round and hands out candidates with a status. -/
  | rnext (f : VFields)
  /-- RPOST (R418). Posts exact scores of handed-out rows to the arbiter. -/
  | rpost (f : VFields)
  /-- RZACC (R422). Adds probability terms to the shard's accumulators with directed rounding. -/
  | rzacc (f : VFields)
  /-- COPY2D (R436). Copy-engine command copying a two-dimensional range. -/
  | copy2d (eng : Nat) (n : Nat)
  /-- FILLTILE (R437). Copy-engine command writing k-steps of an operand slot from memory. -/
  | filltile (eng : Nat) (n : Nat)
  /-- ZERO_MEMORY (R435). Copy-engine command zeroing a memory range. -/
  | zeroMemory (eng : Nat) (n : Nat)
  /-- ZERO_SLOT (R437). Copy-engine command writing zero coefficients into k-steps of a slot. -/
  | zeroSlot (eng : Nat) (n : Nat)
  /-- SLABNEW (R87). Page-engine command creating a settled slab descriptor. -/
  | slabnew (eng : Nat) (n : Nat)
  /-- SLABGROW (R88). Page-engine command starting or resuming the doubling move of a slab. -/
  | slabgrow (eng : Nat) (n : Nat)
  /-- SLABFREE (R87). Page-engine command freeing a settled, unparked slab. -/
  | slabfree (eng : Nat) (n : Nat)
  /-- EXPORT (R111). Page-engine command writing a MACed prefix record of a slab's committed bytes. -/
  | exportPrefix (eng : Nat) (n : Nat)
  /-- IMPORT (R111). Page-engine command copying and verifying a prefix record into a slab. -/
  | importPrefix (eng : Nat) (n : Nat)
  /-- PROMOTE (R438). Page-engine command promoting a page to HBM. -/
  | promote (eng : Nat) (n : Nat)
  /-- DEMOTE (R438). Page-engine command demoting a page to the CXL or flash tier. -/
  | demote (eng : Nat) (n : Nat)
  /-- REDALLOC (R192). Fabric command asking a node for a reduction slot. -/
  | redalloc (eng : Nat) (n : Nat)
  /-- REDFREE (R198). Fabric command freeing an open reduction slot. -/
  | redfree (eng : Nat) (n : Nat)
  /-- PULLSET (R200). Fabric command configuring or clearing a pull window. -/
  | pullset (eng : Nat) (n : Nat)
  /-- MCAST (R439). Fabric command writing bytes to each member module and notifying each. -/
  | mcast (eng : Nat) (n : Nat)
  /-- ENGINE_RESULT_POST (R142). An engine command ends and its result word is posted to the thread's queue. -/
  | engineResultPost (eng : Nat) (n : Nat)
  /-- VCQ_ENTRY_EXECUTE (R309). A non-block VCQ entry such as VARG, SETLEN or a CSR write takes effect in sequence order. -/
  | vcqEntryExecute
  /-- SPLIT_CHANGE (R208). Once the core's vector work drains, the pending VSPLIT or VMERGE sets the new split. -/
  | splitChange (core : Nat)
  /-- RUNAHEAD_LOAD (R59). The access unit performs a queued load or stream fetch ahead of execution. -/
  | runaheadLoad (tid : Nat) (n : Nat)
  /-- EGRESS_STORE_PERFORM (R115). A store leaves a die's egress buffer and performs at its home. -/
  | egressStorePerform (die : Nat) (entry : Nat)
  /-- SYNC_MIRROR_UPDATE (R147). A mirror applies an update of a synchronisation cell from its home. -/
  | syncMirrorUpdate (die : Nat) (cell : Nat)
  /-- PAGE_WALK (R27). A walk completes, loading a leaf and setting A and D by compare-and-swap. -/
  | pageWalk (core : Nat) (vi : Nat) (asn : Nat) (va : BitVec 64) (store : Bool)
  /-- WFE_WAKE (R318). WFE re-reads its word on a write to the line or after 4096 cycles. -/
  | wfeWake (tid : Nat)
  /-- REGISTER_RETENTION (R79). A register partition enters retention after 8192 idle cycles. -/
  | registerRetention (tid : Nat)
  /-- TAKE_HELD_TRAP (R240). A pending held cause is taken at the control thread's next instruction boundary. -/
  | takeHeldTrap
  /-- WATCHDOG_EXPIRY (R250). The watchdog count reaches LIMIT and raises WATCHDOG or stops the domain. -/
  | watchdogExpiry (tid : Nat)
  /-- WMU_STEP (R381). A WMU step adds all lane products exactly or raises GUARD_OVF. -/
  | wmuStep (core : Nat) (wmu : Nat)
  /-- WMACS_BLOCK_START (R391). The sequencer starts a WMACS block operation once its conditions hold. -/
  | wmacsBlockStart (core : Nat) (op : Nat) (job : Nat) (kblk : Nat)
  /-- WMACS_DRAIN_RUN (R392). The vector thread runs the drain block for an ended block operation. -/
  | wmacsDrainRun
  /-- QUANTUM_EXPIRY (R222). A placed gang's quantum passes and it is checked for pre-emption. -/
  | quantumExpiry (gang : Nat)
  /-- STARVE_RAISE (R221). A queued gang that has waited STARVE microseconds is raised one level. -/
  | starveRaise (gang : Nat)
  /-- DOMSTOP (R210). A write of a region number stops that region's fault domain. -/
  | domstop (region : BitVec 12)
  /-- FQRES_RETRY (R185). A write of FQRES with retry retranslates the requests parked on an entry. -/
  | fqresRetry (seq : BitVec 32)
  /-- FQRES_REFUSE (R185). A write of FQRES with refuse refuses the requests parked on an entry. -/
  | fqresRefuse (seq : BitVec 32)
  /-- WDOG_WRITE (R250). A write of WDOG sets the watchdog and restarts its count. -/
  | wdogWrite (v : BitVec 64)
  /-- TSTATUS_VH_DISCARD (R244). Writing 0 to VH discards the held vector work. -/
  | tstatusVhDiscard
  /-- TSTATUS_WH_DISCARD (R244). Writing 0 to WH discards the held WMU operations. -/
  | tstatusWhDiscard
  /-- REGISTER_WRITE (R307). A write to a register without behaviour of its own stores the new value. -/
  | registerWrite (f : BitVec 12) (v : BitVec 64)
  /-- AGING_CHECK (R100). Each counter tick the page engine checks parked records and starts eligible demotions. -/
  | agingCheck (die : Nat)
  /-- DEMOTION_DONE (R99). A demotion finishes writing the encrypted page and returns the frame. -/
  | demotionDone (die : Nat) (n : Nat)
  /-- PROMOTION_DONE (R99). A promotion writes the frame and rewrites the leaf to TIER 00 or fails. -/
  | promotionDone (die : Nat) (n : Nat) (r : PromotionResult)
  /-- PARK_SAVE_DONE (R103). A record's SAVING steps end and it enters PARKED or PROMOTING. -/
  | parkSaveDone (rec : Nat)
  /-- HOT_WINDOW_DONE (R103). Every hot-window page reaches HBM and the record becomes RUNNABLE. -/
  | hotWindowDone (rec : Nat)
  /-- HOT_WINDOW_FAIL (R103). A hot-window promotion fails and the record becomes FAILED. -/
  | hotWindowFail (rec : Nat)
  /-- SLAB_CHUNK_COPIED (R89). The page engine copies one held 4 KiB chunk and advances CURSOR. -/
  | slabChunkCopied (die : Nat) (n : Nat)
  /-- HOST_ACCESS_HOLD_TIMEOUT (R44). A host access held for a tier is refused after 8 ms. -/
  | hostAccessHoldTimeout (n : Nat)
  /-- FABRIC_TARGET_REQUEST (R175). A fabric request arrives at its target and is translated and performed. -/
  | fabricTargetRequest (r : FabricArrival)
  /-- KEEP_WAITING_NOTICE (R181). Every 250 microseconds a target sends a notice for each held request. -/
  | keepWaitingNotice (n : Nat)
  /-- NOTICE_RECEIVED (R181). A keep-waiting notice restarts the requester's timer. -/
  | noticeReceived (req : Nat)
  /-- FABRIC_REPLY (R181). A reply or acknowledgement reaches the requester and ends its request. -/
  | fabricReply (req : Nat) (r : FabricReply)
  /-- FABRIC_TIMEOUT (R182). A request's timer expires and the matching fabric cause is raised. -/
  | fabricTimeout (req : Nat)
  /-- COMBINE_ARRIVAL (R188). A fetch-and-add arrives at an egress port and may combine with a waiting one. -/
  | combineArrival (req : Nat)
  /-- DECOMBINE_REPLY (R189). A reply passing a node with a record is split between the two members. -/
  | decombineReply (n : Nat) (r : FabricReply)
  /-- DECOMBINE_RECORD_DROP (R191). A record held 2,000,000 microseconds or uncorrectable is dropped. -/
  | decombineRecordDrop (n : Nat) (cause : RecordDrop)
  /-- LINK_CRC_ERROR (R179). A flit with a bad CRC is discarded and replayed, retraining after eight failures. -/
  | linkCrcError (port : Nat) (replay : Bool)
  /-- LINK_RETRAIN_FAIL (R179). A link that fails retraining is removed and firmware reroutes. -/
  | linkRetrainFail (port : Nat)
  /-- REDUCTION_LINE_ARRIVAL (R195). A contribution line arrives at a reduction slot and is refused, discarded or merged. -/
  | reductionLineArrival (a : ReductionLine)
  /-- PULL_LOAD (R200). A pull-aperture load makes the node read, reduce and return a line. -/
  | pullLoad (req : Nat) (lines : List MemberLine)
  /-- MIGRATE (R454). Mailbox request moving a page's home to another module. -/
  | migrate (vi : Nat)
  /-- HANDOVER_DRAINED (R202). Accepted accesses to the migrating page have performed; copying begins. -/
  | handoverDrained (n : Nat)
  /-- HANDOVER_COPIED (R202). The page is copied and the new leaf set valid; forwarding begins. -/
  | handoverCopied (n : Nat)
  /-- HANDOVER_SHOOTDOWN_DONE (R202). Held requests are forwarded and the old mapping's shootdown completes. -/
  | handoverShootdownDone (n : Nat)
  /-- HANDOVER_FREE_FRAME (R202). Firmware frees the old frame of a retired handover. -/
  | handoverFreeFrame (n : Nat)
  /-- RACE_ROUND_DECIDE (R419). Once every shard has arrived or stopped, candidates are decided against one best and floor. -/
  | raceRoundDecide (ctx : Nat)
  /-- HOST_WINDOW_READ (R43). A host read through a window is checked and completed or refused. -/
  | hostWindowRead (vi : Nat) (at_ : HostPlace) (n : Nat) (ide : Bool)
  /-- HOST_WINDOW_WRITE (R43). A host write through a window is checked and performed or refused. -/
  | hostWindowWrite (vi : Nat) (off : Nat) (w : HostWrite) (ide : Bool)
  /-- START (R218). A host write of a descriptor address launches a gang for the interface. -/
  | start (vi : Nat) (v : BitVec 64) (ide : Bool)
  /-- HWBASE (R449). A write of the host window base, moving a locked interface to ERROR. -/
  | hwbase (vi : Nat) (v : BitVec 64) (ide : Bool)
  /-- MBXBASE (R449). A write of the mailbox address, moving a locked interface to ERROR. -/
  | mbxbase (vi : Nat) (v : BitVec 64) (ide : Bool)
  /-- GET_MEASUREMENTS (R452). SPDM request returning the four measurement blocks. -/
  | getMeasurements (vi : Nat)
  /-- KEY_EXCHANGE (R452). SPDM request establishing the interface's one session. -/
  | keyExchange (vi : Nat) (secret : List (BitVec 8))
  /-- SETKEY (R452). Session request loading a key into slot 1 to 15. -/
  | setkey (vi : Nat) (slot : Nat) (key : BitVec 256)
  /-- CLRKEY (R452). Session request emptying a key slot. -/
  | clrkey (vi : Nat) (slot : Nat)
  /-- SETTENANT (R452). Session request setting the tenant id once. -/
  | settenant (vi : Nat) (id : BitVec 64)
  /-- BINDTAG (R452). Session request binding a remote fabric tenant tag to the interface. -/
  | bindtag (vi : Nat) (tag : BitVec 16)
  /-- TDISP_MESSAGE (R453). A TDISP message moves the interface between its TDISP states. -/
  | tdispMessage (vi : Nat) (m : TdispMessage)
  /-- STOP_INTERFACE (R453). Empties key slots, resets the tenant, stops region 0 and unlocks the interface. -/
  | stopInterface (vi : Nat)
  /-- IDE_KM (R453). Delivers selective IDE stream keys within the session. -/
  | ideKm (vi : Nat) (key : BitVec 256)
  /-- FIRMWARE_UPDATE (R455). The Binnacle verifies, reseals and writes a new firmware image. -/
  | firmwareUpdate (u : UpdateStep)
  /-- MODULE_RESET (R455). A module reset starts the image and returns tested fenced cores. -/
  | moduleReset (passed : List Nat)
  /-- POWER_CAP (R456). The Binnacle gates issue to hold power at or below 2,600 W over 1 ms. -/
  | powerCap (gate : Bool)
  /-- DIE_THROTTLE (R456). A die reaching 95 degrees is throttled. -/
  | dieThrottle (die : Nat) (temp : Nat)
  /-- DIE_SHUTDOWN (R456). A die reaching 105 degrees stops every domain with reason 6 and powers down the dies. -/
  | dieShutdown (temp : Nat)
  /-- CORE_FENCE (R457). Firmware fences off a core on an uncorrectable or 64th corrected error. -/
  | coreFence (core : Nat)
  /-- PLDM_MONITORING (R456). The Binnacle reports power, temperatures and errors over PLDM. -/
  | pldmMonitoring
  /-- ILLEGAL_INSTRUCTION (R286). A control thread or vector thread executes a word that is not an instruction and raises ILLEGAL. -/
  | illegalInstruction (vec : Bool) (w : BitVec 64)
  /-- INSTRUCTION_FETCH_FAULT (R17). An instruction or vector block fetch faults, or a block runs to word 256, raising the fetch fault or BLOCK_OVERRUN. -/
  | instructionFetchFault (vec : Bool) (addr : BitVec 64) (c : FetchFault)
  /-- ECC_ERROR (R248). A bit error strikes memory or a core structure, corrected silently and counted, or left poisoned for MACHINE_CHECK. -/
  | eccError (e : EccError)
  /-- END_SESSION (R452). The SPDM session of a virtual interface ends, keeping key slots, bindings and the tenant id. -/
  | endSession (vi : Nat)
  /-- CREATE_VIRTUAL_INTERFACE (R41). Firmware creates a virtual interface from the administrator's configuration, loading key slot 0, its shares and its SYNCWIN window. -/
  | createVirtualInterface (vi : Nat) (cfg : InterfaceConfig)
  /-- LINK_RETRAIN_DONE (R179). A link's retraining succeeds and traffic waiting on the link resumes. -/
  | linkRetrainDone (port : Nat)
  /-- FABRIC_NODE_FAILURE (R179). A fabric node or module fails, losing the requests it held and prompting reroute. -/
  | fabricNodeFailure (lost : List Nat)
  /-- POWER_FAIL (R455). Module power is lost, possibly during a firmware image write, which then leaves what `left` says in the flash, so the boot ROM later starts no tenant work. -/
  | powerFail (left : FirmwareImage)
  /-- COOLANT_LIMIT (R456). Inlet coolant temperature or flow leaves the cold plate's limits and the Binnacle acts on it. -/
  | coolantLimit (temp : Nat) (flow : Nat)
  /-- FIRMWARE_MAILBOX_REQUEST (R454). Firmware takes a claimed mailbox request whose code is not MIGRATE and refuses it with STATUS 1, vector 1 and CMD := 0. -/
  | firmwareMailboxRequest (vi : Nat)
  /-- EGRESS_QUEUE_DEPARTURE (R190). A waiting fetch-and-add leaves a hub or switch egress queue, freeing its combining entry. -/
  | egressQueueDeparture (n : Nat)
  /-- RACE_BEST_RECEIVED (R417). A core's race unit receives updated best and floor values from the arbiter outside lockstep. -/
  | raceBestReceived (tid : Nat)
  deriving DecidableEq, Repr

end Sys2Proof
end

