-- ==== Sys2Proof/WellFormed.lean ====
section
/-! DEFINITION. Which operands of an instruction are legal: the static checks of R257, R262, R270 to R286, R311, R327 to R357, R383, R398, R399, R410 and R414. A word whose instruction fails them raises ILLEGAL. -/

namespace Sys2Proof

/-- The CSR numbers of R295. -/
def csrListed : List Nat :=
  [0x000, 0x001, 0x002, 0x003, 0x004, 0x005, 0x006, 0x007, 0x008,
   0x010, 0x011, 0x012, 0x013, 0x014, 0x015, 0x016, 0x020,
   0x030, 0x031, 0x032, 0x033, 0x034, 0x035, 0x036, 0x037,
   0x040, 0x041, 0x042, 0x043, 0x044, 0x045, 0x050, 0x051, 0x052, 0x060, 0x0F0]
  ++ [0x800, 0x801, 0x802, 0x803, 0x804, 0x805, 0x806, 0x807, 0x808, 0x809, 0x80A, 0x80B, 0x80C]

/-- A CSR number that the map does not leave reserved; the firmware range counts as mapped (R238, R295). -/
def csrMapped (f : BitVec 12) : Bool :=
  decide (0xC00 ≤ f.toNat) || csrListed.contains f.toNat

/-- The CSRs whose writes enter the VCQ: FILL, RAD, FSTAT, FCTL (R308). -/
def csrQueued (f : BitVec 12) : Bool :=
  f = 0x005 || f = 0x007 || f = 0x010 || f = 0x016

/-- A CSR write names gd = g0 when the CSR's writes enter the VCQ (R308). -/
def csrWriteOk (d : BitVec 5) (f : BitVec 12) : Bool :=
  csrMapped f && (!csrQueued f || d = 0)

/-- Scope codes .t to .s (R272). -/
def scopeOk (c : BitVec 3) : Bool := decide (c.toNat ≤ 4)

namespace VFields

/-- A source code that names an operand (R278). -/
def codeOk (c : BitVec 6) : Bool := decide (c.toNat ≤ 45)

/-- A block argument or the literal: codes 36 to 44 (R357). -/
def ctlOk (c : BitVec 6) : Bool := decide (36 ≤ c.toNat) && decide (c.toNat ≤ 44)

/-- The count operand of VSPLAT and the slides: b0 to b7, the literal or FILL (R345). -/
def countOk (c : BitVec 6) : Bool := decide (36 ≤ c.toNat) && decide (c.toNat ≤ 45)

/-- L and the literal code 44 agree (R279), and a word without a literal carries none. -/
def literalOk (f : VFields) : Bool :=
  (if f.l = 1 then f.sa = 44 || f.sb = 44 || f.sc = 44 else f.sa ≠ 44 && f.sb ≠ 44 && f.sc ≠ 44)
  && (f.l = 1 || f.lit = 0)

/-- The checks every vector word shares (R277 to R280): type, mask, neighbour, operand codes, literal. -/
def common (f : VFields) : Bool :=
  decide (f.ty.toNat ≤ 3) && f.mask ≠ 3 && f.nb ≠ 3 && codeOk f.sa && codeOk f.sb && codeOk f.sc
  && literalOk f && (f.nb = 0 || decide (f.sa.toNat ≤ 31))

/-- The type is f32 or b16 (R252). -/
def isFloat (f : VFields) : Bool := decide (f.ty.toNat ≤ 1)

/-- Bits [24:22] of an arithmetic word (R262, R324). -/
def roundingOk (f : VFields) (rounds : Bool) : Bool :=
  if rounds && isFloat f then (f.rs &&& 1#3) = 0 else f.rs = 0

/-- The unused-field rule of R278 and the tail rule of R281. -/
def operandsOk (f : VFields) (useA useB useC writes : Bool) : Bool :=
  (useA || f.sa = 0) && (useB || f.sb = 0) && (useC || f.sc = 0) && (writes || (f.vd = 0 && f.tail = 0))

/-- The checks of an arithmetic word. -/
def arith (f : VFields) (useB useC writes types rounds ext : Bool) : Bool :=
  common f && operandsOk f true useB useC writes && types && roundingOk f rounds && ext

/-- The checks of a cross-lane word, which takes no neighbour modifier (R342). -/
def cross (f : VFields) (useB writes types rounds ext : Bool) : Bool :=
  arith f useB false writes types rounds ext && f.nb = 0

/-- f32 alone; i32 or n32; f32, i32 or n32. -/
def f32 (f : VFields) : Bool := f.ty = 0
def intTy (f : VFields) : Bool := f.ty = 2 || f.ty = 3
def word32 (f : VFields) : Bool := f.ty ≠ 1

/-- Bits [20:n] of the extension are zero. -/
def extBelow (f : VFields) (n : Nat) : Bool := decide (f.ext.toNat < 2 ^ n)

/-- The memory extension (R282). -/
def fmt (f : VFields) : Nat := f.ext.toNat / 2 ^ 16
def space (f : VFields) : BitVec 2 := f.ext.extractLsb' 14 2
def q (f : VFields) : Bool := f.ext.getLsbD 13
def queue (f : VFields) : Nat := f.ext.toNat / 2 ^ 11 % 4
def w (f : VFields) : Bool := f.ext.getLsbD 10
def off (f : VFields) : BitVec 10 := f.ext.extractLsb' 0 10

/-- Formats outside block floating point (R357). -/
def plainFmt (f : VFields) : Bool := decide (f.fmt ≤ 6) || decide (f.fmt = 17)

/-- Format and type pairs of a load (R257). -/
def loadPair (f : VFields) : Bool :=
  match f.fmt with
  | 0 => true
  | 1 => f.ty = 0 | 2 => f.ty = 0 | 3 => f.ty = 0
  | 4 => f.ty = 2 | 5 => f.ty = 3 | 6 => f.ty = 2
  | 16 => f.ty = 2
  | 17 => f.ty = 2 || f.ty = 3
  | n => decide (8 ≤ n) && decide (n ≤ 15) && f.ty = 0

/-- Format and type pairs of a store: those of a load, and f32 to i8, n8 and i16 (R257). -/
def storePair (f : VFields) : Bool :=
  loadPair f || (decide (4 ≤ f.fmt) && decide (f.fmt ≤ 6) && f.ty = 0)

/-- The frame of every memory word: base operand, queue fields, no modifier (R282). -/
def memCommon (f : VFields) (loadQ : Bool) : Bool :=
  common f && ctlOk f.sa && f.nb = 0 && (f.q || (f.queue = 0 && !f.w)) && (loadQ || !f.q)

/-- A load writes vd unless it goes to a queue alone; then vd and the tail bit are zero (R281, R282). -/
def loadDest (f : VFields) : Bool := !f.q || f.w || (f.vd = 0 && f.tail = 0)

/-- A scale operand is allowed on f32 stores to formats 1 to 6 only (R357). -/
def scaleOk (f : VFields) : Bool :=
  f.sc = 0 || (f.ty = 0 && decide (1 ≤ f.fmt) && decide (f.fmt ≤ 6))

/-- VLD and VST share the block floating-point operand forms (R357, R359). -/
def bfpOk (f : VFields) : Bool :=
  if f.fmt = 16 then f.sb = 0 && ctlOk f.sc && f.off = 0
  else decide (8 ≤ f.fmt) && decide (f.fmt ≤ 15) && ctlOk f.sb && ctlOk f.sc && f.off = 0

/-- Every field is zero: VSTOP and VNOP (R327). -/
def blank (f : VFields) : Bool :=
  f.vd = 0 && f.sa = 0 && f.sb = 0 && f.sc = 0 && f.ty = 0 && f.mask = 0 && f.tail = 0 && f.nb = 0
  && f.rs = 0 && f.l = 0 && f.lit = 0

/-- The extension of VBIAS and RMASK: format 0 and no queue (R414). -/
def raceMem (f : VFields) : Bool := f.fmt = 0 && !f.q && f.queue = 0 && !f.w

end VFields

/-- The operands of an instruction are legal. Engine commands and events carry no encoding of their own. VMPOP and VMFIRST take every
type code (log 109). -/
def Instr.wf : Instr → Bool
  | .add _ _ _ => true
  | .sub _ _ _ => true
  | .and _ _ _ => true
  | .or _ _ _ => true
  | .xor _ _ _ => true
  | .shl _ _ _ => true
  | .shr _ _ _ => true
  | .sra _ _ _ => true
  | .mul _ _ _ => true
  | .mulh _ _ _ => true
  | .mulhn _ _ _ => true
  | .div _ _ _ => true
  | .divn _ _ _ => true
  | .rem _ _ _ => true
  | .remn _ _ _ => true
  | .slt _ _ _ => true
  | .sltn _ _ _ => true
  | .min _ _ _ => true
  | .max _ _ _ => true
  | .minn _ _ _ => true
  | .maxn _ _ _ => true
  | .clz _ _ => true
  | .popc _ _ => true
  | .addi _ _ _ => true
  | .andi _ _ _ => true
  | .ori _ _ _ => true
  | .xori _ _ _ => true
  | .shli _ _ _ => true
  | .shri _ _ _ => true
  | .srai _ _ _ => true
  | .slti _ _ _ => true
  | .sltni _ _ _ => true
  | .limc _ _ _ => true
  | .addpc _ _ => true
  | .ld _ _ s _ _ => decide (s.toNat ≠ 7)
  | .st _ _ s _ _ => decide (s.toNat ≠ 7) && s.toNat % 2 = 0
  | .beq _ _ _ => true
  | .bne _ _ _ => true
  | .blt _ _ _ => true
  | .bge _ _ _ => true
  | .bltn _ _ _ => true
  | .bgen _ _ _ => true
  | .jmp _ => true
  | .call _ => true
  | .jmpr _ _ _ => true
  | .amoAdd _ _ _ _ _ c _ => scopeOk c
  | .amoAnd _ _ _ _ _ c _ => scopeOk c
  | .amoOr _ _ _ _ _ c _ => scopeOk c
  | .amoXor _ _ _ _ _ c _ => scopeOk c
  | .amoSwp _ _ _ _ _ c _ => scopeOk c
  | .amoCas _ _ _ _ _ c _ => scopeOk c
  | .amoMin _ _ _ _ _ c _ => scopeOk c
  | .amoMax _ _ _ _ _ c _ => scopeOk c
  | .amoMinn _ _ _ _ _ c _ => scopeOk c
  | .amoMaxn _ _ _ _ _ c _ => scopeOk c
  | .csrr _ f => csrMapped f
  | .csrw d _ f => csrWriteOk d f
  | .csrs d _ f => csrWriteOk d f
  | .csrc d _ f => csrWriteOk d f
  | .setlen _ _ => true
  | .setlen2d _ _ => true
  | .vsplit n => n = 1 || n = 2 || n = 4
  | .vmerge => true
  | .varg _ _ => true
  | .vpop _ => true
  | .vqwait _ => true
  | .vqwaitAll => true
  | .vseq _ => true
  | .vfLabel _ => true
  | .vfReg _ _ => true
  | .fenceSv => true
  | .fenceVs => true
  | .fenceVv => true
  | .fenceScoped o c => o ≠ 0 && scopeOk c
  | .trap _ => true
  | .rte => true
  | .wfe _ _ _ _ => true
  | .park _ _ => true
  | .yield => true
  | .exit => true
  | .brk => true
  | .iflush => true
  | .tlbinvPg _ c _ => decide (c.toNat ≤ 2)
  | .tlbinvAs c _ => decide (c.toNat ≤ 2)
  | .tlbinvVi c => decide (c.toNat ≤ 2)
  | .launch _ _ => true
  | .eput _ e => decide (e.toNat ≤ 2)
  | .eget _ e => decide (e.toNat ≤ 2)
  | .ecnt _ e => decide (e.toNat ≤ 2)
  | .sytas _ _ _ _ c => scopeOk c
  | .syadd _ _ _ _ c => scopeOk c
  | .syrd _ _ _ c => scopeOk c
  | .tclaim _ _ c => decide (1 ≤ c.toNat) && decide (c.toNat ≤ 64)
  | .tclaimP _ _ c => decide (1 ≤ c.toNat) && decide (c.toNat ≤ 64) && c.toNat % 2 = 0
  | .tclaimA _ => true
  | .trel _ => true
  | .trelA _ => true
  | .tstat _ _ => true
  | .tstatA _ _ => true
  | .wcfg _ _ => true
  | .wcfgW _ _ => true
  | .wcfgR _ => true
  | .wzero _ => true
  | .wmac _ => true
  | .wmacsO _ => true
  | .wmacsF _ => true
  | .wwait _ => true
  | .wwaitAll => true
  | .wnorm _ => true
  | .rbegin _ _ => true
  | .rcfg _ f => decide (f.toNat ≤ 5)
  | .rcfgR _ f => decide (f.toNat ≤ 5)
  | .rwait _ => true
  | .rprob _ => true
  | .rprobX _ => true
  | .rend => true
  | .vstop f => f.blank && f.ext = 0
  | .vnop f => f.blank && f.ext = 0
  | .vsbar f => f.blank && f.extBelow 8
  | .vadd f => f.arith true false true (true) true (f.ext = 0)
  | .vsub f => f.arith true false true (true) true (f.ext = 0)
  | .vmul f => f.arith true false true (true) true (f.ext = 0)
  | .vfma f => f.arith true true true (f.isFloat) true (f.ext = 0)
  | .vfms f => f.arith true true true (f.isFloat) true (f.ext = 0)
  | .vfnma f => f.arith true true true (f.isFloat) true (f.ext = 0)
  | .vdiv f => f.arith true false true (f.isFloat) true (f.ext = 0)
  | .vsqrt f => f.arith false false true (f.isFloat) true (f.ext = 0)
  | .vexp2 f => f.arith false false true (f.isFloat) true (f.ext = 0)
  | .vlog2 f => f.arith false false true (f.isFloat) true (f.ext = 0)
  | .vmin f => f.arith true false true (true) false (f.ext = 0)
  | .vmax f => f.arith true false true (true) false (f.ext = 0)
  | .vabs f => f.arith false false true (true) false (f.ext = 0)
  | .vneg f => f.arith false false true (true) false (f.ext = 0)
  | .vclamp f => f.arith true true true (true) false (f.ext = 0)
  | .vfcsa f => f.arith true true true (f.f32) true (f.ext = 0)
  | .vmulh f => f.arith true false true (f.intTy) false (f.ext = 0)
  | .vand f => f.arith true false true (f.intTy) false (f.ext = 0)
  | .vor f => f.arith true false true (f.intTy) false (f.ext = 0)
  | .vxor f => f.arith true false true (f.intTy) false (f.ext = 0)
  | .vnot f => f.arith false false true (f.intTy) false (f.ext = 0)
  | .vshl f => f.arith true false true (f.intTy) false (f.ext = 0)
  | .vshr f => f.arith true false true (f.intTy) false (f.ext = 0)
  | .vsra f => f.arith true false true (f.intTy) false (f.ext = 0)
  | .vpopc f => f.arith false false true (f.intTy) false (f.ext = 0)
  | .vclz f => f.arith false false true (f.intTy) false (f.ext = 0)
  | .vsadd f => f.arith true false true (f.intTy) false (f.ext = 0)
  | .vssub f => f.arith true false true (f.intTy) false (f.ext = 0)
  | .vcmp f => f.arith true false true (true) false (f.extBelow 3)
  | .vsel f => f.arith true true true (true) false (f.ext = 0)
  | .vmpop f => f.arith false false false (true) false (f.ext = 0)
  | .vmfirst f => f.arith false false false (true) false (f.ext = 0)
  | .vmov f => f.arith false false true (true) false (f.ext = 0)
  | .vsplat f => f.cross true true (true) false (VFields.countOk f.sb && f.ext = 0)
  | .viota f => f.arith false false true (f.intTy) false (f.ext = 0)
  | .vcvt f => f.common && f.operandsOk true false false true && (f.rs &&& 1#3) = 0 && f.extBelow 2
  | .vkey f => f.arith false false true (true) false (f.ext = 0)
  | .vfold f => f.cross false true (f.ext ≠ 3 || f.intTy) (f.ext = 0) (f.extBelow 2)
  | .vgath f => f.cross true true (true) false (f.ext = 0)
  | .vslup f => f.cross true true (true) false (VFields.countOk f.sb && f.extBelow 1)
  | .vsldn f => f.cross true true (true) false (VFields.countOk f.sb && f.extBelow 1)
  | .vcmpr f => f.cross false true (true) false (f.extBelow 1)
  | .vrsum f => f.cross false true (true) true (f.extBelow 1)
  | .vrmin f => f.cross false true (true) false (f.extBelow 1)
  | .vrmax f => f.cross false true (true) false (f.extBelow 1)
  | .vrmini f => f.cross false false (true) false (f.ext = 0)
  | .vrmaxi f => f.cross false false (true) false (f.ext = 0)
  | .vrts f => f.cross false true (f.f32) false (f.extBelow 1)
  | .vscan f => f.cross false true ((f.ext &&& 3#21) ≠ 3#21 || f.intTy) ((f.ext &&& 3#21) = 0) (f.extBelow 3)
  | .vconf f => f.cross false true (true) false (f.ext = 0)
  | .vld f => f.memCommon true && f.loadDest && f.loadPair && (if f.plainFmt then f.sb = 0 && f.sc = 0 else f.bfpOk)
  | .vlds f => f.memCommon true && f.loadDest && f.loadPair && f.plainFmt && VFields.ctlOk f.sb && f.sc = 0
  | .vldx f => f.memCommon true && f.loadDest && f.loadPair && f.plainFmt && f.sc = 0
  | .vst f => f.memCommon false && f.tail = 0 && f.storePair && (if f.plainFmt then f.sb = 0 && f.scaleOk else f.bfpOk)
  | .vsts f => f.memCommon false && f.tail = 0 && f.storePair && f.plainFmt && VFields.ctlOk f.sb && f.scaleOk
  | .vstxO f => f.memCommon false && f.tail = 0 && f.storePair && f.plainFmt && f.sc = 0
  | .vstxU f => f.memCommon false && f.tail = 0 && f.storePair && f.plainFmt && f.sc = 1
  | .vstn f => f.memCommon false && f.tail = 0 && f.storePair && f.plainFmt && VFields.ctlOk f.sb && f.scaleOk
  | .vgll f => f.memCommon false && f.fmt = 0 && f.word32 && f.sc = 0
  | .vscc f => f.memCommon false && f.fmt = 0 && f.word32 && f.sc = 0
  | .vsctadd f => f.memCommon false && f.tail = 0 && f.fmt = 0 && f.word32 && f.sc = 0
  | .vstrm f => f.memCommon true && f.q && !f.w && f.vd = 0 && f.tail = 0 && f.mask = 0 && f.loadPair && f.plainFmt && VFields.ctlOk f.sb && f.sc = 0
  | .pack f => f.common && f.vd = 0 && f.sc = 0 && f.ty = 2 && decide (f.mask.toNat ≤ 1) && f.tail = 0 && f.nb = 0 && f.rs = 0 && f.ext = 0 && decide (f.sa.toNat ≤ 35) && VFields.ctlOk f.sb
  | .wext f => f.common && f.sa = 0 && f.ty = 2 && f.rs = 0 && f.nb = 0 && VFields.ctlOk f.sb && VFields.ctlOk f.sc && (f.ext &&& 2#21) = 0 && f.extBelow 3
  | .rnoise f => f.cross false true (f.ty = 0 || f.ty = 3) false (f.ext = 0)
  | .rbound f => f.common && f.nb = 0 && f.operandsOk true true true true && f.ty = 0 && (f.rs &&& 1#3) = 0 && f.rs ≠ 2 && f.ext ≠ 3 && f.extBelow 2
  | .vbias f => f.memCommon false && f.raceMem && (f.ty = 0 || f.ty = 3) && VFields.ctlOk f.sc
  | .rmask f => f.memCommon false && f.raceMem && f.ty = 0
  | .rqueue f => f.common && f.nb = 0 && f.vd = 0 && f.tail = 0 && f.ty = 0 && f.rs = 0 && f.ext = 0
  | .rqueueK f => f.common && f.nb = 0 && f.vd = 0 && f.tail = 0 && f.ty = 0 && f.rs = 0 && f.ext = 1
  | .rnext f => f.common && f.nb = 0 && f.sa = 0 && f.sb = 0 && f.sc = 0 && f.ty = 3 && f.rs = 0 && f.ext = 0 && f.mask = 0
  | .rpost f => f.common && f.nb = 0 && f.vd = 0 && f.tail = 0 && f.ty = 0 && f.rs = 0 && f.ext = 0
  | .rzacc f => f.common && f.nb = 0 && f.vd = 0 && f.tail = 0 && f.sc = 0 && f.ty = 0 && f.rs = 0 && f.ext = 0
  | .copy2d _ _ => true
  | .filltile _ _ => true
  | .zeroMemory _ _ => true
  | .zeroSlot _ _ => true
  | .slabnew _ _ => true
  | .slabgrow _ _ => true
  | .slabfree _ _ => true
  | .exportPrefix _ _ => true
  | .importPrefix _ _ => true
  | .promote _ _ => true
  | .demote _ _ => true
  | .redalloc _ _ => true
  | .redfree _ _ => true
  | .pullset _ _ => true
  | .mcast _ _ => true
  | .engineResultPost _ _ => true
  | .vcqEntryExecute => true
  | .splitChange _ => true
  | .runaheadLoad _ _ => true
  | .egressStorePerform _ _ => true
  | .syncMirrorUpdate _ _ => true
  | .pageWalk _ _ _ _ _ => true
  | .wfeWake _ => true
  | .registerRetention _ => true
  | .takeHeldTrap => true
  | .watchdogExpiry _ => true
  | .wmuStep _ _ => true
  | .wmacsBlockStart _ _ _ _ => true
  | .wmacsDrainRun => true
  | .quantumExpiry _ => true
  | .starveRaise _ => true
  | .domstop _ => true
  | .fqresRetry _ => true
  | .fqresRefuse _ => true
  | .wdogWrite _ => true
  | .tstatusVhDiscard => true
  | .tstatusWhDiscard => true
  | .registerWrite _ _ => true
  | .agingCheck _ => true
  | .demotionDone _ _ => true
  | .promotionDone _ _ _ => true
  | .parkSaveDone _ => true
  | .hotWindowDone _ => true
  | .hotWindowFail _ => true
  | .slabChunkCopied _ _ => true
  | .hostAccessHoldTimeout _ => true
  | .fabricTargetRequest _ => true
  | .keepWaitingNotice _ => true
  | .noticeReceived _ => true
  | .fabricReply _ _ => true
  | .fabricTimeout _ => true
  | .combineArrival _ => true
  | .decombineReply _ _ => true
  | .decombineRecordDrop _ _ => true
  | .linkCrcError _ _ => true
  | .linkRetrainFail _ => true
  | .reductionLineArrival _ => true
  | .pullLoad _ _ => true
  | .migrate _ => true
  | .handoverDrained _ => true
  | .handoverCopied _ => true
  | .handoverShootdownDone _ => true
  | .handoverFreeFrame _ => true
  | .raceRoundDecide _ => true
  | .hostWindowRead _ _ _ _ => true
  | .hostWindowWrite _ _ _ _ => true
  | .start _ _ _ => true
  | .hwbase _ _ _ => true
  | .mbxbase _ _ _ => true
  | .getMeasurements _ => true
  | .keyExchange _ _ => true
  | .setkey _ _ _ => true
  | .clrkey _ _ => true
  | .settenant _ _ => true
  | .bindtag _ _ => true
  | .tdispMessage _ _ => true
  | .stopInterface _ => true
  | .ideKm _ _ => true
  | .firmwareUpdate _ => true
  | .moduleReset _ => true
  | .powerCap _ => true
  | .dieThrottle _ _ => true
  | .dieShutdown _ => true
  | .coreFence _ => true
  | .pldmMonitoring => true
  | .illegalInstruction _ _ => true
  | .instructionFetchFault _ _ _ => true
  | .eccError _ => true
  | .endSession _ => true
  | .createVirtualInterface _ _ => true
  | .linkRetrainDone _ => true
  | .fabricNodeFailure _ => true
  | .powerFail _ => true
  | .coolantLimit _ _ => true
  | .firmwareMailboxRequest _ => true
  | .egressQueueDeparture _ => true
  | .raceBestReceived _ => true

end Sys2Proof
end

