-- ==== Sys2Proof/Decode.lean ====
section
/-! DEFINITION. The decoder of scalar and vector words (R269 to R285), total on any bytes, and the encoder written from the same tables. Words are read as natural numbers, bit 0 least significant (R3). -/

namespace Sys2Proof

/-- Why bytes are no instruction: too few of them, or an encoding no row of the maps of R274 and R285 lists. -/
inductive Reject where
  | tooShort
  | unlisted
  deriving DecidableEq, Repr

/-- Bits [lo + n − 1 : lo] of a word. -/
def fld (w lo n : Nat) : BitVec n := BitVec.ofNat n (w / 2 ^ lo)

/-- Bits [lo + n − 1 : lo] of a word hold the value `v`. -/
def has (w lo n v : Nat) : Bool := w / 2 ^ lo % 2 ^ n == v

/-- The little-endian number of some bytes (R3). -/
def leNat : List Byte → Nat
  | [] => 0
  | b :: bs => b.toNat + 256 * leNat bs

/-- The `n` little-endian bytes of a number (R3). -/
def leBytes : (n : Nat) → Nat → List Byte
  | 0, _ => []
  | n + 1, x => BitVec.ofNat 8 x :: leBytes n (x / 256)

/-- The scalar words (R274), by major and minor. -/
def decodeScalar (w : Nat) : Option Instr :=
  match w / 2 ^ 26 % 64 with
  | 1 =>
    if has w 0 11 0 then some (.add (fld w 21 5) (fld w 16 5) (fld w 11 5))
    else if has w 0 11 64 then some (.sub (fld w 21 5) (fld w 16 5) (fld w 11 5))
    else if has w 0 11 128 then some (.and (fld w 21 5) (fld w 16 5) (fld w 11 5))
    else if has w 0 11 192 then some (.or (fld w 21 5) (fld w 16 5) (fld w 11 5))
    else if has w 0 11 256 then some (.xor (fld w 21 5) (fld w 16 5) (fld w 11 5))
    else if has w 0 11 320 then some (.shl (fld w 21 5) (fld w 16 5) (fld w 11 5))
    else if has w 0 11 384 then some (.shr (fld w 21 5) (fld w 16 5) (fld w 11 5))
    else if has w 0 11 448 then some (.sra (fld w 21 5) (fld w 16 5) (fld w 11 5))
    else if has w 0 11 512 then some (.mul (fld w 21 5) (fld w 16 5) (fld w 11 5))
    else if has w 0 11 576 then some (.mulh (fld w 21 5) (fld w 16 5) (fld w 11 5))
    else if has w 0 11 640 then some (.mulhn (fld w 21 5) (fld w 16 5) (fld w 11 5))
    else if has w 0 11 704 then some (.div (fld w 21 5) (fld w 16 5) (fld w 11 5))
    else if has w 0 11 768 then some (.divn (fld w 21 5) (fld w 16 5) (fld w 11 5))
    else if has w 0 11 832 then some (.rem (fld w 21 5) (fld w 16 5) (fld w 11 5))
    else if has w 0 11 896 then some (.remn (fld w 21 5) (fld w 16 5) (fld w 11 5))
    else if has w 0 11 960 then some (.slt (fld w 21 5) (fld w 16 5) (fld w 11 5))
    else if has w 0 11 1024 then some (.sltn (fld w 21 5) (fld w 16 5) (fld w 11 5))
    else if has w 0 11 1088 then some (.min (fld w 21 5) (fld w 16 5) (fld w 11 5))
    else if has w 0 11 1152 then some (.max (fld w 21 5) (fld w 16 5) (fld w 11 5))
    else if has w 0 11 1216 then some (.minn (fld w 21 5) (fld w 16 5) (fld w 11 5))
    else if has w 0 11 1280 then some (.maxn (fld w 21 5) (fld w 16 5) (fld w 11 5))
    else if has w 0 16 1344 then some (.clz (fld w 21 5) (fld w 16 5))
    else if has w 0 16 1408 then some (.popc (fld w 21 5) (fld w 16 5))
    else none
  | 2 => some (.addi (fld w 21 5) (fld w 16 5) (fld w 0 16))
  | 3 => some (.andi (fld w 21 5) (fld w 16 5) (fld w 0 16))
  | 4 => some (.ori (fld w 21 5) (fld w 16 5) (fld w 0 16))
  | 5 => some (.xori (fld w 21 5) (fld w 16 5) (fld w 0 16))
  | 6 =>
    if has w 6 10 0 then some (.shli (fld w 21 5) (fld w 16 5) (fld w 0 6))
    else none
  | 7 =>
    if has w 6 10 0 then some (.shri (fld w 21 5) (fld w 16 5) (fld w 0 6))
    else none
  | 8 =>
    if has w 6 10 0 then some (.srai (fld w 21 5) (fld w 16 5) (fld w 0 6))
    else none
  | 9 => some (.slti (fld w 21 5) (fld w 16 5) (fld w 0 16))
  | 10 => some (.sltni (fld w 21 5) (fld w 16 5) (fld w 0 16))
  | 11 =>
    if has w 18 3 0 then some (.limc (fld w 21 5) (fld w 16 2) (fld w 0 16))
    else none
  | 12 =>
    if has w 16 5 0 then some (.addpc (fld w 21 5) (fld w 0 16))
    else none
  | 13 => some (.ld (fld w 21 5) (fld w 16 5) (fld w 13 3) (fld w 11 2) (fld w 0 11))
  | 14 => some (.st (fld w 21 5) (fld w 16 5) (fld w 13 3) (fld w 11 2) (fld w 0 11))
  | 15 => some (.beq (fld w 21 5) (fld w 16 5) (fld w 0 16))
  | 16 => some (.bne (fld w 21 5) (fld w 16 5) (fld w 0 16))
  | 17 => some (.blt (fld w 21 5) (fld w 16 5) (fld w 0 16))
  | 18 => some (.bge (fld w 21 5) (fld w 16 5) (fld w 0 16))
  | 19 => some (.bltn (fld w 21 5) (fld w 16 5) (fld w 0 16))
  | 20 => some (.bgen (fld w 21 5) (fld w 16 5) (fld w 0 16))
  | 21 => some (.jmp (fld w 0 26))
  | 22 => some (.call (fld w 0 26))
  | 23 => some (.jmpr (fld w 21 5) (fld w 16 5) (fld w 0 16))
  | 24 =>
    if has w 6 4 0 then some (.amoAdd (fld w 21 5) (fld w 16 5) (fld w 11 5) (fld w 10 1) (fld w 4 2) (fld w 1 3) (fld w 0 1))
    else if has w 6 4 1 then some (.amoAnd (fld w 21 5) (fld w 16 5) (fld w 11 5) (fld w 10 1) (fld w 4 2) (fld w 1 3) (fld w 0 1))
    else if has w 6 4 2 then some (.amoOr (fld w 21 5) (fld w 16 5) (fld w 11 5) (fld w 10 1) (fld w 4 2) (fld w 1 3) (fld w 0 1))
    else if has w 6 4 3 then some (.amoXor (fld w 21 5) (fld w 16 5) (fld w 11 5) (fld w 10 1) (fld w 4 2) (fld w 1 3) (fld w 0 1))
    else if has w 6 4 4 then some (.amoSwp (fld w 21 5) (fld w 16 5) (fld w 11 5) (fld w 10 1) (fld w 4 2) (fld w 1 3) (fld w 0 1))
    else if has w 6 4 5 then some (.amoCas (fld w 21 5) (fld w 16 5) (fld w 11 5) (fld w 10 1) (fld w 4 2) (fld w 1 3) (fld w 0 1))
    else if has w 6 4 6 then some (.amoMin (fld w 21 5) (fld w 16 5) (fld w 11 5) (fld w 10 1) (fld w 4 2) (fld w 1 3) (fld w 0 1))
    else if has w 6 4 7 then some (.amoMax (fld w 21 5) (fld w 16 5) (fld w 11 5) (fld w 10 1) (fld w 4 2) (fld w 1 3) (fld w 0 1))
    else if has w 6 4 8 then some (.amoMinn (fld w 21 5) (fld w 16 5) (fld w 11 5) (fld w 10 1) (fld w 4 2) (fld w 1 3) (fld w 0 1))
    else if has w 6 4 9 then some (.amoMaxn (fld w 21 5) (fld w 16 5) (fld w 11 5) (fld w 10 1) (fld w 4 2) (fld w 1 3) (fld w 0 1))
    else none
  | 25 =>
    if has w 12 9 0 then some (.csrr (fld w 21 5) (fld w 0 12))
    else if has w 12 4 1 then some (.csrw (fld w 21 5) (fld w 16 5) (fld w 0 12))
    else if has w 12 4 2 then some (.csrs (fld w 21 5) (fld w 16 5) (fld w 0 12))
    else if has w 12 4 3 then some (.csrc (fld w 21 5) (fld w 16 5) (fld w 0 12))
    else none
  | 26 =>
    if has w 0 16 0 then some (.setlen (fld w 21 5) (fld w 16 5))
    else if has w 0 16 1 then some (.setlen2d (fld w 21 5) (fld w 16 5))
    else if has w 12 14 1 then some (.vsplit (fld w 0 12))
    else if has w 0 26 8192 then some (.vmerge)
    else if has w 3 13 1536 && has w 21 5 0 then some (.varg (fld w 16 5) (fld w 0 3))
    else if has w 0 21 16384 then some (.vpop (fld w 21 5))
    else if has w 0 16 20480 && has w 21 5 0 then some (.vqwait (fld w 16 5))
    else if has w 0 26 20481 then some (.vqwaitAll)
    else if has w 0 21 24576 then some (.vseq (fld w 21 5))
    else none
  | 27 =>
    if has w 16 10 32 then some (.vfLabel (fld w 0 16))
    else if has w 21 5 0 then some (.vfReg (fld w 16 5) (fld w 0 16))
    else none
  | 28 =>
    if has w 0 26 0 then some (.fenceSv)
    else if has w 0 26 4096 then some (.fenceVs)
    else if has w 0 26 8192 then some (.fenceVv)
    else if has w 0 1 0 && has w 6 20 192 then some (.fenceScoped (fld w 4 2) (fld w 1 3))
    else none
  | 29 =>
    if has w 12 14 0 then some (.trap (fld w 0 12))
    else if has w 0 26 4096 then some (.rte)
    else if has w 2 5 0 && has w 12 4 2 then some (.wfe (fld w 21 5) (fld w 16 5) (fld w 7 5) (fld w 0 2))
    else if has w 0 16 12288 then some (.park (fld w 21 5) (fld w 16 5))
    else if has w 0 26 16384 then some (.yield)
    else if has w 0 26 20480 then some (.exit)
    else if has w 0 26 24576 then some (.brk)
    else if has w 0 26 28672 then some (.iflush)
    else if has w 4 5 0 && has w 12 4 8 && has w 21 5 0 then some (.tlbinvPg (fld w 16 5) (fld w 9 3) (fld w 0 4))
    else if has w 4 5 8 && has w 12 14 8 then some (.tlbinvAs (fld w 9 3) (fld w 0 4))
    else if has w 0 9 256 && has w 12 14 8 then some (.tlbinvVi (fld w 9 3))
    else if has w 0 16 36864 then some (.launch (fld w 21 5) (fld w 16 5))
    else none
  | 30 =>
    if has w 6 10 0 && has w 21 5 0 then some (.eput (fld w 16 5) (fld w 0 6))
    else if has w 6 15 1 then some (.eget (fld w 21 5) (fld w 0 6))
    else if has w 6 15 2 then some (.ecnt (fld w 21 5) (fld w 0 6))
    else none
  | 31 =>
    if has w 0 1 1 && has w 6 5 0 then some (.sytas (fld w 21 5) (fld w 16 5) (fld w 11 5) (fld w 4 2) (fld w 1 3))
    else if has w 0 1 1 && has w 6 5 1 then some (.syadd (fld w 21 5) (fld w 16 5) (fld w 11 5) (fld w 4 2) (fld w 1 3))
    else if has w 0 1 1 && has w 5 11 4 then some (.syrd (fld w 21 5) (fld w 16 5) (fld w 4 1) (fld w 1 3))
    else none
  | 32 =>
    if has w 7 9 0 then some (.tclaim (fld w 21 5) (fld w 16 5) (fld w 0 7))
    else if has w 7 9 8 then some (.tclaimP (fld w 21 5) (fld w 16 5) (fld w 0 7))
    else if has w 0 21 2048 then some (.tclaimA (fld w 21 5))
    else if has w 0 16 4096 && has w 21 5 0 then some (.trel (fld w 16 5))
    else if has w 0 16 6144 && has w 21 5 0 then some (.trelA (fld w 16 5))
    else if has w 0 16 8192 then some (.tstat (fld w 21 5) (fld w 16 5))
    else if has w 0 16 10240 then some (.tstatA (fld w 21 5) (fld w 16 5))
    else if has w 0 16 12288 then some (.wcfg (fld w 21 5) (fld w 16 5))
    else if has w 0 16 14336 then some (.wcfgW (fld w 21 5) (fld w 16 5))
    else if has w 0 21 12289 then some (.wcfgR (fld w 21 5))
    else if has w 0 16 16384 && has w 21 5 0 then some (.wzero (fld w 16 5))
    else if has w 0 16 20480 && has w 21 5 0 then some (.wmac (fld w 16 5))
    else if has w 0 16 24577 && has w 21 5 0 then some (.wmacsO (fld w 16 5))
    else if has w 0 16 24576 && has w 21 5 0 then some (.wmacsF (fld w 16 5))
    else if has w 0 16 28672 && has w 21 5 0 then some (.wwait (fld w 16 5))
    else if has w 0 26 28673 then some (.wwaitAll)
    else if has w 0 16 32768 && has w 21 5 0 then some (.wnorm (fld w 16 5))
    else none
  | 33 =>
    if has w 0 16 0 then some (.rbegin (fld w 21 5) (fld w 16 5))
    else if has w 4 12 256 && has w 21 5 0 then some (.rcfg (fld w 16 5) (fld w 0 4))
    else if has w 4 17 384 then some (.rcfgR (fld w 21 5) (fld w 0 4))
    else if has w 0 21 8192 then some (.rwait (fld w 21 5))
    else if has w 0 21 12288 then some (.rprob (fld w 21 5))
    else if has w 0 21 12289 then some (.rprobX (fld w 21 5))
    else if has w 0 26 16384 then some (.rend)
    else none
  | _ => none

/-- The fields of a vector word (R277) and its literal. -/
def vfields (w lit : Nat) : VFields :=
  { vd := fld w 51 5, sa := fld w 45 6, sb := fld w 39 6, sc := fld w 33 6, ty := fld w 30 3, mask := fld w 28 2,
    tail := fld w 27 1, nb := fld w 25 2, rs := fld w 22 3, l := fld w 21 1, ext := fld w 0 21,
    lit := if (fld w 21 1 : BitVec 1) = 1 then BitVec.ofNat 64 lit else 0 }

/-- The number of a vector word's fields below its opcode. -/
def VFields.toNat (f : VFields) : Nat :=
  f.vd.toNat * 2 ^ 51 + f.sa.toNat * 2 ^ 45 + f.sb.toNat * 2 ^ 39 + f.sc.toNat * 2 ^ 33 + f.ty.toNat * 2 ^ 30
  + f.mask.toNat * 2 ^ 28 + f.tail.toNat * 2 ^ 27 + f.nb.toNat * 2 ^ 25 + f.rs.toNat * 2 ^ 22 + f.l.toNat * 2 ^ 21
  + f.ext.toNat

/-- The vector words (R285), by opcode; VSTX names its form in sc and RQUEUE in ext[0]. -/
def decodeVector (w lit : Nat) : Option Instr :=
  let f := vfields w lit
  match w / 2 ^ 56 % 256 with
  | 1 => some (.vstop f)
  | 2 => some (.vnop f)
  | 3 => some (.vsbar f)
  | 16 => some (.vadd f)
  | 17 => some (.vsub f)
  | 18 => some (.vmul f)
  | 19 => some (.vfma f)
  | 20 => some (.vfms f)
  | 21 => some (.vfnma f)
  | 22 => some (.vdiv f)
  | 23 => some (.vsqrt f)
  | 24 => some (.vexp2 f)
  | 25 => some (.vlog2 f)
  | 26 => some (.vmin f)
  | 27 => some (.vmax f)
  | 28 => some (.vabs f)
  | 29 => some (.vneg f)
  | 30 => some (.vclamp f)
  | 31 => some (.vfcsa f)
  | 48 => some (.vmulh f)
  | 49 => some (.vand f)
  | 50 => some (.vor f)
  | 51 => some (.vxor f)
  | 52 => some (.vnot f)
  | 53 => some (.vshl f)
  | 54 => some (.vshr f)
  | 55 => some (.vsra f)
  | 56 => some (.vpopc f)
  | 57 => some (.vclz f)
  | 58 => some (.vsadd f)
  | 59 => some (.vssub f)
  | 80 => some (.vcmp f)
  | 81 => some (.vsel f)
  | 82 => some (.vmpop f)
  | 83 => some (.vmfirst f)
  | 96 => some (.vmov f)
  | 97 => some (.vsplat f)
  | 98 => some (.viota f)
  | 99 => some (.vcvt f)
  | 100 => some (.vkey f)
  | 101 => some (.vfold f)
  | 112 => some (.vgath f)
  | 113 => some (.vslup f)
  | 114 => some (.vsldn f)
  | 115 => some (.vcmpr f)
  | 116 => some (.vrsum f)
  | 117 => some (.vrmin f)
  | 118 => some (.vrmax f)
  | 119 => some (.vrmini f)
  | 120 => some (.vrmaxi f)
  | 121 => some (.vrts f)
  | 122 => some (.vscan f)
  | 123 => some (.vconf f)
  | 128 => some (.vld f)
  | 129 => some (.vlds f)
  | 130 => some (.vldx f)
  | 131 => some (.vst f)
  | 132 => some (.vsts f)
  | 133 => if f.sc = 0 then some (.vstxO f) else if f.sc = 1 then some (.vstxU f) else none
  | 134 => some (.vstn f)
  | 135 => some (.vgll f)
  | 136 => some (.vscc f)
  | 137 => some (.vsctadd f)
  | 138 => some (.vstrm f)
  | 160 => some (.pack f)
  | 161 => some (.wext f)
  | 176 => some (.rnoise f)
  | 177 => some (.rbound f)
  | 178 => some (.vbias f)
  | 179 => some (.rmask f)
  | 180 => if f.ext = 0 then some (.rqueue f) else if f.ext = 1 then some (.rqueueK f) else none
  | 181 => some (.rnext f)
  | 182 => some (.rpost f)
  | 183 => some (.rzacc f)
  | _ => none

/-- A word's fixed bits with fields put at their lowest bits. -/
def packFields (base : Nat) : List (Nat × Nat) → Nat
  | [] => base
  | (x, lo) :: fs => packFields (base + x * 2 ^ lo) fs

/-- The 32-bit word of a scalar instruction; 0, which is no instruction, for everything else. -/
def encodeScalar : Instr → Nat
  | .add d a b => packFields 0x04000000 [(d.toNat, 21), (a.toNat, 16), (b.toNat, 11)]
  | .sub d a b => packFields 0x04000040 [(d.toNat, 21), (a.toNat, 16), (b.toNat, 11)]
  | .and d a b => packFields 0x04000080 [(d.toNat, 21), (a.toNat, 16), (b.toNat, 11)]
  | .or d a b => packFields 0x040000C0 [(d.toNat, 21), (a.toNat, 16), (b.toNat, 11)]
  | .xor d a b => packFields 0x04000100 [(d.toNat, 21), (a.toNat, 16), (b.toNat, 11)]
  | .shl d a b => packFields 0x04000140 [(d.toNat, 21), (a.toNat, 16), (b.toNat, 11)]
  | .shr d a b => packFields 0x04000180 [(d.toNat, 21), (a.toNat, 16), (b.toNat, 11)]
  | .sra d a b => packFields 0x040001C0 [(d.toNat, 21), (a.toNat, 16), (b.toNat, 11)]
  | .mul d a b => packFields 0x04000200 [(d.toNat, 21), (a.toNat, 16), (b.toNat, 11)]
  | .mulh d a b => packFields 0x04000240 [(d.toNat, 21), (a.toNat, 16), (b.toNat, 11)]
  | .mulhn d a b => packFields 0x04000280 [(d.toNat, 21), (a.toNat, 16), (b.toNat, 11)]
  | .div d a b => packFields 0x040002C0 [(d.toNat, 21), (a.toNat, 16), (b.toNat, 11)]
  | .divn d a b => packFields 0x04000300 [(d.toNat, 21), (a.toNat, 16), (b.toNat, 11)]
  | .rem d a b => packFields 0x04000340 [(d.toNat, 21), (a.toNat, 16), (b.toNat, 11)]
  | .remn d a b => packFields 0x04000380 [(d.toNat, 21), (a.toNat, 16), (b.toNat, 11)]
  | .slt d a b => packFields 0x040003C0 [(d.toNat, 21), (a.toNat, 16), (b.toNat, 11)]
  | .sltn d a b => packFields 0x04000400 [(d.toNat, 21), (a.toNat, 16), (b.toNat, 11)]
  | .min d a b => packFields 0x04000440 [(d.toNat, 21), (a.toNat, 16), (b.toNat, 11)]
  | .max d a b => packFields 0x04000480 [(d.toNat, 21), (a.toNat, 16), (b.toNat, 11)]
  | .minn d a b => packFields 0x040004C0 [(d.toNat, 21), (a.toNat, 16), (b.toNat, 11)]
  | .maxn d a b => packFields 0x04000500 [(d.toNat, 21), (a.toNat, 16), (b.toNat, 11)]
  | .clz d a => packFields 0x04000540 [(d.toNat, 21), (a.toNat, 16)]
  | .popc d a => packFields 0x04000580 [(d.toNat, 21), (a.toNat, 16)]
  | .addi d a i => packFields 0x08000000 [(d.toNat, 21), (a.toNat, 16), (i.toNat, 0)]
  | .andi d a i => packFields 0x0C000000 [(d.toNat, 21), (a.toNat, 16), (i.toNat, 0)]
  | .ori d a i => packFields 0x10000000 [(d.toNat, 21), (a.toNat, 16), (i.toNat, 0)]
  | .xori d a i => packFields 0x14000000 [(d.toNat, 21), (a.toNat, 16), (i.toNat, 0)]
  | .shli d a i => packFields 0x18000000 [(d.toNat, 21), (a.toNat, 16), (i.toNat, 0)]
  | .shri d a i => packFields 0x1C000000 [(d.toNat, 21), (a.toNat, 16), (i.toNat, 0)]
  | .srai d a i => packFields 0x20000000 [(d.toNat, 21), (a.toNat, 16), (i.toNat, 0)]
  | .slti d a i => packFields 0x24000000 [(d.toNat, 21), (a.toNat, 16), (i.toNat, 0)]
  | .sltni d a i => packFields 0x28000000 [(d.toNat, 21), (a.toNat, 16), (i.toNat, 0)]
  | .limc d c i => packFields 0x2C000000 [(d.toNat, 21), (c.toNat, 16), (i.toNat, 0)]
  | .addpc d i => packFields 0x30000000 [(d.toNat, 21), (i.toNat, 0)]
  | .ld g a s p o => packFields 0x34000000 [(g.toNat, 21), (a.toNat, 16), (s.toNat, 13), (p.toNat, 11), (o.toNat, 0)]
  | .st g a s p o => packFields 0x38000000 [(g.toNat, 21), (a.toNat, 16), (s.toNat, 13), (p.toNat, 11), (o.toNat, 0)]
  | .beq a b i => packFields 0x3C000000 [(a.toNat, 21), (b.toNat, 16), (i.toNat, 0)]
  | .bne a b i => packFields 0x40000000 [(a.toNat, 21), (b.toNat, 16), (i.toNat, 0)]
  | .blt a b i => packFields 0x44000000 [(a.toNat, 21), (b.toNat, 16), (i.toNat, 0)]
  | .bge a b i => packFields 0x48000000 [(a.toNat, 21), (b.toNat, 16), (i.toNat, 0)]
  | .bltn a b i => packFields 0x4C000000 [(a.toNat, 21), (b.toNat, 16), (i.toNat, 0)]
  | .bgen a b i => packFields 0x50000000 [(a.toNat, 21), (b.toNat, 16), (i.toNat, 0)]
  | .jmp i => packFields 0x54000000 [(i.toNat, 0)]
  | .call i => packFields 0x58000000 [(i.toNat, 0)]
  | .jmpr d a i => packFields 0x5C000000 [(d.toNat, 21), (a.toNat, 16), (i.toNat, 0)]
  | .amoAdd d a b l o c w => packFields 0x60000000 [(d.toNat, 21), (a.toNat, 16), (b.toNat, 11), (l.toNat, 10), (o.toNat, 4), (c.toNat, 1), (w.toNat, 0)]
  | .amoAnd d a b l o c w => packFields 0x60000040 [(d.toNat, 21), (a.toNat, 16), (b.toNat, 11), (l.toNat, 10), (o.toNat, 4), (c.toNat, 1), (w.toNat, 0)]
  | .amoOr d a b l o c w => packFields 0x60000080 [(d.toNat, 21), (a.toNat, 16), (b.toNat, 11), (l.toNat, 10), (o.toNat, 4), (c.toNat, 1), (w.toNat, 0)]
  | .amoXor d a b l o c w => packFields 0x600000C0 [(d.toNat, 21), (a.toNat, 16), (b.toNat, 11), (l.toNat, 10), (o.toNat, 4), (c.toNat, 1), (w.toNat, 0)]
  | .amoSwp d a b l o c w => packFields 0x60000100 [(d.toNat, 21), (a.toNat, 16), (b.toNat, 11), (l.toNat, 10), (o.toNat, 4), (c.toNat, 1), (w.toNat, 0)]
  | .amoCas d a b l o c w => packFields 0x60000140 [(d.toNat, 21), (a.toNat, 16), (b.toNat, 11), (l.toNat, 10), (o.toNat, 4), (c.toNat, 1), (w.toNat, 0)]
  | .amoMin d a b l o c w => packFields 0x60000180 [(d.toNat, 21), (a.toNat, 16), (b.toNat, 11), (l.toNat, 10), (o.toNat, 4), (c.toNat, 1), (w.toNat, 0)]
  | .amoMax d a b l o c w => packFields 0x600001C0 [(d.toNat, 21), (a.toNat, 16), (b.toNat, 11), (l.toNat, 10), (o.toNat, 4), (c.toNat, 1), (w.toNat, 0)]
  | .amoMinn d a b l o c w => packFields 0x60000200 [(d.toNat, 21), (a.toNat, 16), (b.toNat, 11), (l.toNat, 10), (o.toNat, 4), (c.toNat, 1), (w.toNat, 0)]
  | .amoMaxn d a b l o c w => packFields 0x60000240 [(d.toNat, 21), (a.toNat, 16), (b.toNat, 11), (l.toNat, 10), (o.toNat, 4), (c.toNat, 1), (w.toNat, 0)]
  | .csrr d f => packFields 0x64000000 [(d.toNat, 21), (f.toNat, 0)]
  | .csrw d a f => packFields 0x64001000 [(d.toNat, 21), (a.toNat, 16), (f.toNat, 0)]
  | .csrs d a f => packFields 0x64002000 [(d.toNat, 21), (a.toNat, 16), (f.toNat, 0)]
  | .csrc d a f => packFields 0x64003000 [(d.toNat, 21), (a.toNat, 16), (f.toNat, 0)]
  | .setlen d a => packFields 0x68000000 [(d.toNat, 21), (a.toNat, 16)]
  | .setlen2d d a => packFields 0x68000001 [(d.toNat, 21), (a.toNat, 16)]
  | .vsplit n => packFields 0x68001000 [(n.toNat, 0)]
  | .vmerge => packFields 0x68002000 []
  | .varg a k => packFields 0x68003000 [(a.toNat, 16), (k.toNat, 0)]
  | .vpop d => packFields 0x68004000 [(d.toNat, 21)]
  | .vqwait a => packFields 0x68005000 [(a.toNat, 16)]
  | .vqwaitAll => packFields 0x68005001 []
  | .vseq d => packFields 0x68006000 [(d.toNat, 21)]
  | .vfLabel i => packFields 0x6C200000 [(i.toNat, 0)]
  | .vfReg a i => packFields 0x6C000000 [(a.toNat, 16), (i.toNat, 0)]
  | .fenceSv => packFields 0x70000000 []
  | .fenceVs => packFields 0x70001000 []
  | .fenceVv => packFields 0x70002000 []
  | .fenceScoped o c => packFields 0x70003000 [(o.toNat, 4), (c.toNat, 1)]
  | .trap c => packFields 0x74000000 [(c.toNat, 0)]
  | .rte => packFields 0x74001000 []
  | .wfe d a b p => packFields 0x74002000 [(d.toNat, 21), (a.toNat, 16), (b.toNat, 7), (p.toNat, 0)]
  | .park d a => packFields 0x74003000 [(d.toNat, 21), (a.toNat, 16)]
  | .yield => packFields 0x74004000 []
  | .exit => packFields 0x74005000 []
  | .brk => packFields 0x74006000 []
  | .iflush => packFields 0x74007000 []
  | .tlbinvPg a c s => packFields 0x74008000 [(a.toNat, 16), (c.toNat, 9), (s.toNat, 0)]
  | .tlbinvAs c s => packFields 0x74008080 [(c.toNat, 9), (s.toNat, 0)]
  | .tlbinvVi c => packFields 0x74008100 [(c.toNat, 9)]
  | .launch d a => packFields 0x74009000 [(d.toNat, 21), (a.toNat, 16)]
  | .eput a e => packFields 0x78000000 [(a.toNat, 16), (e.toNat, 0)]
  | .eget d e => packFields 0x78000040 [(d.toNat, 21), (e.toNat, 0)]
  | .ecnt d e => packFields 0x78000080 [(d.toNat, 21), (e.toNat, 0)]
  | .sytas d a b o c => packFields 0x7C000001 [(d.toNat, 21), (a.toNat, 16), (b.toNat, 11), (o.toNat, 4), (c.toNat, 1)]
  | .syadd d a b o c => packFields 0x7C000041 [(d.toNat, 21), (a.toNat, 16), (b.toNat, 11), (o.toNat, 4), (c.toNat, 1)]
  | .syrd d a o c => packFields 0x7C000081 [(d.toNat, 21), (a.toNat, 16), (o.toNat, 4), (c.toNat, 1)]
  | .tclaim d a c => packFields 0x80000000 [(d.toNat, 21), (a.toNat, 16), (c.toNat, 0)]
  | .tclaimP d a c => packFields 0x80000400 [(d.toNat, 21), (a.toNat, 16), (c.toNat, 0)]
  | .tclaimA d => packFields 0x80000800 [(d.toNat, 21)]
  | .trel a => packFields 0x80001000 [(a.toNat, 16)]
  | .trelA a => packFields 0x80001800 [(a.toNat, 16)]
  | .tstat d a => packFields 0x80002000 [(d.toNat, 21), (a.toNat, 16)]
  | .tstatA d a => packFields 0x80002800 [(d.toNat, 21), (a.toNat, 16)]
  | .wcfg d a => packFields 0x80003000 [(d.toNat, 21), (a.toNat, 16)]
  | .wcfgW d a => packFields 0x80003800 [(d.toNat, 21), (a.toNat, 16)]
  | .wcfgR d => packFields 0x80003001 [(d.toNat, 21)]
  | .wzero a => packFields 0x80004000 [(a.toNat, 16)]
  | .wmac a => packFields 0x80005000 [(a.toNat, 16)]
  | .wmacsO a => packFields 0x80006001 [(a.toNat, 16)]
  | .wmacsF a => packFields 0x80006000 [(a.toNat, 16)]
  | .wwait a => packFields 0x80007000 [(a.toNat, 16)]
  | .wwaitAll => packFields 0x80007001 []
  | .wnorm a => packFields 0x80008000 [(a.toNat, 16)]
  | .rbegin d a => packFields 0x84000000 [(d.toNat, 21), (a.toNat, 16)]
  | .rcfg a f => packFields 0x84001000 [(a.toNat, 16), (f.toNat, 0)]
  | .rcfgR d f => packFields 0x84001800 [(d.toNat, 21), (f.toNat, 0)]
  | .rwait d => packFields 0x84002000 [(d.toNat, 21)]
  | .rprob d => packFields 0x84003000 [(d.toNat, 21)]
  | .rprobX d => packFields 0x84003001 [(d.toNat, 21)]
  | .rend => packFields 0x84004000 []
  | _ => 0

/-- The opcode and fields of a vector instruction. -/
def Instr.vectorParts : Instr → Option (Nat × VFields)
  | .vstop f => some (0x01, f)
  | .vnop f => some (0x02, f)
  | .vsbar f => some (0x03, f)
  | .vadd f => some (0x10, f)
  | .vsub f => some (0x11, f)
  | .vmul f => some (0x12, f)
  | .vfma f => some (0x13, f)
  | .vfms f => some (0x14, f)
  | .vfnma f => some (0x15, f)
  | .vdiv f => some (0x16, f)
  | .vsqrt f => some (0x17, f)
  | .vexp2 f => some (0x18, f)
  | .vlog2 f => some (0x19, f)
  | .vmin f => some (0x1A, f)
  | .vmax f => some (0x1B, f)
  | .vabs f => some (0x1C, f)
  | .vneg f => some (0x1D, f)
  | .vclamp f => some (0x1E, f)
  | .vfcsa f => some (0x1F, f)
  | .vmulh f => some (0x30, f)
  | .vand f => some (0x31, f)
  | .vor f => some (0x32, f)
  | .vxor f => some (0x33, f)
  | .vnot f => some (0x34, f)
  | .vshl f => some (0x35, f)
  | .vshr f => some (0x36, f)
  | .vsra f => some (0x37, f)
  | .vpopc f => some (0x38, f)
  | .vclz f => some (0x39, f)
  | .vsadd f => some (0x3A, f)
  | .vssub f => some (0x3B, f)
  | .vcmp f => some (0x50, f)
  | .vsel f => some (0x51, f)
  | .vmpop f => some (0x52, f)
  | .vmfirst f => some (0x53, f)
  | .vmov f => some (0x60, f)
  | .vsplat f => some (0x61, f)
  | .viota f => some (0x62, f)
  | .vcvt f => some (0x63, f)
  | .vkey f => some (0x64, f)
  | .vfold f => some (0x65, f)
  | .vgath f => some (0x70, f)
  | .vslup f => some (0x71, f)
  | .vsldn f => some (0x72, f)
  | .vcmpr f => some (0x73, f)
  | .vrsum f => some (0x74, f)
  | .vrmin f => some (0x75, f)
  | .vrmax f => some (0x76, f)
  | .vrmini f => some (0x77, f)
  | .vrmaxi f => some (0x78, f)
  | .vrts f => some (0x79, f)
  | .vscan f => some (0x7A, f)
  | .vconf f => some (0x7B, f)
  | .vld f => some (0x80, f)
  | .vlds f => some (0x81, f)
  | .vldx f => some (0x82, f)
  | .vst f => some (0x83, f)
  | .vsts f => some (0x84, f)
  | .vstxO f => some (0x85, f)
  | .vstxU f => some (0x85, f)
  | .vstn f => some (0x86, f)
  | .vgll f => some (0x87, f)
  | .vscc f => some (0x88, f)
  | .vsctadd f => some (0x89, f)
  | .vstrm f => some (0x8A, f)
  | .pack f => some (0xA0, f)
  | .wext f => some (0xA1, f)
  | .rnoise f => some (0xB0, f)
  | .rbound f => some (0xB1, f)
  | .vbias f => some (0xB2, f)
  | .rmask f => some (0xB3, f)
  | .rqueue f => some (0xB4, f)
  | .rqueueK f => some (0xB4, f)
  | .rnext f => some (0xB5, f)
  | .rpost f => some (0xB6, f)
  | .rzacc f => some (0xB7, f)
  | _ => none

/-- The 64-bit word of a vector instruction, without its literal; 0 for everything else. -/
def encodeVector (i : Instr) : Nat :=
  match i.vectorParts with
  | some (op, f) => op * 2 ^ 56 + f.toNat
  | none => 0

/-- The word a trap reports for an instruction: a scalar word zero-extended, or a 64-bit vector word (R246). -/
def Instr.word (i : Instr) : Word :=
  match i.vectorParts with
  | some _ => BitVec.ofNat 64 (encodeVector i)
  | none => BitVec.ofNat 64 (encodeScalar i)

/-- The bytes of an instruction as memory holds them: one scalar word, or one vector word and its literal when L = 1.
Engine commands and events have none. -/
def encode (i : Instr) : List Byte :=
  match i.vectorParts with
  | some (_, f) => leBytes 8 (encodeVector i) ++ (if f.l = 1 then leBytes 8 f.lit.toNat else [])
  | none => if encodeScalar i = 0 then [] else leBytes 4 (encodeScalar i)

/-- The scalar instruction of the first four bytes. -/
def decodeScalarBytes (bs : List Byte) : Except Reject Instr :=
  if bs.length < 4 then .error .tooShort
  else match decodeScalar (leNat (bs.take 4)) with
    | some i => .ok i
    | none => .error .unlisted

/-- The vector instruction of the first eight bytes, with the literal of the next eight when L = 1 (R279). -/
def decodeVectorBytes (bs : List Byte) : Except Reject Instr :=
  if bs.length < 8 then .error .tooShort
  else
    let w := leNat (bs.take 8)
    if has w 21 1 1 && decide (bs.length < 16) then .error .tooShort
    else match decodeVector w (leNat ((bs.drop 8).take 8)) with
      | some i => .ok i
      | none => .error .unlisted

/-- The instruction the decoder reads from a word numbered as the opcode table numbers it: up to 32 bits a scalar word,
more bits a vector word, whose literal word is zero when `w` gives it no bits. -/
def decodeTableWord (nbits w : Nat) : Option Instr :=
  if nbits ≤ 32 then
    match decodeScalarBytes (leBytes 4 w) with
    | .ok i => some i
    | .error _ => none
  else
    match decodeVectorBytes (leBytes 16 w) with
    | .ok i => some i
    | .error _ => none

end Sys2Proof
end

