-- ==== Sys2Proof/Machine/State.lean ====
section
/-! DEFINITION. The state of one Decnas D7 module as plain data: control threads, vector threads, cores, dies, hub, virtual interfaces, gangs, park records and platform, with the faults, the refusals and the state after reset. -/

namespace Sys2Proof.Machine

/-- A sparse table: entries by number, an absent number standing for the table's default. -/
abbrev Tab (α : Type) := List (Nat × α)

/-- Memory: the bytes that differ from what an unlisted address reads as, by strictly rising address (log 1). -/
abbrev Memory := List Host.Cell

/-- The module stops stepping. -/
inductive Fault where
  /-- Raised by `step` when the module has lost power (POWER_FAIL, R455) and anything but a module reset is due. Safe: nothing runs. -/
  | noPower
  deriving DecidableEq, Repr

/-- No meaning. -/
inductive Refusal where
  /-- Raised by an arm of `exec` that has no meaning yet. Safe: nothing runs. -/
  | notModelled (mnemonic : String)
  deriving DecidableEq, Repr

/-- The privilege of a control thread; firmware never runs on one (R237). -/
inductive Privilege where
  | task
  | supervisor
  deriving DecidableEq, Repr

/-- A reduction handle (R192): the slot, the node that holds it, the operation, and the region that allocated it (R198). `id` tells the
grant of a slot of this hub from a later one of the same slot (R443). -/
structure Handle where
  id : Nat
  slot : Nat
  node : Nat
  op : Nat
  region : Nat
  deriving DecidableEq, Repr

/-- A location: an HBM byte by its interleaved address (R19), a scratchpad byte (R61), a synchronisation cell (R15),
a byte of another module by virtual address and tenant tag (R25), or a byte of a contribution on its way to the slot that its handle
named when it was checked (R194, R443). -/
inductive Loc where
  | hbm (a : Nat)
  | scratch (core : Nat) (off : Nat)
  | cell (die : Nat) (idx : Nat)
  | remote (module : Nat) (tag : BitVec 16) (va : Nat)
  | line (h : Handle) (tag : BitVec 16) (va : Nat)
  deriving DecidableEq, Repr

/-- A run of HBM bytes whose contents the spec leaves open: a context, save or spill area as the D7 wrote it (log 4). -/
structure Veil where
  base : Nat
  len : Nat
  seed : Nat
  off : Nat
  deriving DecidableEq, Repr

/-- A store that has issued in its stream and has not taken effect (R120); stream 8 is the scalar stream, and `insn` tells the
vector instruction it belongs to from the others of its thread (R122). `ea`, `pc` and `nested` are the effective address, the
instruction's address and NEST, for a timeout of a remote store (R182, R245), `step` the block that it takes effect with in a
block floating-point store (R360), and `free` says that elements of its instruction take effect in any order at one location too (R362). -/
structure PendStore where
  stream : Nat
  insn : Nat
  ea : Word
  loc : Loc
  key : BitVec 256
  data : List Byte
  pc : Word
  nested : Bool
  step : Option Nat
  free : Bool
  deriving DecidableEq, Repr

/-- A store in a die's egress buffer (R115), with the tasks whose cumulative set holds it (R128), the scalar store of a task
it came from (task, effective address, address of the ST and NEST; R182, R245), the vector thread and stream it came from, the interface that sends it, and the request it is sent by. -/
structure EgressEntry where
  id : Nat
  loc : Loc
  key : BitVec 256
  data : List Byte
  owners : List Nat
  src : Option (Nat × Word × Word × Bool)
  who : Option (Nat × Nat)
  vi : Nat
  req : Option Nat
  deriving DecidableEq, Repr

/-- A group of a load queue: its shape and its elements in flat order (R55), and whether an uncorrectable error has struck one of its
rows (R248). -/
structure Group where
  vr : Nat
  vl : Nat
  data : List Elem
  struck : Bool
  deriving DecidableEq, Repr

/-- A queue bound by VSTRM (R367). -/
structure Binding where
  cursor : Word
  left : Nat
  stream : Nat
  space : BitVec 2
  fmt : Nat
  ty : BitVec 3
  deriving DecidableEq, Repr

/-- What an entry of the vector command queue does (R309). -/
inductive VcqOp where
  | block (addr : Word) (geom : Word)
  | varg (k : Nat) (v : Word)
  | setlen (vl vr : Nat)
  | fenceSv
  | fenceVs
  | fenceVv
  | fence (order : BitVec 2) (scope : BitVec 3)
  | csr (f : BitVec 12) (mode : Nat) (v : Word)
  | wmacs (op : Nat)
  | rcfg (f : Nat) (v : Word)
  deriving DecidableEq, Repr

/-- A VCQ entry with its sequence number; `nested` when it was enqueued under NEST or VH (R245), `aside` when a WMU operation was held
then (R243). -/
structure VcqEntry where
  seq : BitVec 16
  op : VcqOp
  nested : Bool
  aside : Bool
  deriving DecidableEq, Repr

/-- The block in execution: its address, the next word, the geometry it reads, its entry's number, and the job, k-block and accumulator when it is a drain run (R392). -/
structure BlockRun where
  addr : Word
  word : Nat
  geom : Word
  seq : BitVec 16
  nested : Bool
  drain : Option (Nat × Nat)
  deriving DecidableEq, Repr

/-- One step of a VSCC or a VSCTADD at its home: a line with its elements, or a word with its combined addend, each as flat index, place,
key and datum (R139, R366). -/
structure AtomicStep where
  accs : List (Nat × Loc × BitVec 256 × Word)
  deriving DecidableEq, Repr

/-- The steps of a VSCC or a VSCTADD once its sounding pass is done (R139, R365, R366): those to come, in any order, the elements that
have stored, the flags so far, and the stop behind them. -/
structure AtomicWork where
  steps : List AtomicStep
  won : List Nat
  flags : List (Nat × BitVec 5)
  stop : Option (Nat × BitVec 6 × Word × Option Word)
  again : Option Nat
  deriving DecidableEq, Repr

/-- The vector work in progress: what pre-emption saves and a held trap sets aside (R228, R242). `packets` are the fabric
packets its instruction has sent, for the elements below `upto` (R176); `wayp` is a waypoint value that VSTN has yet to write (R363),
`insn` the word and literal of the instruction at the block's next word, once fetched, and `early` what the accesses of the words of
the block have read, or that they have stored, before VSTART reached their elements, by word and access (R122, R374). `kept` are the words of the block
cache that each IFLUSH has left to the blocks of the entries up to the number beside them, oldest first (R321), and `atomic` the steps of a VSCC or VSCTADD that has
begun to act. -/
structure VectorWork where
  vcq : List VcqEntry
  run : Option BlockRun
  vstart : Nat
  popped : Option (List Group)
  part : Option Group
  packets : List Nat
  upto : Option Nat
  wayp : Option Nat
  insn : Option (Nat × Nat)
  early : Tab (Tab Word)
  kept : List (BitVec 16 × Tab Word)
  atomic : Option AtomicWork
  faulted : Bool
  deriving DecidableEq, Repr

/-- A vector thread (R207). `issued` counts the instructions it has completed, which tells the stores of one from those of the next (R122), and `bars` are the VSBARs that pending stores of their streams stand before (R124). `ahead` holds the groups fetched ahead with the
instruction words and literals that they were fetched for (R59). -/
structure VThread where
  vl : Nat
  vr : Nat
  fill : Elem
  rad : Nat
  fstat : BitVec 5
  fctl : BitVec 5
  fidx : Tab Nat
  bargs : Tab Word
  regs : Tab (Tab Elem)
  queues : Tab (List Group)
  binds : Tab Binding
  ret : List Word
  work : VectorWork
  ahead : Tab (Group × Nat)
  pend : List PendStore
  retained : Bool
  idleFrom : Nat
  issued : Nat
  bars : List (Nat × BitVec 8)
  deriving DecidableEq, Repr

/-- The kind of a held cause (R240, R245), in the order in which pending ones are taken; a WMU cause names the operation that stopped (R243). -/
inductive HeldKind where
  | vector
  | wmu (op : Nat)
  | fabricStore
  | watchdog
  deriving DecidableEq, Repr

/-- A pending held cause (R240, R245). -/
structure Pending where
  kind : HeldKind
  cause : BitVec 6
  tval : Word
  tvaddr : Word
  tseq : BitVec 16
  tblk : BitVec 8
  nested : Bool
  xinfo : Option Word
  deriving DecidableEq, Repr

/-- An accepted WMU operation with its captured geometry, its progress, and whether GUARD_OVF stopped it (R389, R395). -/
structure WmuOp where
  id : Nat
  uid : Nat
  acc : Nat
  aslot : Nat
  bslot : Nat
  k0 : Nat
  cnt : Nat
  done : Nat
  geom : Word
  pc : Word
  nested : Bool
  halted : Bool
  block : Option (Nat × Nat × Nat)
  deriving DecidableEq, Repr

/-- A tiled product handed to the sequencer (R390 to R392): its jobs, block slots, the block operations started and ended with their accumulators, and the drain runs done. -/
structure Wmacs where
  id : Nat
  uid : Nat
  ordered : Bool
  ksteps : Nat
  jobs : List (Nat × Nat)
  nkb : Nat
  blocks : List (Nat × Nat)
  drain : Word
  geom : Word
  pc : Word
  nested : Bool
  started : List (Nat × Nat × Nat)
  ended : List (Nat × Nat × Nat)
  drained : List (Nat × Nat × Nat)
  deriving DecidableEq, Repr

/-- A command being assembled by a thread (R430). -/
structure Assembly where
  header : Word
  args : List Word
  deriving DecidableEq, Repr

/-- An engine result (R434) with the address and detail its trap reports. -/
structure EngineResult where
  word : Word
  tval : Word
  xinfo : Word
  deriving DecidableEq, Repr

/-- What a control thread waits for between its steps: nothing it must remember, the reply of a remote request it has sent, the word a WFE compares, the descriptor a LAUNCH has read, the accesses whose ends a TLBINV awaits (R37, R38), or the words of a record that an instruction has read so far with the request for the next. -/
inductive Wait where
  | none
  | request (id : Nat)
  | wfe (d a b : Reg) (p : BitVec 2)
  | launch (desc : List Word)
  | inval (ids : List Nat)
  | words (have_ : List Word) (req : Option Nat)
  deriving DecidableEq, Repr

/-- A control thread and its task (R205, R225, R239). `uid` names the task across pre-emption; `insn` is the word of the
instruction that waits under `wait`, `behind` the vector work that waits for a held WMU operation while its handler's own runs (R243,
R395), and `early` the value that a load behind a relaxed SYRD has bound before it, with its space,
address and size (R119, R130, R167). -/
structure CThread where
  live : Bool
  uid : Nat
  vi : Nat
  gang : Nat
  index : Nat
  regs : Tab Word
  pc : Word
  priv : Privilege
  tcause : BitVec 6
  tpc : Word
  tval : Word
  tseq : BitVec 16
  tblk : BitVec 8
  tvaddr : Word
  tvec : Word
  tscratch : Word
  wh : Bool
  vh : Bool
  ret : Bool
  nest : Bool
  ppriv : BitVec 2
  xinfo : Word
  wdog : Word
  wdogCount : Nat
  icount : Nat
  geom : Word
  vseq : BitVec 16
  vdone : BitVec 16
  pvl : Nat
  pvr : Nat
  pfill : Elem
  prad : Nat
  pfctl : BitVec 5
  heldV : Option VectorWork
  heldW : List WmuOp
  heldS : List Wmacs
  behind : Option VectorWork
  wstep : Word
  pending : List Pending
  wait : Wait
  pend : List PendStore
  asm : Tab Assembly
  results : Tab (List EngineResult)
  race : Option (Nat × Nat)
  rstatus : Nat
  parked : Option Nat
  insn : Nat
  early : Option (BitVec 2 × Word × Nat × Word)
  deriving DecidableEq, Repr

/-- The state of a tile-table entry (R67). -/
inductive TileState where
  | empty
  | filling
  | ready
  | draining
  deriving DecidableEq, Repr

/-- An operand slot (R65, R67): `own` is the owner's control thread, `paired` when claimed with .p, `odd` for the second half of
a pair, `fills` the fills in flight; lane i of k-step k stands at 128 k + i. -/
structure Slot where
  st : TileState
  ext : Nat
  written : List Nat
  vw : Nat
  rdrs : Nat
  paired : Bool
  odd : Bool
  own : Nat
  fills : Nat
  data : Tab (BitVec 16)
  deriving DecidableEq, Repr

/-- An accumulator (R66, R67, R397): signed slots of width `w`, or unsigned digits in normal form. -/
structure Acc where
  st : TileState
  w : Nat
  own : Nat
  slots : Tab Int
  normal : Bool
  deriving DecidableEq, Repr

/-- How far a command has come with the accesses of a range (R140): the offsets that it has yet to read, as ascending intervals, what
it has read by ascending offset, and the offsets that it has yet to write. -/
structure Run where
  todo : List (Nat × Nat)
  parts : List (Nat × List Byte)
  out : List (Nat × Nat)
  deriving DecidableEq, Repr

/-- An engine command (R430) from its last word until its result is posted. Its progress: the steps, chunks or members done, the
bytes it has read whole, the range that it is at, what it does with a member of an MCAST, the request it waits for, and the module
numbers it has read. -/
structure Cmd where
  id : Nat
  uid : Nat
  vi : Nat
  asn : Nat
  priv : Privilege
  region : Nat
  die : Nat
  header : Word
  args : List Word
  geom : Word
  started : Bool
  done : Nat
  buf : List Byte
  run : Option Run
  wr : Nat
  req : Option Nat
  mem : List Nat
  result : Option EngineResult
  deriving DecidableEq, Repr

/-- A cached leaf (R32): virtual interface, address space, level, page base, leaf word and the entry's address. -/
structure TlbEntry where
  vi : Nat
  asn : Nat
  level : Nat
  page : Nat
  leaf : Word
  at_ : Nat
  deriving DecidableEq, Repr

/-- A core (R2): split, scratchpad, tile table, WMU operations, copy engine, caches and fencing, with the times of the errors it has
corrected in the last hour and whether an uncorrectable one has struck it (R457). -/
structure CoreSt where
  split : Nat
  pendSplit : Option (Nat × Nat)
  scratch : Memory
  links : Tab (Nat × Nat)
  slots : Tab Slot
  accs : Tab Acc
  wops : List WmuOp
  wmacs : List Wmacs
  copyQ : List Cmd
  cycle : Nat
  fenced : Bool
  last : Option (Nat × Nat)
  dirty : Bool
  tlb : List TlbEntry
  icache : Tab Word
  bcache : Tab Word
  corrected : List Nat
  struck : Bool
  deriving DecidableEq, Repr

/-- The four words of a slab descriptor (R83). -/
structure SlabDesc where
  w0 : Word
  w1 : Word
  w2 : Word
  w3 : Word
  deriving DecidableEq, Repr

/-- A slab move at its page engine (R86, R87): the move register with the fields of the descriptor that the engine writes at each
transition, and whether the chunk at the cursor is held (R89). -/
structure Move where
  cmd : Nat
  vi : Nat
  asn : Nat
  slab : Nat
  desc : Nat
  base : Nat
  newbase : Nat
  sz : Nat
  cursor : Nat
  lenptr : Word
  tokb : Nat
  held : Bool
  deriving DecidableEq, Repr

/-- A promotion (R99): the page, the leaf it read and that leaf's address, the frame it took or none while it waits for one
(R97), the park record and stage it serves, and the agents whose accesses wait for it (R26). -/
structure Promo where
  vi : Nat
  asn : Nat
  va : Nat
  at_ : Nat
  leaf : Word
  frame : Option Nat
  rec_ : Option Nat
  hot : Bool
  waiters : List Nat
  deriving DecidableEq, Repr

/-- A demotion in flight (R99): the page, the leaf before it, the handle reserved, and what asked for it. -/
structure Demo where
  vi : Nat
  asn : Nat
  va : Nat
  at_ : Nat
  old : Word
  new : Word
  page : Nat
  flash : Bool
  rec_ : Option Nat
  cmd : Option Nat
  region : Nat
  deriving DecidableEq, Repr

/-- A compute die, or the hub as die 4 (R112): its counter, egress buffer, the table entries its walker caches (R36), page engine, the failed promotions that waiting
agents have yet to see (agent, leaf address, XINFO reason; R26) and cell mirrors; `halted` are the moves it has halted, with the
descriptors it keeps for them (R86, R87). -/
structure Die where
  ageclk : Nat
  egress : List EgressEntry
  walks : List TlbEntry
  pageQ : List Cmd
  moves : List Move
  halted : List Move
  promos : List Promo
  demos : List Demo
  tierFails : List (Nat × Nat × Nat)
  mirrors : Tab Word
  updates : List (Nat × Word)
  deriving DecidableEq, Repr

/-- A page outside HBM (R94): tier, whether it was discarded, its contents as plaintext, the key, counter and tag that encrypt and
authenticate them (R42, R78; log 7), the regions charged, and when its demotion ended by the counter of the die that ran it (R100). -/
structure StoredPage where
  handle : BitVec 40
  flash : Bool
  discarded : Bool
  data : Memory
  key : BitVec 256
  counter : BitVec 64
  tag : BitVec 128
  vi : Nat
  asn : Nat
  va : Nat
  charged : List Nat
  since : Nat
  die : Nat
  deriving DecidableEq, Repr

/-- The states of a park record (R103). -/
inductive ParkState where
  | saving
  | parked
  | promoting
  | runnable
  | failed
  deriving DecidableEq, Repr

/-- A park record at its page engine (R102 to R109): its virtual address, the interleaved address and key of its header, the
gang, the slabs named in slot order, and what R103 reads and counts. `pages` are the pages of its slabs, by slab-space and
target address, in ascending offset slab by slab; `hot` and `rest` are the pages of the two stages of R106, slab by slab in descending
offset; `wake` is WAKE as read on entering RUNNABLE (R102), `lens` the lengths read so far with the request for the next (R92), and
`descs` the descriptors with PK = 1 as the engine keeps them (R86). -/
structure ParkRec where
  vi : Nat
  asn : Nat
  va : Word
  at_ : Nat
  key : BitVec 256
  die : Nat
  gang : Nat
  st : ParkState
  gd : Reg
  slabs : List Nat
  hotTokens : Nat
  d1 : Nat
  d2 : Nat
  hk : Bool
  parkage : Nat
  seed : Nat
  woken : Bool
  demoted : Nat
  discarded : Nat
  promoted : Nat
  failed : Nat
  firstFail : Word
  failReason : Nat
  pages : List (Nat × Nat)
  hot : List (List (Nat × Nat))
  rest : List (List (Nat × Nat))
  hotFailed : Bool
  dwell : Tab Nat
  wake : Word
  lens : List (Option Nat)
  req : Option Nat
  descs : List SlabDesc
  resumed : Bool
  deriving DecidableEq, Repr

/-- What a task leaves behind when it is saved (R229, R251). -/
structure SavedTask where
  ct : CThread
  vt : VThread
  slots : Tab Slot
  accs : Tab Acc
  wops : List WmuOp
  wmacs : List Wmacs
  cmds : List (Nat × Cmd)
  deriving DecidableEq, Repr

/-- Where a gang stands (R219 to R235): `failed` when a save or a restore of it has failed (R232), `stopped` once the stop of a number
has ended its tasks (R235). -/
inductive GangState where
  | queued
  | placed
  | parked
  | failed
  | stopped (stop : Nat)
  | over
  deriving DecidableEq, Repr

/-- A gang: its descriptor as launched (R216), its place in its dispatcher's queue, the cores it holds, the regions that CHELD
counts them on, the cores it has freed, its
tasks that have ended, the tasks' identities, its saved tasks with the splits and the scratchpads of the cores they stood on, the
completion value it still owes (R227), whether a pre-emption has begun that waits for what it must let end (R228), how often STARVE has
raised it since its acceptance (R221), and whether its save still waits for the release of R154. -/
structure Gang where
  vi : Nat
  id : BitVec 20
  region : Nat
  asn : Nat
  ntask : Nat
  percore : Nat
  split : Nat
  span : Bool
  sup : Bool
  entry : Word
  done : Word
  save : Word
  args : List Word
  st : GangState
  die : Nat
  level : Nat
  order : Nat
  since : Nat
  placedOrder : Nat
  quantumFrom : Nat
  cores : List Nat
  held : List Nat
  freed : List Nat
  ended : List Nat
  uids : List Nat
  fresh : Bool
  saved : Tab SavedTask
  splits : List Nat
  pads : List Memory
  seed : Nat
  owed : Option Nat
  stopping : Bool
  raised : Nat
  saving : Bool
  deriving DecidableEq, Repr

/-- What the D7 counts for the subtree of a region: cores, race contexts, CXL-tier and flash-tier pages, stops and the reason
of the last stop (R211); the RCB's words report it, and no decision reads them there. -/
structure RegionUse where
  cores : Nat
  races : Nat
  cxl : Nat
  flash : Nat
  stops : Nat
  lastStop : Nat
  deriving DecidableEq, Repr

/-- The TDISP state of an interface (R453). -/
inductive Tdisp where
  | unlocked
  | locked
  | run
  | error
  deriving DecidableEq, Repr

/-- A launch by the D7 itself that still reads its descriptor or waits for queue space: by a start register, or of a handler
gang with the region and reason it reports (R218, R236); `words` is the descriptor once it has been read. -/
structure Launch where
  id : Nat
  vi : Nat
  addr : Word
  region : Nat
  handler : Option (Nat × Nat)
  req : Option Nat
  words : List Word
  deriving DecidableEq, Repr

/-- A stop of a fault domain under way (R235): its tasks have ended, and the engine commands they had started have yet to finish. -/
structure DomainStop where
  id : Nat
  vi : Nat
  root : Nat
  region : Nat
  reason : Nat
  deriving DecidableEq, Repr

/-- The start register (R218): idle with its last result word, or undecided writes, oldest first. -/
structure StartReg where
  result : Word
  waiting : List Word
  deriving DecidableEq, Repr

/-- A pull window (R200). -/
structure PullWindow where
  node : Nat
  members : List Nat
  op : Nat
  base : Word
  deriving DecidableEq, Repr

/-- A virtual interface (R448 to R453) with its per-interface supervisor CSRs. `emptying` are the keys of emptied slots that accesses
still use, and `stopping` holds while STOP_INTERFACE waits for them (R41, R453). `signalled` are the vectors raised; `msix` are the words of
the MSI-X table, `pba` the masked vectors that are pending and `messages` the messages sent, by address and data (R448, R449; log 104). -/
structure Vi where
  created : Bool
  astbase : Word
  frpool : Word
  fabtmo : Word
  fqbase : Word
  rgnbase : Word
  syncFirst : Nat
  syncCount : Nat
  keys : Tab (BitVec 256)
  emptying : Tab (BitVec 256)
  stopping : Bool
  tenant : Word
  tenantSet : Bool
  session : Option (List Byte)
  ideKey : Option (BitVec 256)
  tag : BitVec 16
  bound : List (BitVec 16)
  tdisp : Tdisp
  hbmShare : Word
  cxlShare : Word
  flashShare : Word
  hwbase : Word
  mbxbase : Word
  start : StartReg
  stopcnt : Nat
  refuse : Nat
  launched : Nat
  signalled : List Nat
  msix : Tab Word
  pba : List Nat
  messages : List (Word × Word)
  handles : Tab Handle
  windows : Tab PullWindow
  deriving DecidableEq, Repr

/-- An outgoing fabric request (R176, R181); `lost` when a node that held it or a part of it failed (R179, R191), `left` once it
has left an egress queue (R190) and `looped` once the hub's loopback has taken it to this module itself (R204). -/
structure FabReq where
  id : Nat
  uid : Nat
  vi : Nat
  tid : Nat
  module : Nat
  tag : BitVec 16
  kind : FabricKind
  elems : List FabricElem
  grant : Option Handle
  sysScope : Bool
  posted : Bool
  nested : Bool
  pc : Word
  deadline : Nat
  tmo : Nat
  reply : Option FabricReply
  expired : Bool
  lost : Bool
  left : Bool
  looped : Bool
  deriving DecidableEq, Repr

/-- An incoming request that the target holds (R183, R26, R202): the interface, the address and XINFO of the fault it is parked on, its
fault-queue entry when it has one (a parked fault that found the ring full has none yet, R184), the element it stopped at, the values so far and the hub's AGECLK at its last notice. -/
structure Parked where
  arrival : FabricArrival
  vi : Nat
  fault : Option (Word × Word)
  entry : Option Nat
  next : Nat
  vals : List (Nat × BitVec 64)
  noticed : Nat
  deriving DecidableEq, Repr

/-- An unresolved fault-queue entry (R184). -/
structure FqEntry where
  vi : Nat
  seq : Nat
  page : Nat
  kind : Nat
  deriving DecidableEq, Repr

/-- A combinable request waiting in a fabric egress port (R187, R188), with its port, its place in the port's queue and whether it holds a combining-table entry. -/
structure Waiting where
  id : Nat
  port : Nat
  module : Nat
  tag : BitVec 16
  va : Word
  width : Nat
  addend : BitVec 64
  tabled : Bool
  deriving DecidableEq, Repr

/-- A decombining record (R189). -/
structure Decombine where
  id : Nat
  combined : Nat
  first : Nat
  second : Nat
  addend : BitVec 64
  width : Nat
  since : Nat
  deriving DecidableEq, Repr

/-- The states of a reduction slot (R198). -/
inductive RedState where
  | opened
  | collecting
  | completing
  deriving DecidableEq, Repr

/-- A reduction slot that is not FREE (R192 to R198), with the module that allocated it and the result writes it waits for. -/
structure RedSlot where
  id : Nat
  st : RedState
  m : Nat
  op : Nat
  len : Nat
  members : List Nat
  result : Word
  notify : Word
  tag : BitVec 16
  vi : Nat
  region : Nat
  c : Nat
  dup : Nat
  bitmap : List (Nat × Nat)
  lines : Tab (List Byte)
  buffer : Tab (List Byte)
  src : Nat
  sent : List Nat
  deriving DecidableEq, Repr

/-- The states of a page handover at the old home (R202). -/
inductive HandoverState where
  | draining
  | copying
  | forwarding
  | retired
  deriving DecidableEq, Repr

/-- A page migration (R202): the page in address space 0, its frame as its leaf names it, the new home and its leaf's address. -/
structure Handover where
  vi : Nat
  va : Nat
  frame : Nat
  target : Nat
  at_ : Nat
  st : HandoverState
  deriving DecidableEq, Repr

/-- A fabric link (R179). -/
structure LinkSt where
  replays : Nat
  retraining : Bool
  removed : Bool
  deriving DecidableEq, Repr

/-- The shard states of a race (R413). -/
inductive ShardState where
  | active
  | dropped
  | finished
  | ranking
  | ended
  deriving DecidableEq, Repr

/-- An entry of a shard's heap (R416). -/
structure HeapEntry where
  j : Nat
  hi : Elem
  lo : Elem
  plHi : Elem
  plLo : Elem
  handed : Bool
  evaluated : Bool
  s : Elem
  x : Elem
  removed : Bool
  deriving DecidableEq, Repr

/-- One shard of a race (R408 to R423): configuration as executed and as written in program order, whether it has executed a
race-vector step and an RNEXT, heap, rounds, accumulators, the best and floor the arbiter last told it, those a lockstep
round was decided against, and the accumulators as they stood at its first wait after the decision (R426). -/
structure Shard where
  uid : Nat
  spill : Word
  cfg : Tab Word
  pcfg : Tab Word
  touched : Bool
  queued : Bool
  heap : List HeapEntry
  rounds : Nat
  arrived : Bool
  st : ShardState
  m : Elem
  zlo : Elem
  zhi : Elem
  bounds : Nat
  best : Option (Elem × Nat)
  floor : Elem
  snapshot : Option (Option (Elem × Nat) × Elem)
  atWait : Option (Elem × Elem × Elem × Nat)
  deriving DecidableEq, Repr

/-- A race context in the hub (R408, R411, R418 to R423). -/
structure RaceCtx where
  gang : Nat
  vi : Nat
  region : Nat
  held : List Nat
  tag : Nat
  m : Nat
  shards : Tab Shard
  started : Bool
  lock : Bool
  etrap : Bool
  topk : Nat
  best : Option (Elem × Nat × Elem)
  floor : Elem
  posts : List (Elem × Nat × Elem)
  struck : List Nat
  round : Nat
  decided : Bool
  pair : Option (Word × Bool)
  deriving DecidableEq, Repr

/-- A host access that waits: for a tier until a deadline (R44), for a chunk or a page that moves (R89, R202), for the new home of a
page to which it has been forwarded (`req`, R202), or behind an earlier access of its window (R153). A compare-and-swap has the value that it
expects in `cas` (R454), and `ide` tells an access that came on the interface's IDE stream (R453). -/
structure HostHeld where
  vi : Nat
  off : Nat
  n : Nat
  data : Option (List Byte)
  cas : Option Word
  ide : Bool
  deadline : Option Nat
  req : Option Nat
  deriving DecidableEq, Repr

/-- The Meridian hub: fabric requests both ways, the pull loads it serves for other modules (its own request, source and identity; R200), combining, reduction slots, handovers, links, races, the collective engine,
launches under way, and the fault-domain stops asked for (interface, region, reason) and under way. -/
structure Hub where
  reqs : List FabReq
  held : List Parked
  fq : List FqEntry
  answers : List (Nat × Nat × FabricReply)
  pulls : List (Nat × Nat × Nat)
  notices : List (Nat × Nat)
  waiting : List Waiting
  records : List Decombine
  dropped : Nat
  slots : Tab RedSlot
  handovers : List Handover
  links : Tab LinkSt
  races : Tab RaceCtx
  fcQ : List Cmd
  hostHeld : List HostHeld
  hostOut : List (Nat × Option (List Byte))
  outbox : List FabricArrival
  launches : List Launch
  stops : List (Nat × Nat × Nat)
  halting : List DomainStop
  deriving DecidableEq, Repr

/-- The answer to a session request (R452). -/
inductive SpdmAnswer where
  | done
  | refused
  | sessionLimitExceeded
  deriving DecidableEq, Repr

/-- Firmware image, power and telemetry (R455 to R457); `writing` is the image that is being written in place, `shutting` holds from the die shutdown point until the stops have ended and the
compute dies lose power (R456). -/
structure Platform where
  power : Bool
  diesOn : Bool
  shutting : Bool
  running : FirmwareImage
  flash : FirmwareImage
  writing : Option FirmwareImage
  bootHalted : Bool
  gated : Bool
  throttled : List Nat
  coolant : Nat × Nat
  fencedMap : List Nat
  reports : List Nat
  measured : List (Nat × List (BitVec 384))
  answers : List (Nat × SpdmAnswer)
  deriving DecidableEq, Repr

/-- How much of its work an actor does. Of a vector instruction: all that is left of it, so many element groups beyond the first
(R209), or the elements below an index (R374). Of an engine command: all that is left, so many accesses beyond the first, or one
access, a read or a write, at an offset of what it is to read or write (R140, R143; log 63). -/
inductive Share where
  | whole
  | groups (n : Nat)
  | upTo (k : Nat)
  | place (write : Bool) (k : Nat)
  deriving DecidableEq, Repr

/-- Who moves next (log 2). The flags of a thread choose between outcomes the spec leaves open: `defer` leaves its stores
issued but not yet in effect (R120, R123), `stale` lets it use a cached leaf, table entry or instruction word (R32, R36, R155).
`early` performs the accesses of one element of an instruction, `n` instructions ahead, before VSTART reaches it (R122, R374);
`ahead` lets the access unit fetch for an instruction `n` ahead (R59), `preload` binds a load ahead of a relaxed SYRD or a WFE (R119, R130, R446), and `prefetch` fills a fetch cache (R155); `drain` puts one issued store
of a stream into effect, `evict` takes a line of HBM out of its die cache (R75, R138), and `loopback` takes a request of this module
to itself (R204). -/
inductive Actor where
  | control (tid : Nat) (defer stale : Bool)
  | vector (tid : Nat) (defer stale : Bool) (share : Share)
  | early (tid n i : Nat) (stale : Bool)
  | ahead (tid n : Nat) (stale : Bool)
  | preload (tid : Nat) (space : BitVec 2) (ea : Word) (n : Nat)
  | prefetch (tid : Nat) (addr : Word) (block : Bool)
  | event (i : Instr) (share : Share)
  | drain (tid stream k : Nat)
  | evict (line : Nat)
  | loopback (id : Nat)
  | clock (core : Nat) (n : Nat)
  deriving DecidableEq, Repr

/-- The whole module. Control thread t of core c has number 4 c + t. `cur` is the thread the step runs, with its flags
`defer` and `stale` and with `share`, how much of its work it does in the turn; `ids` counts identities, `draws` the free choices taken (log 3), `corePref` is the order in which cores are taken (log 15). -/
structure State where
  modnum : Nat
  nmod : Nat
  switches : List Nat
  cur : Nat
  defer : Bool
  stale : Bool
  share : Share
  agenda : List Actor
  cores : Tab CoreSt
  dies : Tab Die
  threads : Tab CThread
  vthreads : Tab VThread
  vis : Tab Vi
  gangs : Tab Gang
  hbm : Memory
  veils : List Veil
  seals : Tab (BitVec 256)
  links : Tab (Nat × Nat)
  cells : Tab Word
  poison : List Struck
  mended : List (Struck × Nat)
  store : Tab StoredPage
  recs : Tab ParkRec
  regionUse : Tab RegionUse
  hub : Hub
  platform : Platform
  ids : Nat
  draws : Nat
  corePref : List Nat
  deriving DecidableEq, Repr

/-- No vector work. -/
def VectorWork.idle : VectorWork :=
  { vcq := [], run := none, vstart := 0, popped := none, part := none, packets := [], upto := none, wayp := none, insn := none, early := [], kept := [], atomic := none, faulted := false }

/-- A vector thread as a task starts or a split creates it (R50, R225). -/
def VThread.fresh : VThread :=
  { vl := 0, vr := 0, fill := 0, rad := 0, fstat := 0, fctl := 0, fidx := [], bargs := [], regs := [], queues := [],
    binds := [], ret := [], work := VectorWork.idle, ahead := [], pend := [], retained := false, idleFrom := 0, issued := 0, bars := [] }

/-- A control thread without a task; every register of a new task reads zero (R225). -/
def CThread.vacant : CThread :=
  { live := false, uid := 0, vi := 0, gang := 0, index := 0, regs := [], pc := 0, priv := .task, tcause := 0, tpc := 0,
    tval := 0, tseq := 0, tblk := 0, tvaddr := 0, tvec := 0, tscratch := 0, wh := false, vh := false, ret := false,
    nest := false, ppriv := 0, xinfo := 0, wdog := 0, wdogCount := 0, icount := 0, geom := 0, vseq := 0, vdone := 0,
    pvl := 0, pvr := 0, pfill := 0, prad := 0, pfctl := 0, heldV := none, heldW := [], heldS := [], behind := none, wstep := 0,
    pending := [], wait := .none, pend := [], asm := [], results := [], race := none, rstatus := 0, parked := none, insn := 0, early := none }

/-- An EMPTY operand slot (R69). -/
def Slot.empty : Slot :=
  { st := .empty, ext := 0, written := [], vw := 0, rdrs := 0, paired := false, odd := false, own := 0, fills := 0,
    data := [] }

/-- An EMPTY accumulator (R70). -/
def Acc.empty : Acc := { st := .empty, w := 16, own := 0, slots := [], normal := false }

/-- A core after reset: split 1, every memory zero (log 1, log 10). -/
def CoreSt.initial : CoreSt :=
  { split := 1, pendSplit := none, scratch := [], links := [], slots := [], accs := [], wops := [], wmacs := [],
    copyQ := [], cycle := 0, fenced := false, last := none, dirty := false, tlb := [], icache := [], bcache := [], corrected := [], struck := false }

/-- A die after reset: its counter at zero (R100), nothing buffered. -/
def Die.initial : Die :=
  { ageclk := 0, egress := [], walks := [], pageQ := [], moves := [], halted := [], promos := [], demos := [], tierFails := [], mirrors := [], updates := [] }

/-- A virtual interface that firmware has not created (R41). -/
def Vi.absent : Vi :=
  { created := false, astbase := 0, frpool := 0, fabtmo := 0, fqbase := 0, rgnbase := 0, syncFirst := 0, syncCount := 0,
    keys := [], emptying := [], stopping := false, tenant := 0, tenantSet := false, session := none, ideKey := none, tag := 0, bound := [],
    tdisp := .unlocked, hbmShare := 0, cxlShare := 0, flashShare := 0, hwbase := 0, mbxbase := 0,
    start := { result := 0, waiting := [] }, stopcnt := 0, refuse := 0, launched := 0, signalled := [], msix := [], pba := [], messages := [],
    handles := [], windows := [] }

/-- A hub with no request, record, slot or race. -/
def Hub.initial : Hub :=
  { reqs := [], held := [], fq := [], answers := [], pulls := [], notices := [], waiting := [], records := [], dropped := 0,
    slots := [], handovers := [], links := [], races := [], fcQ := [], hostHeld := [], hostOut := [], outbox := [], launches := [], stops := [], halting := [] }

/-- The image a module is delivered with; its measurement is the model's own number (log 10). -/
def FirmwareImage.delivered : FirmwareImage := { secVersion := 0, measurement := 0, signatureGood := true }

/-- A powered platform running its delivered image. -/
def Platform.initial : Platform :=
  { power := true, diesOn := true, shutting := false, running := FirmwareImage.delivered, flash := FirmwareImage.delivered,
    writing := none, bootHalted := false, gated := false, throttled := [], coolant := (20, 15), fencedMap := [], reports := [],
    measured := [], answers := [] }

/-- The module right after reset: no virtual interface, no task, nothing on the agenda (log 2, log 10). -/
def State.reset : State :=
  { modnum := 0, nmod := 1, switches := [], cur := 0, defer := false, stale := false, share := .whole, agenda := [], cores := [], dies := [],
    threads := [], vthreads := [], vis := [], gangs := [], hbm := [], veils := [], seals := [], links := [], cells := [],
    poison := [], mended := [], store := [], recs := [], regionUse := [], hub := Hub.initial, platform := Platform.initial, ids := 0, draws := 0, corePref := [] }

end Sys2Proof.Machine
end

