-- ==== Sys2Proof/Machine/Base.lean ====
section
/-! DEFINITION. Tables and the accessors of the state: one way to read and to write each part. -/

namespace Sys2Proof.Machine

/-- The entry of number `k`, or the default. -/
def Tab.get {α : Type} (d : α) (k : Nat) : Tab α → α
  | [] => d
  | (k', v) :: t => if k = k' then v else Tab.get d k t

/-- The entry of number `k`, when listed. -/
def Tab.find {α : Type} (k : Nat) : Tab α → Option α
  | [] => none
  | (k', v) :: t => if k = k' then some v else Tab.find k t

/-- Sets the entry of number `k`, keeping the numbers in rising order. -/
def Tab.put {α : Type} (k : Nat) (v : α) : Tab α → Tab α
  | [] => [(k, v)]
  | (k', v') :: t =>
    if k < k' then (k, v) :: (k', v') :: t
    else if k = k' then (k, v) :: t
    else (k', v') :: Tab.put k v t

/-- Removes the entry of number `k`. -/
def Tab.del {α : Type} (k : Nat) : Tab α → Tab α
  | [] => []
  | (k', v) :: t => if k = k' then Tab.del k t else (k', v) :: Tab.del k t

/-- Sets the entry of number `k` of a table that lists no default values. -/
def Tab.write {α : Type} [DecidableEq α] (d : α) (k : Nat) (v : α) (t : Tab α) : Tab α :=
  if v = d then Tab.del k t else Tab.put k v t

/-- The byte at an address; an unlisted address reads zero (log 1). -/
def Memory.read (m : Memory) (a : Nat) : Byte := Tab.get 0 a m

/-- Writes one byte. -/
def Memory.write (m : Memory) (a : Nat) (b : Byte) : Memory := Tab.write 0 a b m

/-- Writes successive bytes. -/
def Memory.writeList (m : Memory) (a : Nat) : List Byte → Memory
  | [] => m
  | b :: bs => Memory.writeList (Memory.write m a b) (a + 1) bs

/-- Addresses strictly rise, and no byte equals what an unlisted address reads as. -/
def Memory.wf : Memory → Bool
  | [] => true
  | [(_, b)] => b ≠ 0
  | (a, b) :: (a', b') :: t => decide (a < a') && b ≠ 0 && Memory.wf ((a', b') :: t)

/-- The numbers 0 to n − 1. -/
def upto (n : Nat) : List Nat := List.range n

/-- The thread that an actor moves for. -/
def Actor.thread : Actor → Option Nat
  | .control t _ _ => some t
  | .vector t _ _ _ => some t
  | .early t _ _ _ => some t
  | .ahead t _ _ => some t
  | .preload t _ _ _ => some t
  | .prefetch t _ _ => some t
  | .drain t _ _ => some t
  | _ => none

/-- The first element that satisfies a test, with its place. -/
def findAt {α : Type} (p : α → Bool) : List α → Option (Nat × α)
  | [] => none
  | x :: xs => if p x then some (0, x) else (findAt p xs).map (fun r => (r.1 + 1, r.2))

/-- The list without its element number `n`. -/
def dropAt {α : Type} : Nat → List α → List α
  | _, [] => []
  | 0, _ :: xs => xs
  | n + 1, x :: xs => x :: dropAt n xs

namespace State

def core (s : State) (c : Nat) : CoreSt := Tab.get CoreSt.initial c s.cores
def setCore (s : State) (c : Nat) (x : CoreSt) : State := { s with cores := Tab.put c x s.cores }
def die (s : State) (d : Nat) : Die := Tab.get Die.initial d s.dies
def setDie (s : State) (d : Nat) (x : Die) : State := { s with dies := Tab.put d x s.dies }
def thread (s : State) (t : Nat) : CThread := Tab.get CThread.vacant t s.threads
def setThread (s : State) (t : Nat) (x : CThread) : State := { s with threads := Tab.put t x s.threads }
def vthread (s : State) (t : Nat) : VThread := Tab.get VThread.fresh t s.vthreads
def setVthread (s : State) (t : Nat) (x : VThread) : State := { s with vthreads := Tab.put t x s.vthreads }
def vi (s : State) (v : Nat) : Vi := Tab.get Vi.absent v s.vis
def setVi (s : State) (v : Nat) (x : Vi) : State := { s with vis := Tab.put v x s.vis }
def setGang (s : State) (g : Nat) (x : Gang) : State := { s with gangs := Tab.put g x s.gangs }
def gang? (s : State) (g : Nat) : Option Gang := Tab.find g s.gangs
def setRec (s : State) (r : Nat) (x : ParkRec) : State := { s with recs := Tab.put r x s.recs }
def setHub (s : State) (h : Hub) : State := { s with hub := h }

/-- The running control thread, its vector thread and its core. -/
def me (s : State) : CThread := s.thread s.cur
def setMe (s : State) (x : CThread) : State := s.setThread s.cur x
def myV (s : State) : VThread := s.vthread s.cur
def setMyV (s : State) (x : VThread) : State := s.setVthread s.cur x
def myCoreNo (s : State) : Nat := s.cur / 4
def myCore (s : State) : CoreSt := s.core s.myCoreNo
def setMyCore (s : State) (x : CoreSt) : State := s.setCore s.myCoreNo x
def myDieNo (s : State) : Nat := s.cur / 64
def myVi (s : State) : Vi := s.vi s.me.vi

/-- A fresh identity. -/
def freshId (s : State) : Nat × State := (s.ids, { s with ids := s.ids + 1 })

/-- A free choice below `n` (log 3). -/
def draw (s : State) (n : Nat) : Nat × State := (Config.freeNat s.draws % n, { s with draws := s.draws + 1 })

end State

/-- A scalar register; g0 reads zero (R269). -/
def CThread.reg (t : CThread) (r : Reg) : Word := if r = 0 then 0 else Tab.get 0 r.toNat t.regs

/-- Writes a scalar register; a write to g0 is discarded (R269). -/
def CThread.setReg (t : CThread) (r : Reg) (v : Word) : CThread :=
  if r = 0 then t else { t with regs := Tab.write 0 r.toNat v t.regs }

/-- The next instruction address is pc + 4, and the instruction counts in ICOUNT, which counts the instructions of the
control thread alone (R295, R296; log 108). -/
def CThread.advance (t : CThread) : CThread := { t with pc := t.pc + 4, icount := t.icount + 1, wait := .none }

/-- MAXL for a split (R206). -/
def maxlOf (split : Nat) : Nat := if split = 1 then 256 else if split = 2 then 128 else 64

/-- MAXR (R206). -/
def maxr : Nat := 8

/-- The element group size of a split (R206). -/
def groupOf (split : Nat) : Nat := 64 / split

/-- A thread's vector thread exists when its number is below the split (R205). -/
def State.hasVector (s : State) (tid : Nat) : Bool := decide (tid % 4 < (s.core (tid / 4)).split)

end Sys2Proof.Machine
end

