-- ==== Sys2Proof/Machine/Memory.lean ====
section
/-! DEFINITION. Locations and their homes: HBM in its two address forms (R18, R19), sealing (R40), poison (R75, R248), link tags (R137, R138), egress buffers (R114, R115) and performing a store at its home. -/

namespace Sys2Proof.Machine

/-- The interleaved address of a module-local HBM address in either form (R18, R19); none outside HBM. -/
def hbmAddr (a : Nat) : Option Nat :=
  if a < 2 ^ 39 then some a
  else if a < 2 ^ 40 then
    let d := (a - 2 ^ 39) / 2 ^ 37
    let o := (a - 2 ^ 39) % 2 ^ 37
    some (o / 2 ^ 15 * 2 ^ 17 + (2 * d + o / 2 ^ 14 % 2) * 2 ^ 14 + o % 2 ^ 14)
  else none

/-- The die of an interleaved HBM address (R74). -/
def hbmDie (a : Nat) : Nat := a / 2 ^ 14 % 8 / 2

/-- The die-local form of an interleaved HBM address: the inverse of `hbmAddr` on that form (R19). -/
def dieLocal (a : Nat) : Nat :=
  2 ^ 39 + hbmDie a * 2 ^ 37 + a / 2 ^ 17 * 2 ^ 15 + a / 2 ^ 14 % 2 * 2 ^ 14 + a % 2 ^ 14

/-- The offset of an interleaved address within the 64 KiB frame at an address of either form, when it lies there (R19). -/
def frameOffset (frame a : Nat) : Option Nat :=
  let x := if frame < 2 ^ 39 then a else dieLocal a
  if x / 2 ^ 16 = frame / 2 ^ 16 then some (x % 2 ^ 16) else none

/-- The home die of a location (R113); 5 stands for another module and for a contribution. -/
def Loc.home : Loc → Nat
  | .hbm a => hbmDie a
  | .scratch c _ => c / 16
  | .cell d _ => d
  | .remote _ _ _ => 5
  | .line _ _ _ => 5

/-- The location `i` bytes on. -/
def Loc.plus (l : Loc) (i : Nat) : Loc :=
  match l with
  | .hbm a => .hbm (a + i)
  | .scratch c o => .scratch c (o + i)
  | .cell d x => .cell d x
  | .remote m t v => .remote m t (v + i)
  | .line h t v => .line h t (v + i)

/-- `n` bytes at `l` include the byte location `b`. -/
def Loc.covers (l : Loc) (n : Nat) (b : Loc) : Bool :=
  match l, b with
  | .hbm a, .hbm x => decide (a ≤ x) && decide (x < a + n)
  | .scratch c a, .scratch d x => c = d && decide (a ≤ x) && decide (x < a + n)
  | .cell d a, .cell e x => d = e && a = x
  | .remote m t a, .remote m' t' x => m = m' && t = t' && decide (a ≤ x) && decide (x < a + n)
  | .line h t a, .line h' t' x => h = h' && t = t' && decide (a ≤ x) && decide (x < a + n)
  | _, _ => false

/-- The offset of a byte location within one that covers it. -/
def Loc.offsetOf (l b : Loc) : Nat :=
  match l, b with
  | .hbm a, .hbm x => x - a
  | .scratch _ a, .scratch _ x => x - a
  | .remote _ _ a, .remote _ _ x => x - a
  | .line _ _ a, .line _ _ x => x - a
  | _, _ => 0

/-- Two byte ranges meet. -/
def Loc.meets (l : Loc) (n : Nat) (k : Loc) (m : Nat) : Bool :=
  match l, k with
  | .cell d a, .cell e x => d = e && a = x
  | _, _ => l.covers n k || k.covers m l

/-- The veil over an HBM byte, if any. -/
def veilAt (vs : List Veil) (a : Nat) : Option Veil :=
  vs.find? (fun v => decide (v.base ≤ a) && decide (a < v.base + v.len))

/-- The veils with one byte taken out, because something wrote it. -/
def unveil (a : Nat) : List Veil → List Veil
  | [] => []
  | v :: vs =>
    if v.base ≤ a ∧ a < v.base + v.len then
      (if v.base < a then [{ v with len := a - v.base }] else [])
        ++ (if a + 1 < v.base + v.len then
              [{ v with base := a + 1, len := v.base + v.len - (a + 1), off := v.off + (a + 1 - v.base) }] else [])
        ++ unveil a vs
    else v :: unveil a vs

namespace State

/-- An HBM byte before any key is applied. -/
def rawByte (s : State) (a : Nat) : Byte :=
  match veilAt s.veils a with
  | some v => Config.veilByte v.seed (v.off + (a - v.base))
  | none => Memory.read s.hbm a

/-- An HBM byte as read with a sealing key (R40); a line that nothing has written reads zero under every key (log 1). -/
def hbmByte (s : State) (key : BitVec 256) (a : Nat) : Byte :=
  match Tab.find (a / 64) s.seals with
  | some k => if k = key then s.rawByte a else Config.unsealed k key a (s.rawByte a)
  | none => s.rawByte a

/-- Writes one HBM byte, leaving its line's seal. -/
def rawPut (s : State) (a : Nat) (b : Byte) : State :=
  { s with hbm := Memory.write s.hbm a b, veils := unveil a s.veils }

/-- Writes bytes from an address on, one by one, with `f` giving each. -/
def rawPuts (s : State) (a : Nat) (f : Nat → Byte) : Nat → State
  | 0 => s
  | n + 1 => (rawPuts s a f n).rawPut (a + n) (f (a + n))

/-- Seals a line with a key: a line sealed with another is rewritten as it reads under the new one (R40). -/
def sealLine (s : State) (key : BitVec 256) (line : Nat) : State :=
  match Tab.find line s.seals with
  | some k =>
    if k = key then s
    else { s.rawPuts (line * 64) (fun a => s.hbmByte key a) 64 with seals := Tab.put line key s.seals }
  | none => { s with seals := Tab.put line key s.seals }

/-- Writes one HBM byte with a sealing key. -/
def hbmPut (s : State) (key : BitVec 256) (a : Nat) (b : Byte) : State :=
  (s.sealLine key (a / 64)).rawPut a b

/-- Something struck is no longer poisoned once all of it is rewritten (R248). -/
def mend (s : State) (x : Struck) (size byte : Nat) : State :=
  if s.poison.contains x then
    let m := if s.mended.contains (x, byte) then s.mended else (x, byte) :: s.mended
    if (m.filter (fun e => e.1 = x)).length = size then
      { s with poison := s.poison.filter (· ≠ x), mended := m.filter (fun e => e.1 ≠ x) }
    else { s with mended := m }
  else s

/-- The value at the home of one byte location; a remote byte has its home elsewhere. -/
def homeByte (s : State) (key : BitVec 256) (l : Loc) : Byte :=
  match l with
  | .hbm a => s.hbmByte key a
  | .scratch c o => Memory.read (s.core c).scratch o
  | _ => 0

/-- A location lies in poisoned data (R63, R75, R248). -/
def poisoned (s : State) (l : Loc) (n : Nat) : Bool :=
  match l with
  | .hbm a => s.poison.contains (.hbmLine (a / 64)) || s.poison.contains (.hbmLine ((a + n - 1) / 64))
  | .scratch c o => (List.range n).any (fun i => s.poison.contains (.scratchWord c ((o + i) / 4)))
  | _ => false

/-- Breaks the links of the lines that a write of `n` bytes touches, those of the writing thread and stream aside (R138). -/
def breakLink (s : State) (l : Loc) (n : Nat) (who : Option (Nat × Nat)) : State :=
  let keep := fun (a : Nat) (t : Tab (Nat × Nat)) => t.filter (fun e => decide (e.1 < a / 64) || decide ((a + n - 1) / 64 < e.1) || who = some e.2)
  match l with
  | .hbm a => { s with links := keep a s.links }
  | .scratch c o => if (s.core c).links = [] then s else s.setCore c { s.core c with links := keep o (s.core c).links }
  | _ => s

/-- Performs the write of one byte at its home. -/
def putByte (s : State) (key : BitVec 256) (l : Loc) (b : Byte) : State :=
  match l with
  | .hbm a => (s.hbmPut key a b).mend (.hbmLine (a / 64)) 64 (a % 64)
  | .scratch c o =>
    (s.setCore c { s.core c with scratch := Memory.write (s.core c).scratch o b }).mend (.scratchWord c (o / 4)) 4 (o % 4)
  | _ => s

/-- Performs the write of successive bytes at their homes. -/
def putBytes (s : State) (key : BitVec 256) (l : Loc) : List Byte → State
  | [] => s
  | b :: bs => putBytes (s.putByte key l b) key (l.plus 1) bs

/-- A synchronisation cell at its home (R147). -/
def cell (s : State) (d i : Nat) : Word := Tab.get 0 (d * 4096 + i) s.cells

/-- Writes a cell at its home and sends the update to the mirrors of the other dies (R147). -/
def setCell (s : State) (d i : Nat) (v : Word) : State :=
  let k := d * 4096 + i
  let s := { s with cells := Tab.write 0 k v s.cells }
  [0, 1, 2, 3].foldl (fun s x =>
    if x = d then s else s.setDie x { s.die x with updates := (s.die x).updates ++ [(k, v)] }) s

/-- The mirror of a cell on a die; on the home die it is the cell itself (R147). -/
def mirror (s : State) (die d i : Nat) : Word :=
  if die = d then s.cell d i else Tab.get 0 (d * 4096 + i) (s.die die).mirrors

/-- Marks the records whose WAKE word a write of `n` bytes at an HBM address leaves nonzero while they are SAVING or PARKED (R104). -/
def markWakes (s : State) (a n : Nat) : State :=
  { s with recs := s.recs.map (fun e =>
      let r := e.2
      if (r.st = .saving || r.st = .parked) && decide (a < r.at_ + 16) && decide (r.at_ + 8 < a + n)
        && (List.range 8).any (fun i => s.hbmByte r.key (r.at_ + 8 + i) ≠ 0)
      then (e.1, { r with woken := true }) else e) }

/-- Performs a store at its home, breaks links and marks wake writes (R114, R138, R104). -/
def perform (s : State) (key : BitVec 256) (l : Loc) (data : List Byte) (who : Option (Nat × Nat)) : State :=
  match l with
  | .cell d i => s.setCell d i (BitVec.ofNat 64 (leNat data))
  | .hbm a => ((s.putBytes key l data).breakLink l data.length who).markWakes a data.length
  | _ => (s.putBytes key l data).breakLink l data.length who

/-- The egress entries of a die that cover a byte, youngest last. -/
def egressOver (s : State) (die : Nat) (b : Loc) : List EgressEntry :=
  (s.die die).egress.filter (fun e => e.loc.covers e.data.length b)

/-- One byte as an agent of a die loads it: the youngest store in the die's egress buffer, else the home value (R115). -/
def loadByte (s : State) (die : Nat) (key : BitVec 256) (b : Loc) : Byte :=
  match (s.egressOver die b).getLast? with
  | some e => e.data.getD (e.loc.offsetOf b) 0
  | none => s.homeByte key b

/-- `n` bytes as an agent of a die loads them. -/
def loadBytes (s : State) (die : Nat) (key : BitVec 256) (l : Loc) (n : Nat) : List Byte :=
  (List.range n).map (fun i => s.loadByte die key (l.plus i))

/-- A load by a task puts the buffered stores it reads into the task's cumulative set (R128). -/
def observe (s : State) (die : Nat) (uid : Nat) (l : Loc) (n : Nat) : State :=
  let d := s.die die
  if d.egress.any (fun e => e.loc.meets e.data.length l n) then
    s.setDie die { d with egress := d.egress.map (fun e =>
      if e.loc.meets e.data.length l n && !e.owners.contains uid then { e with owners := uid :: e.owners } else e) }
  else s

/-- A store takes effect: at its home when that is the issuing agent's die, else in the die's egress buffer (R114). -/
def storeFrom (s : State) (die : Nat) (owner : Option Nat) (key : BitVec 256) (l : Loc) (data : List Byte)
    (who : Option (Nat × Nat)) (src : Option (Nat × Word × Word × Bool)) (vi : Nat) : State :=
  if l.home = die then s.perform key l data who
  else
    let (i, s) := s.freshId
    let d := s.die die
    s.setDie die { d with egress := d.egress ++
      [{ id := i, loc := l, key := key, data := data, owners := owner.toList, src := src, who := who, vi := vi, req := none }] }

/-- A store of the egress buffer waits for older ones to the same location (R115). -/
def egressFirst (es : List EgressEntry) (n : Nat) : Bool :=
  match es[n]? with
  | some e => (es.take n).all (fun o => !o.loc.meets o.data.length e.loc e.data.length)
  | none => false

/-- Some store of a die to a range is still in its egress buffer (R115, R306). -/
def egressHolds (s : State) (die : Nat) (l : Loc) (n : Nat) : Bool :=
  (s.die die).egress.any (fun e => e.loc.meets e.data.length l n)

/-- A task's cumulative set holds a store that has not performed at its home: in this module, or anywhere (R129). -/
def unperformed (s : State) (uid : Nat) (anywhere : Bool) : Bool :=
  [0, 1, 2, 3, 4].any (fun d => (s.die d).egress.any (fun e => e.owners.contains uid && (anywhere || e.loc.home ≠ 5)))

/-- The eight-byte word at an HBM address as an agent of a die reads it. -/
def physWord (s : State) (die : Nat) (key : BitVec 256) (a : Nat) : Word :=
  BitVec.ofNat 64 (leNat (s.loadBytes die key (.hbm a) 8))

/-- Firmware, the dispatchers and the units write words of their own tables at their homes. -/
def physPut (s : State) (key : BitVec 256) (a : Nat) (w : Word) : State :=
  s.perform key (.hbm a) (leBytes 8 w.toNat) none

/-- The place behind the youngest store of an egress buffer that meets a range. -/
def lastMeeting (l : Loc) (n : Nat) : List EgressEntry → Nat
  | [] => 0
  | e :: es => match lastMeeting l n es with
    | 0 => if e.loc.meets e.data.length l n then 1 else 0
    | k + 1 => k + 2

/-- An atomic of an agent of a die has waited for the stores of the die's egress buffer to its location (R115): they have performed
at the home, in their order and with the older ones of this module. -/
def awaitEgress (s : State) (die : Nat) (l : Loc) (n : Nat) : State :=
  let es := (s.die die).egress
  let k := lastMeeting l n es
  let go := fun (e : EgressEntry) => decide (e.loc.home ≠ 5)
  if k = 0 then s
  else
    ((es.take k).filter go).foldl (fun s e => s.perform e.key e.loc e.data e.who)
      (s.setDie die { s.die die with egress := (es.take k).filter (fun e => !go e) ++ es.drop k })

/-- The page engine or the walker of a die rewrites a word at its home by an atomic (R144). -/
def homeRewrite (s : State) (die : Nat) (key : BitVec 256) (a : Nat) (w : Word) : State :=
  (s.awaitEgress die (.hbm a) 8).physPut key a w

end State

end Sys2Proof.Machine
end

