-- ==== Sys2Proof/Machine/Region.lean ====
section
/-! DEFINITION. Region control blocks, chains, inheritance and fault domains (R210 to R214). -/

namespace Sys2Proof.Machine

/-- Bits [hi : lo] of a word as a number. -/
def bits (w : Word) (hi lo : Nat) : Nat := w.toNat / 2 ^ lo % 2 ^ (hi + 1 - lo)

/-- A word of bits [hi : lo] set. -/
def maskOf (hi lo : Nat) : Nat := 2 ^ (hi + 1) - 2 ^ lo

/-- A gang holds its cores: placed, or stopped with them not yet freed (R232, R235). -/
def Gang.holds (g : Gang) : Bool :=
  match g.st with
  | .placed => true
  | .failed => true
  | .stopped _ => true
  | _ => false

namespace State

/-- The key of slot 0, with which the D7 reads its own tables (R40; log 11). -/
def key0 (s : State) (vi : Nat) : BitVec 256 := Tab.get 0 0 (s.vi vi).keys

/-- The eight-byte word of a module-local physical address at its home; zero outside HBM. -/
def homeWord (s : State) (vi : Nat) (a : Nat) : Word :=
  match hbmAddr a with
  | some x => BitVec.ofNat 64 (leNat ((List.range 8).map (fun i => s.hbmByte (s.key0 vi) (x + i))))
  | none => 0

/-- Writes the eight-byte word of a module-local physical address at its home with slot 0's key; nothing outside HBM. -/
def homePut (s : State) (vi : Nat) (a : Nat) (w : Word) : State :=
  match hbmAddr a with
  | some x => s.physPut (s.key0 vi) x w
  | none => s

end State

/-- A region control block as the dispatcher reads it (R211); `ok` when V = 1 and no reserved bit is set. -/
structure Rcb where
  ok : Bool
  parent : Nat
  ovr : Nat
  prio : Nat
  asn : Nat
  die : Nat
  fd : Bool
  corecap : Nat
  raceq : Nat
  starve : Nat
  quantum : Nat
  cxlq : Nat
  flashq : Nat
  handler : Word
  deriving DecidableEq, Repr

namespace Rcb

/-- The value an RCB holds for field i of the inheritance table (R212). -/
def field (r : Rcb) (i : Nat) : Nat :=
  match i with
  | 0 => r.prio
  | 1 => r.asn
  | 2 => r.die
  | 3 => r.corecap
  | 4 => r.quantum
  | 5 => r.starve
  | 6 => r.cxlq
  | 7 => r.flashq
  | 8 => r.raceq
  | _ => r.handler.toNat

/-- The OVR bit of field i is set. -/
def overrides (r : Rcb) (i : Nat) : Bool := r.ovr / 2 ^ i % 2 = 1

/-- The values an RCB with its OVR bits set must keep to (R213). -/
def valuesOk (r : Rcb) : Bool :=
  (!r.overrides 3 || (decide (1 ≤ r.corecap) && decide (r.corecap ≤ 64))) && (!r.overrides 8 || decide (r.raceq ≤ 64))

end Rcb

namespace State

/-- The address of a region's RCB; none when the table does not lie in HBM (R210). -/
def rcbAt (s : State) (vi x : Nat) : Option Nat :=
  let a := (s.vi vi).rgnbase.toNat + 128 * x
  if (hbmAddr a).isSome then some a else none

/-- Reads an RCB (R211). -/
def readRcb (s : State) (vi x : Nat) : Rcb :=
  match s.rcbAt vi x with
  | none => { ok := false, parent := 0, ovr := 0, prio := 0, asn := 0, die := 0, fd := false, corecap := 0, raceq := 0,
              starve := 0, quantum := 0, cxlq := 0, flashq := 0, handler := 0 }
  | some a =>
    let w := fun n => s.homeWord vi (a + 8 * n)
    let w0 := w 0
    let w1 := w 1
    { ok := w0.getLsbD 0 && bits w0 63 44 = 0 && bits w0 11 2 = 0 && bits w1 63 15 = 0 && bits w1 7 7 = 0
        && bits (w 3) 63 40 = 0 && bits (w 4) 63 40 = 0
        && (List.range 6).all (fun i => w (10 + i) = 0)
      parent := bits w0 43 32, ovr := bits w0 31 22, prio := bits w0 21 18, asn := bits w0 17 14, die := bits w0 13 12
      fd := w0.getLsbD 1, corecap := bits w1 6 0, raceq := bits w1 14 8
      starve := bits (w 2) 63 32, quantum := bits (w 2) 31 0, cxlq := bits (w 3) 39 0, flashq := bits (w 4) 39 0
      handler := w 5 }

/-- The chain of a region within `n` more regions, or none when it is malformed (R213). -/
def chainFrom (s : State) (vi : Nat) : Nat → Nat → Option (List (Nat × Rcb))
  | 0, _ => none
  | n + 1, x =>
    let r := s.readRcb vi x
    if !r.ok || !r.valuesOk then none
    else if x = 0 then
      if r.ovr = 0x3FF && r.fd && r.handler = 0 then some [(0, r)] else none
    else (chainFrom s vi n r.parent).map (fun c => (x, r) :: c)

/-- The chain of a region, from it up to region 0 (R213). -/
def chain (s : State) (vi x : Nat) : Option (List (Nat × Rcb)) := s.chainFrom vi 8 x

end State

/-- The effective value of an inheritable field at the head of a chain (R212). -/
def effective (i : Nat) : List (Nat × Rcb) → Nat
  | [] => 0
  | (_, r) :: c => if r.overrides i then r.field i else effective i c

/-- The fault domain of the region at the head of a chain: the nearest with FD = 1 (R213). -/
def domainOf : List (Nat × Rcb) → Nat
  | [] => 0
  | (x, r) :: c => if r.fd then x else domainOf c

namespace State

/-- The fault domain of a region; a region that is not valid has none. -/
def domain (s : State) (vi x : Nat) : Option Nat := (s.chain vi x).map domainOf

/-- Every region of a chain, with its own effective value of a field (R214). -/
def budgets (i : Nat) : List (Nat × Rcb) → List (Nat × Nat)
  | [] => []
  | (x, r) :: c => (x, effective i ((x, r) :: c)) :: budgets i c

/-- What the D7 counts for a region's subtree (R211). -/
def useOf (s : State) (vi x : Nat) : RegionUse :=
  Tab.get { cores := 0, races := 0, cxl := 0, flash := 0, stops := 0, lastStop := 0 } (vi * 4096 + x) s.regionUse

/-- Updates what the D7 counts for a region and reports it in the RCB's words 6 to 9 (R211). -/
def setUse (s : State) (vi x : Nat) (u : RegionUse) : State :=
  let old := s.useOf vi x
  let s := { s with regionUse := Tab.put (vi * 4096 + x) u s.regionUse }
  match s.rcbAt vi x with
  | none => s
  | some a =>
    let put := fun (s : State) (n : Nat) (w : Nat) => s.homePut vi (a + 8 * n) (BitVec.ofNat 64 w)
    let keep := fun (n : Nat) => bits (s.homeWord vi (a + 8 * n)) 63 40 * 2 ^ 40
    let s := if u.cores = old.cores && u.races = old.races then s else put s 6 (u.cores % 128 + 256 * (u.races % 128))
    let s := if u.cxl = old.cxl then s else put s 7 (keep 7 + u.cxl % 2 ^ 40)
    let s := if u.flash = old.flash then s else put s 8 (keep 8 + u.flash % 2 ^ 40)
    if u.stops = old.stops && u.lastStop = old.lastStop then s else put s 9 (u.stops % 2 ^ 32 + 2 ^ 32 * u.lastStop)

/-- Counts cores in CHELD of some regions, or out of it (R211, R223, R227). -/
def countCores (s : State) (vi : Nat) (regions : List Nat) (n : Nat) (up : Bool) : State :=
  regions.foldl (fun s x =>
    let u := s.useOf vi x
    s.setUse vi x { u with cores := if up then u.cores + n else u.cores - n }) s

/-- Counts one race context in RHELD of some regions, or out of it (R211, R408, R412). -/
def countRace (s : State) (vi : Nat) (regions : List Nat) (up : Bool) : State :=
  regions.foldl (fun s x =>
    let u := s.useOf vi x
    s.setUse vi x { u with races := if up then u.races + 1 else u.races - 1 }) s

/-- Counts one page of a tier on some regions, or out of them (R95, R211). -/
def countTier (s : State) (vi : Nat) (regions : List Nat) (flash up : Bool) : State :=
  regions.foldl (fun s x =>
    let u := s.useOf vi x
    let f := fun n => if up then n + 1 else n - 1
    s.setUse vi x (if flash then { u with flash := f u.flash } else { u with cxl := f u.cxl })) s

/-- The gang whose tasks hold a core (R219). -/
def gangOn (s : State) (core : Nat) : Option (Nat × Gang) :=
  s.gangs.find? (fun g => g.2.holds && g.2.cores.contains core && !g.2.freed.contains core)

end State

end Sys2Proof.Machine
end

