-- ==== Sys2Proof/Machine/RaceUnit.lean ====
section
/-! DEFINITION. Race contexts, the shards' heaps and the race arbiter (R405 to R423). -/

namespace Sys2Proof.Machine

/-- The noise index of R406. -/
def noiseIndex (key pos j : Nat) : Nat :=
  let m := 2 ^ 64
  let x := Nat.xor (Nat.xor (key % m) (pos * 2 ^ 32 % m)) (j % 2 ^ 31)
  let x := x * 0xA3C59B17E64D2F09 % m
  let x := Nat.xor x (x / 2 ^ 29)
  let x := x * 0x6B2FD83A91C74E55 % m
  let x := Nat.xor x (x / 2 ^ 32)
  let x := x * 0xE1D37A5F0C8B6235 % m
  let x := Nat.xor x (x / 2 ^ 27)
  x / 2 ^ 52

/-- The defaults of a shard's configuration (R410). -/
def raceDefault (f : Nat) : Word := if f = 2 ∨ f = 3 then 0x3F800000 else 0

/-- A configuration value is invalid for its field (R410). -/
def raceInvalid (f : Nat) (v : Word) : Bool :=
  let e := v.setWidth 32
  let x := bits v 30 23
  match f with
  | 0 => false
  | 2 => bits v 63 32 ≠ 0 || e.getLsbD 31 || x = 0 || x = 255
  | 3 => bits v 63 32 ≠ 0 || x = 255 || f32Lt e 0x3F800000
  | 4 => bits v 63 2 ≠ 0
  | _ => bits v 63 32 ≠ 0

/-- A configuration field of a shard, as executed. -/
def Shard.config (h : Shard) (f : Nat) : Word := Tab.get (raceDefault f) f h.cfg

/-- A shard stands DROPPED, FINISHED or ENDED (R420). -/
def Shard.stopped (h : Shard) : Bool := h.st = .dropped || h.st = .finished || h.st = .ended

/-- A score and row beat the best so far (R418). -/
def beats (s : Elem) (j : Nat) (best : Option (Elem × Nat × Elem)) : Bool :=
  s ≠ negInf && !isNan32 s && match best with
    | none => true
    | some (b, k, _) => f32Lt b s || (f32Eq b s && decide (j < k))

/-- The best of the posts that are not struck (R418, R420). -/
def bestOf (posts : List (Elem × Nat × Elem)) (struck : List Nat) : Option (Elem × Nat × Elem) :=
  posts.foldl (fun b p => if !struck.contains p.2.1 && beats p.1 p.2.1 b then some p else b) none

/-- Rank bounds are equal, so the penalised logit is known (R420). -/
def HeapEntry.ranked (e : HeapEntry) : Bool := f32Eq e.plLo e.plHi

/-- How an entry stands to row b of penalised logit p (R420). -/
def certainlyAbove (e : HeapEntry) (p : Elem) (b : Nat) : Bool := f32Lt p e.plLo || (f32Eq e.plLo p && decide (e.j < b))
def certainlyNotAbove (e : HeapEntry) (p : Elem) (b : Nat) : Bool := f32Lt e.plHi p || (f32Eq e.plHi p && decide (b < e.j))
def undecided (e : HeapEntry) (p : Elem) (b : Nat) : Bool := !certainlyAbove e p b && !certainlyNotAbove e p b

/-- The entry of a row among the shards. -/
def RaceCtx.entryOf (c : RaceCtx) (j : Nat) : Option (Nat × HeapEntry) :=
  c.shards.findSome? (fun h => (h.2.heap.find? (fun e => e.j = j)).map (fun e => (h.1, e)))

/-- The entries of a shard that are undecided against the best row (R420). -/
def RaceCtx.undecidedIn (c : RaceCtx) (h : Shard) : List HeapEntry :=
  match c.best with
  | none => []
  | some (_, b, _) =>
    match c.entryOf b with
    | none => []
    | some (_, eb) =>
      if eb.ranked then h.heap.filter (fun e => e.j ≠ b && undecided e eb.plLo b)
      else h.heap.filter (fun e => e.j = b)

/-- Every joined shard that is not ENDED and meets a test takes another state. -/
def RaceCtx.setStates (c : RaceCtx) (p : Shard → Bool) (st : ShardState) : RaceCtx :=
  { c with shards := c.shards.map (fun h => if h.2.st ≠ .ended && p h.2 then (h.1, { h.2 with st := st }) else h) }

/-- Decides a race, or moves the top-k proof on, once every shard stands stopped (R420). -/
def RaceCtx.settle (c : RaceCtx) : Nat → RaceCtx
  | 0 => c
  | n + 1 =>
    if c.decided || !c.started || c.shards.length < c.m || c.shards.any (fun h => !h.2.stopped) then c
    else if c.topk = 0 then { c with decided := true }
    else match c.best with
      | none => { c with decided := true }
      | some (_, b, _) =>
        match c.entryOf b with
        | none => { c with decided := true }
        | some (_, eb) =>
          if !eb.ranked then c.setStates (fun h => h.heap.any (fun e => e.j = b)) .ranking
          else
            let all := (c.shards.map (fun h => h.2.heap)).flatten.filter (fun e => e.j ≠ b)
            let above := (all.filter (fun e => certainlyAbove e eb.plLo b)).length
            let open_ := (all.filter (fun e => undecided e eb.plLo b)).length
            if c.topk ≤ above then
              let struck := b :: c.struck
              let c' : RaceCtx := { c with struck := struck, best := bestOf c.posts struck }
              let c' := c'.setStates (fun h => h.st = .dropped || h.st = .finished) .active
              settle { c' with shards := c'.shards.map (fun h => (h.1, { h.2 with best := c'.best.map (fun b => (b.1, b.2.1)) })) } n
            else if above + open_ < c.topk then { c with decided := true }
            else c.setStates (fun h => h.heap.any (fun e => e.j ≠ b && undecided e eb.plLo b)) .ranking

namespace State

/-- A race context in use. -/
def race? (s : State) (c : Nat) : Option RaceCtx := Tab.find c s.hub.races

/-- Writes a race context, decided as far as it goes (R420). -/
def setRace (s : State) (n : Nat) (c : RaceCtx) : State :=
  s.setHub { s.hub with races := Tab.put n (c.settle (c.posts.length + 1)) s.hub.races }

/-- Ends a shard of a race; the context is freed with its last joined shard (R412). -/
def endShard (s : State) (n shard : Nat) : State :=
  match s.race? n with
  | none => s
  | some c =>
    match Tab.find shard c.shards with
    | none => s
    | some h =>
      let h := { h with st := .ended, heap := if h.st = .active then h.heap.filter (fun e => e.handed) else h.heap }
      let c := { c with shards := Tab.put shard h c.shards }
      if c.shards.all (fun x => x.2.st = .ended) then
        (s.setHub { s.hub with races := Tab.del n s.hub.races }).countRace c.vi c.held false
      else s.setRace n c

end State

/-- Rounded FP32 arithmetic of the race unit (R422). -/
def addR (m : Rounding) (a b : Elem) : Elem := (addFl false m (readFloat false a) (readFloat false b)).1
def mulR (m : Rounding) (a b : Elem) : Elem := (mulFl false m (readFloat false a) (readFloat false b)).1
def divR (m : Rounding) (a b : Elem) : Elem := (divFl false m (readFloat false a) (readFloat false b)).1

/-- Adds one probability term to a shard's accumulators; the flag is invalid (R422). -/
def Shard.addTerm (h : Shard) (xl xh : Elem) : Shard × Bool :=
  if isNan32 xl || isNan32 xh || f32Lt xh xl then (h, true)
  else
    let h := if f32Lt xl xh then { h with bounds := h.bounds + 1 } else h
    let h := if f32Lt h.m xh then
        if h.m ≠ negInf then
          { h with zlo := mulR .rdn h.zlo (expDiff .rdn h.m xh), zhi := mulR .rup h.zhi (expDiff .rup h.m xh), m := xh }
        else { h with m := xh }
      else h
    if xh ≠ negInf then
      ({ h with zlo := addR .rdn h.zlo (expDiff .rdn xl h.m), zhi := addR .rup h.zhi (expDiff .rup xh h.m) }, false)
    else (h, false)

/-- The accumulators the arbiter combines: as they stood at the shard's first wait after the decision, or at its end (R426). -/
def Shard.combined (h : Shard) : Elem × Elem × Elem × Nat := h.atWait.getD (h.m, h.zlo, h.zhi, h.bounds)

/-- The bounds of the winner's probability: lower and upper, and whether Zhi is 0 (R423). -/
def RaceCtx.probability (c : RaceCtx) (xw : Elem) : Elem × Elem × Bool :=
  let c : RaceCtx := { c with shards := c.shards.map (fun h => let (m, lo, hi, _) := h.2.combined; (h.1, { h.2 with m := m, zlo := lo, zhi := hi })) }
  let m := c.shards.foldl (fun m h => if f32Lt m h.2.m then h.2.m else m) negInf
  let lo := c.shards.foldl (fun z h => addR .rdn z (if h.2.m = m then h.2.zlo else if h.2.m = negInf then 0 else mulR .rdn h.2.zlo (expDiff .rdn h.2.m m))) 0
  let hi := c.shards.foldl (fun z h => addR .rup z (if h.2.m = m then h.2.zhi else if h.2.m = negInf then 0 else mulR .rup h.2.zhi (expDiff .rup h.2.m m))) 0
  if hi = 0 || m = negInf then (0, 0x3F800000, true)
  else
    let l := divR .rdn (expDiff .rdn xw m) hi
    let u := if lo = 0 then 0x3F800000 else divR .rup (expDiff .rup xw m) lo
    (l, if f32Lt 0x3F800000 u then 0x3F800000 else u, false)

end Sys2Proof.Machine
end

