-- ==== Sys2Proof/Machine/Tier.lean ====
section
/-! DEFINITION. Frames, cached translations, promotions and the abort of demotions (R30 to R32, R94 to R99), as the page engine, the translations and the events share them. -/

namespace Sys2Proof.Machine

/-- The page-table entry fields of R21 and R22. -/
def pteV (w : Word) : Bool := w.getLsbD 0
def pteL (w : Word) : Bool := w.getLsbD 1
def pteRd (w : Word) : Bool := w.getLsbD 2
def pteWr (w : Word) : Bool := w.getLsbD 3
def pteEx (w : Word) : Bool := w.getLsbD 4
def pteU (w : Word) : Bool := w.getLsbD 5
def pteA (w : Word) : Bool := w.getLsbD 6
def pteD (w : Word) : Bool := w.getLsbD 7
def ptePin (w : Word) : Bool := w.getLsbD 8
def pteHs (w : Word) : Bool := w.getLsbD 9
def pteFrame (w : Word) : Nat := bits w 55 16 * 2 ^ 16
def pteFr (w : Word) : Bool := w.getLsbD 56
def pteDl (w : Word) : Bool := w.getLsbD 57
def pteTier (w : Word) : Nat := bits w 59 58
def pteSkey (w : Word) : Nat := bits w 63 60

/-- A leaf without its A and D bits, which the walker alone sets (R27). -/
def pteNoAd (w : Word) : Word := w &&& ~~~(0xC0#64)

/-- The leaf with another tier and another PFN. -/
def pteMove (w : Word) (tier pfn : Nat) : Word :=
  BitVec.ofNat 64 (bits w 15 0 + pfn % 2 ^ 40 * 2 ^ 16 + bits w 57 56 * 2 ^ 56 + tier * 2 ^ 58 + bits w 63 60 * 2 ^ 60)

/-- What a waiting agent is known by: a control thread's or vector thread's task, an engine command, a held fabric request or a held host access. -/
def waiterControl (uid : Nat) : Nat := 8 * uid
def waiterVector (uid : Nat) : Nat := 8 * uid + 1
def waiterCmd (id : Nat) : Nat := 8 * id + 2
def waiterFabric (id : Nat) : Nat := 8 * id + 3
def waiterHost (vi off : Nat) : Nat := 8 * (64 * off + vi) + 4
def waiterFetch (uid : Nat) : Nat := 8 * uid + 5
def waiterDispatch (g : Nat) : Nat := 8 * g + 6
def waiterLaunch (id : Nat) : Nat := 8 * id + 7

/-- One ring of the frame pool (R96): its base and its size. -/
structure Ring where
  base : Nat
  size : Nat
  deriving DecidableEq, Repr

/-- The base word of a ring, or none when R98 treats the ring as absent. -/
def ringOf (w : Word) : Option Ring :=
  let n := bits w 4 0
  if bits w 63 46 = 0 && bits w 11 5 = 0 && decide (1 ≤ n) && decide (n ≤ 20) && (hbmAddr (bits w 45 12 * 2 ^ 12)).isSome then
    some { base := bits w 45 12 * 2 ^ 12, size := 2 ^ n }
  else none

/-- What asking for a free frame gives (R97, R98). -/
inductive FrameTake where
  | absent
  | empty
  | got (frame : Nat)
  deriving DecidableEq, Repr

/-- What an access meets at a page outside HBM (R26). -/
inductive TierMeet where
  | proceeds
  | fails (reason : Nat)
  | waits
  deriving DecidableEq, Repr

namespace State

/-- A word of a virtual interface's own tables as the page engine of a die loads it (R115); zero outside HBM. -/
def dieWord (s : State) (die vi a : Nat) : Word :=
  match hbmAddr a with
  | some x => s.physWord die (s.key0 vi) x
  | none => 0

/-- The page engine of a die writes such a word at its home, behind the stores to it that the die has buffered (R115). -/
def diePut (s : State) (die vi a : Nat) (w : Word) : State :=
  match hbmAddr a with
  | some x => s.homeRewrite die (s.key0 vi) x w
  | none => s

/-- A ring of a virtual interface's frame pool, with the header's address; `off` is 0 for the free ring and 0x18 for the return ring. -/
def poolRing (s : State) (die vi off : Nat) : Option (Nat × Ring) :=
  let h := (s.vi vi).frpool.toNat
  if h = 0 || (hbmAddr h).isNone || (List.range 8).any (fun i => s.dieWord die vi (h + 64 + 8 * i) ≠ 0) then none
  else (ringOf (s.dieWord die vi (h + off))).map (fun r => (h, r))

/-- Takes free-ring entries until one is a frame, counting the malformed ones in BADFR (R97). -/
def takeFrom (s : State) (die vi h : Nat) (r : Ring) : Nat → FrameTake × State
  | 0 => (.empty, s)
  | n + 1 =>
    let c := (s.dieWord die vi (h + 16)).toNat
    let e := (s.dieWord die vi (r.base + 8 * (c % r.size))).toNat
    let s := s.diePut die vi (h + 16) (BitVec.ofNat 64 (c + 1))
    if e % 2 ^ 16 = 0 && decide (e < 2 ^ 39) then (.got e, s)
    else takeFrom (s.diePut die vi (h + 56) (s.dieWord die vi (h + 56) + 1)) die vi h r n

/-- Takes a free frame of a virtual interface (R96 to R98). -/
def takeFrame (s : State) (die vi : Nat) : FrameTake × State :=
  match s.poolRing die vi 0 with
  | none => (.absent, s)
  | some (h, r) => s.takeFrom die vi h r ((s.dieWord die vi (h + 8) - s.dieWord die vi (h + 16)).toNat)

/-- The return ring has room, is full, or is absent (none) (R97, R98). -/
def returnRoom (s : State) (die vi : Nat) : Option Bool :=
  (s.poolRing die vi 24).map (fun (h, r) =>
    decide ((s.dieWord die vi (h + 32) - s.dieWord die vi (h + 40)).toNat < r.size))

/-- Gives a frame back on the return ring (R96, R97); without one the frame is lost to the supervisor (log 85). -/
def returnFrame (s : State) (die vi frame : Nat) : State :=
  match s.poolRing die vi 24 with
  | none => s
  | some (h, r) =>
    let p := (s.dieWord die vi (h + 32)).toNat
    (s.diePut die vi (r.base + 8 * (p % r.size)) (BitVec.ofNat 64 frame)).diePut die vi (h + 32) (BitVec.ofNat 64 (p + 1))

/-- Writes STARVE, the number of the interface's promotions that wait for a free frame, where it has changed (R96, R97); the header is
there when FRPOOL is, whatever its rings. -/
def writeStarve (s : State) (die vi : Nat) : State :=
  let h := (s.vi vi).frpool.toNat
  let n := ((s.dies.map (fun d => (d.2.promos.filter (fun p => p.vi = vi && p.frame.isNone)).length)).foldl (· + ·) 0)
  if h = 0 || (hbmAddr h).isNone || s.dieWord die vi (h + 48) = BitVec.ofNat 64 n then s
  else s.diePut die vi (h + 48) (BitVec.ofNat 64 n)

/-- Removes cached translations from some cores (R37). -/
def dropTlb (s : State) (cores : Nat → Bool) (p : TlbEntry → Bool) : State :=
  { s with cores := s.cores.map (fun c => if cores c.1 then (c.1, { c.2 with tlb := c.2.tlb.filter (fun e => !p e) }) else c) }

/-- Removes the translation of one entry everywhere, as TLBINV.pg.m would (R99). -/
def dropLeaf (s : State) (vi at_ : Nat) : State :=
  s.dropTlb (fun _ => true) (fun e => e.vi = vi && e.at_ = at_)

/-- A word of a page table at its home; `a` is an interleaved address. -/
def leafWord (s : State) (vi a : Nat) : Word :=
  BitVec.ofNat 64 (leNat ((List.range 8).map (fun i => s.hbmByte (s.key0 vi) (a + i))))

/-- The compare-and-swap of a leaf by the page engine of a die, the A and D bits aside (R99, R115). -/
def leafCas (s : State) (die vi a : Nat) (old new : Word) : Option State :=
  let s := s.awaitEgress die (.hbm a) 8
  let w := s.leafWord vi a
  if pteNoAd w = pteNoAd old then
    some ((s.physPut (s.key0 vi) a (pteNoAd new ||| (w &&& 0xC0#64))).dropLeaf vi a)
  else none

/-- Sets a command's result word, with the command's TAG, to be posted (R434, R142). -/
def setResult (s : State) (id : Nat) (r : EngineResult) : State :=
  let f := fun (c : Cmd) => if c.id = id then
    { c with result := some { r with word := r.word ||| BitVec.ofNat 64 (bits c.header 47 40 * 2 ^ 48) } } else c
  { s with dies := s.dies.map (fun d => (d.1, { d.2 with pageQ := d.2.pageQ.map f }))
           cores := s.cores.map (fun c => (c.1, { c.2 with copyQ := c.2.copyQ.map f }))
           hub := { s.hub with fcQ := s.hub.fcQ.map f } }

/-- Restarts the dwell of a page in the records that hold it (R99, R107). -/
def restartDwell (s : State) (vi asn va : Nat) : State :=
  { s with recs := s.recs.map (fun r =>
      if r.2.vi = vi && r.2.asn = asn && !r.2.resumed && r.2.pages.any (fun p => p.2 = va) then
        (r.1, { r.2 with dwell := Tab.put va (s.die r.2.die).ageclk r.2.dwell })
      else r) }

/-- The demotion in progress of a leaf, with its die and its place (R99). -/
def demoOf (s : State) (vi at_ : Nat) : Option (Nat × Demo) :=
  s.dies.findSome? (fun d => (d.2.demos.find? (fun e => e.vi = vi && e.at_ = at_)).map (fun e => (d.1, e)))

/-- The frame of the leaf a demotion found, when the page was in HBM. -/
def demoFromHbm (d : Demo) : Bool := pteTier d.old = 0

/-- Aborts a demotion that an access or a wake met: the leaf is restored, and the dwell starts again (R99); none when software has
rewritten the leaf, which leaves the demotion to finish (log 103). -/
def abortDemo (s : State) (die : Nat) (d : Demo) : Option State :=
  (s.leafCas die d.vi d.at_ d.new d.old).map (fun s =>
    let s := s.setDie die { s.die die with demos := (s.die die).demos.filter (· ≠ d) }
    let s := if demoFromHbm d then s.restartDwell d.vi d.asn d.va else s
    match d.cmd with
    | some c => s.setResult c { word := 0x0600_0000_0000_0005, tval := 0, xinfo := 0 }
    | none => s)

/-- A promotion of this leaf is in flight, with its die. -/
def promoOf (s : State) (vi at_ : Nat) : Option (Nat × Promo) :=
  s.dies.findSome? (fun d => (d.2.promos.find? (fun e => e.vi = vi && e.at_ = at_)).map (fun e => (d.1, e)))

/-- The stored page that a leaf outside HBM names: its contents, or under handle 0 that it was discarded (R94). -/
def storedOf (s : State) (vi asn va : Nat) (leaf : Word) : Option (Nat × StoredPage) :=
  s.store.find? (fun e => e.2.vi = vi && e.2.asn = asn && e.2.va = va && e.2.flash = decide (pteTier leaf = 2)
    && e.2.handle = BitVec.ofNat 40 (bits leaf 55 16))

/-- Refuses a held host access: it counts in REFUSE, and a read gets its completer abort (R43, R44). -/
def refuseHeld (s : State) (h : HostHeld) : State :=
  let s := s.setVi h.vi { s.vi h.vi with refuse := (s.vi h.vi).refuse + 1 }
  s.setHub { s.hub with hostHeld := s.hub.hostHeld.erase h
                        hostOut := s.hub.hostOut ++ (if h.data.isNone || h.cas.isSome then [(h.vi, none)] else []) }

/-- Tells the agents waiting for a promotion that it failed, with the XINFO reason (R26); a held host access is refused at once (R44). -/
def failPromo (s : State) (die : Nat) (p : Promo) (reason : Nat) : State :=
  let x := s.die die
  let held := s.hub.hostHeld.filter (fun h => p.waiters.contains (waiterHost h.vi h.off))
  let rest := p.waiters.filter (fun w => !held.any (fun h => waiterHost h.vi h.off = w))
  let s := s.setDie die { x with promos := x.promos.filter (· ≠ p), tierFails := rest.map (fun w => (w, p.at_, reason)) ++ x.tierFails }
  held.foldl (fun s h => s.refuseHeld h) s

/-- Starts the promotion of a page on a die's page engine, at the front when an access waits for it (R26, R99, R107).
An absent free ring fails it at once (R98); an empty one leaves it waiting and counted in STARVE (R97), and one that is not at the front
waits behind those that wait already (R106). -/
def startPromo (s : State) (die vi asn va at_ : Nat) (leaf : Word) (rec_ : Option Nat) (hot : Bool) (waiters : List Nat) : State :=
  let add := fun (s : State) (p : Promo) =>
    let x := s.die die
    s.setDie die { x with promos := if waiters = [] then x.promos ++ [p] else p :: x.promos }
  let p : Promo := { vi := vi, asn := asn, va := va, at_ := at_, leaf := leaf, frame := none, rec_ := rec_, hot := hot, waiters := waiters }
  let behind := waiters = [] && (s.poolRing die vi 0).isSome && (s.die die).promos.any (fun q => q.vi = vi && q.frame.isNone)
  match (if behind then (.empty, s) else s.takeFrame die vi) with
  | (.absent, s) => ((add s p).failPromo die p 6).writeStarve die vi
  | (.empty, s) => (add s p).writeStarve die vi
  | (.got f, s) => (add s { p with frame := some f }).writeStarve die vi

/-- An access by `waiter` meets a page outside HBM (R26): a demotion is aborted and the access proceeds, its promotion has
failed, or it waits for its promotion. -/
def meetTier (s : State) (die waiter vi asn va at_ : Nat) (leaf : Word) : TierMeet × State :=
  match (s.dies.findSome? (fun d => (d.2.tierFails.find? (fun f => f.1 = waiter && f.2.1 = at_)).map (fun f => (d.1, f)))) with
  | some (d, f) =>
    let x := s.die d
    (.fails f.2.2, s.setDie d { x with tierFails := x.tierFails.filter (· ≠ f) })
  | none =>
    let wait := fun (s : State) (leaf : Word) =>
      match s.promoOf vi at_ with
      | some (d, p) =>
        let x := s.die d
        let p' := { p with waiters := if p.waiters.contains waiter then p.waiters else waiter :: p.waiters }
        (TierMeet.waits, s.setDie d { x with promos := p' :: x.promos.filter (· ≠ p) })
      | none => (TierMeet.waits, s.startPromo die vi asn va at_ leaf none false [waiter])
    match s.demoOf vi at_ with
    | some (d, e) => match s.abortDemo d e with
      | some s => if demoFromHbm e then (.proceeds, s) else wait s (s.leafWord vi at_)
      | none => wait s leaf
    | none => wait s leaf

end State

end Sys2Proof.Machine
end

