-- ==== Sys2Proof/Machine/Translate.lean ====
section
/-! DEFINITION. Address checks and translation (R8 to R46, R83 to R86, R440, R441, R451), and the apertures. -/

namespace Sys2Proof.Machine

/-- KIND of an access (R11). -/
inductive Kind where
  | read
  | write
  | fetch
  | atomic
  | blockFetch
  deriving DecidableEq, Repr

/-- The KIND code of XINFO (R11). -/
def Kind.code : Kind → Nat
  | .read => 0
  | .write => 1
  | .fetch => 2
  | .atomic => 3
  | .blockFetch => 4

/-- The cause codes of R246 that this model raises. -/
def causeIllegal : BitVec 6 := 0x01
def causePriv : BitVec 6 := 0x02
def causeMisalign : BitVec 6 := 0x03
def causeBlockOverrun : BitVec 6 := 0x04
def causeOperandOverlap : BitVec 6 := 0x05
def causeBadSplit : BitVec 6 := 0x06
def causeTrapInsn : BitVec 6 := 0x07
def causeBreak : BitVec 6 := 0x08
def causePageNotPresent : BitVec 6 := 0x10
def causePageProt : BitVec 6 := 0x11
def causePageTierFail : BitVec 6 := 0x12
def causeSlabBound : BitVec 6 := 0x13
def causeSpaceRange : BitVec 6 := 0x14
def causePeerAbsent : BitVec 6 := 0x15
def causeSeal : BitVec 6 := 0x16
def causeCanonical : BitVec 6 := 0x17
def causeImportRefused : BitVec 6 := 0x18
def causeReservedCode : BitVec 6 := 0x19
def causeFpTrap : BitVec 6 := 0x1A
def causeGuardOvf : BitVec 6 := 0x20
def causeWmuGeometry : BitVec 6 := 0x21
def causeTileState : BitVec 6 := 0x22
def causeTileNone : BitVec 6 := 0x23
def causeAccCapacity : BitVec 6 := 0x24
def causeEngineFault : BitVec 6 := 0x25
def causeRaceEmpty : BitVec 6 := 0x28
def causeRaceCtx : BitVec 6 := 0x29
def causeFabRemoteFault : BitVec 6 := 0x30
def causeFabTimeout : BitVec 6 := 0x31
def causeFabAtomicLost : BitVec 6 := 0x32
def causeFabPerm : BitVec 6 := 0x33
def causeFabNoslot : BitVec 6 := 0x34
def causeSyncRange : BitVec 6 := 0x38
def causeWatchdog : BitVec 6 := 0x3D
def causeMachineCheck : BitVec 6 := 0x3E

/-- XINFO of REASON, LEVEL and KIND (R11). -/
def xinfoOf (reason level : Nat) (k : Kind) : Word := BitVec.ofNat 64 (reason * 256 + level * 16 + k.code)

/-- Why a piece of an instruction does not go on: a cause with its TVAL and XINFO, or a wait; both with the state so far. -/
inductive Stop where
  | trap (s : State) (cause : BitVec 6) (tval : Word) (xinfo : Option Word)
  | wait (s : State)
  deriving DecidableEq, Repr

/-- Who makes an access (R112): its virtual interface, address space and privilege, the die it sits on, its core when it has
one, its task, what it waits under, whether it is a fabric request at its target (R175) or a host access (R43), and whether it
uses cached leaves (R32). -/
structure Agent where
  vi : Nat
  asn : Nat
  sup : Bool
  die : Nat
  core : Option Nat
  uid : Option Nat
  waiter : Nat
  fabric : Bool
  host : Bool
  stale : Bool
  deriving DecidableEq, Repr

/-- Where an access goes: a location of this module with the key of its page, another module under a virtual address, or an aperture. -/
inductive Place where
  | here (l : Loc) (key : BitVec 256)
  | away (module : Nat) (va : Nat)
  | reduce (handle gen member off : Nat)
  | pull (window off : Nat)
  | caps (off : Nat)
  deriving DecidableEq, Repr

/-- A leaf found by a walk: its level, the interleaved address of its entry and its word. -/
structure Leaf where
  level : Nat
  at_ : Nat
  word : Word
  deriving DecidableEq, Repr

/-- The number of low address bits a leaf of a level maps (R20). -/
def pageBits (level : Nat) : Nat := 16 + 10 * level

/-- The table index of a virtual address at a level (R20). -/
def walkIndex (va level : Nat) : Nat := va / 2 ^ (pageBits level) % 1024

/-- Why a valid entry at a level counts as not valid: the XINFO reason, or none (R21 to R23). -/
def pteMalformed (w : Word) (level : Nat) : Option Nat :=
  if pteL w then
    let f := pteFrame w
    if level = 3 || bits w 15 10 ≠ 0 || pteTier w = 3 || (pteWr w && !pteRd w) || f % 2 ^ pageBits level ≠ 0
      || (pteTier w = 0 && pteFr w && bits w 45 16 ≠ 0)
      || (pteTier w = 0 && !pteFr w && (decide (2 ^ 40 ≤ f) || (decide (2 ^ 39 ≤ f) != pteDl w)))
    then some 1 else none
  else if level = 0 || bits w 63 46 ≠ 0 || bits w 12 2 ≠ 0 then some 1
  else if (hbmAddr (bits w 45 13 * 2 ^ 13)).isNone then some 3
  else none

namespace State

/-- Walks from the table at a module-local physical address, level by level; an error gives the level and the reason (R20 to R23,
R46). `old` gives the table entries that the walker takes from its cache, by level (R36). -/
def walkFrom (s : State) (die : Nat) (key : BitVec 256) (old : Nat → Option Word) (va : Nat) : Nat → Nat → Except (Nat × Nat) Leaf
  | 0, _ => .error (0, 1)
  | n + 1, table =>
    match hbmAddr (table + 8 * walkIndex va n) with
    | none => .error (n, 3)
    | some a =>
      let w := (old n).getD (s.physWord die key a)
      if !pteV w then .error (n, 0)
      else match pteMalformed w n with
        | some r => .error (n, r)
        | none => if pteL w then .ok { level := n, at_ := a, word := w } else walkFrom s die key old va n (bits w 45 13 * 2 ^ 13)

/-- The table entries that a walk passes, from the root down, as the walker may keep them (R30, R36). -/
def walkTables (s : State) (die : Nat) (key : BitVec 256) (old : Nat → Option Word) (vi asn va : Nat) : Nat → Nat → List TlbEntry
  | 0, _ => []
  | n + 1, table =>
    match hbmAddr (table + 8 * walkIndex va n) with
    | none => []
    | some a =>
      let w := (old n).getD (s.physWord die key a)
      if !pteV w || (pteMalformed w n).isSome || pteL w then []
      else { vi := vi, asn := asn, level := n, page := va / 2 ^ pageBits n, leaf := w, at_ := a } :: walkTables s die key old vi asn va n (bits w 45 13 * 2 ^ 13)

/-- The table entry of a level that a die's walker has cached for an address (R36). -/
def cachedTable (s : State) (die vi asn va level : Nat) : Option Word :=
  ((s.die die).walks.find? (fun e => e.vi = vi && e.asn = asn && e.level = level && e.page = va / 2 ^ pageBits level)).map (fun e => e.leaf)

/-- The walker of a die keeps the table entries of a walk; the newest 1024 are kept (R36; log 86). -/
def fillWalks (s : State) (die : Nat) (es : List TlbEntry) : State :=
  let d := s.die die
  if es.all (fun e => d.walks.contains e) then s
  else s.setDie die { d with walks := (es ++ d.walks.filter (fun x => !es.any (fun e => e.vi = x.vi && e.asn = x.asn && e.level = x.level && e.page = x.page))).take 1024 }

/-- Removes table entries from the walkers of some dies (R36, R37). -/
def dropWalks (s : State) (dies : Nat → Bool) (p : TlbEntry → Bool) : State :=
  { s with dies := s.dies.map (fun d => if dies d.1 then (d.1, { d.2 with walks := d.2.walks.filter (fun e => !p e) }) else d) }

/-- The address-space table entry: ROOT, SLABTAB and SL, or the reason it counts as not valid (R9, R10). -/
def asEntry (s : State) (die vi asn : Nat) : Except Nat (Nat × Nat × Bool) :=
  match hbmAddr ((s.vi vi).astbase.toNat + 16 * asn) with
  | none => .error 3
  | some a =>
    let w0 := s.physWord die (s.key0 vi) a
    let w1 := s.physWord die (s.key0 vi) (a + 8)
    let root := bits w0 45 13 * 2 ^ 13
    let tab := bits w1 45 13 * 2 ^ 13
    if bits w0 63 46 ≠ 0 || bits w0 12 2 ≠ 0 || bits w1 63 46 ≠ 0 || bits w1 12 0 ≠ 0 then .error 2
    else if !w0.getLsbD 0 then .error 0
    else if (hbmAddr root).isNone || (w0.getLsbD 1 && decide (2 ^ 40 < tab + 2 ^ 19)) then .error 3
    else .ok (root, tab, w0.getLsbD 1)

/-- A cached leaf that covers an address (R32). -/
def cached (s : State) (core vi asn va : Nat) : Option Leaf :=
  ((s.core core).tlb.find? (fun e => e.vi = vi && e.asn = asn && decide (e.level ≤ 2) && e.page = va / 2 ^ pageBits e.level)).map
    (fun e => { level := e.level, at_ := e.at_, word := e.leaf })

/-- Loads a leaf into a core's TLB; the newest 1024 are kept (R27, R30). -/
def fillTlb (s : State) (core vi asn va : Nat) (l : Leaf) : State :=
  let c := s.core core
  let e : TlbEntry := { vi := vi, asn := asn, level := l.level, page := va / 2 ^ pageBits l.level, leaf := l.word, at_ := l.at_ }
  if c.tlb.head? = some e then s
  else s.setCore core { c with tlb := (e :: c.tlb.filter (fun x => x.at_ ≠ e.at_ || x.page ≠ e.page)).take 1024 }

/-- Sets A or D of a leaf by a compare-and-swap of a die's walker at the entry's home (R27, R115): none when the entry has changed. -/
def setLeafBits (s : State) (die vi : Nat) (l : Leaf) (m : Word) : Option (Leaf × State) :=
  if l.word &&& m = m then some (l, s)
  else
    let s := s.awaitEgress die (.hbm l.at_) 8
    if s.leafWord vi l.at_ = l.word then
      some ({ l with word := l.word ||| m }, s.physPut (s.key0 vi) l.at_ (l.word ||| m))
    else none

end State

/-- The permission an access kind needs of a leaf (R24). -/
def permits (ag : Agent) (k : Kind) (w : Word) : Bool :=
  (match k with
    | .read => pteRd w
    | .write => pteWr w
    | .fetch => pteEx w
    | .blockFetch => pteEx w
    | .atomic => pteRd w && pteWr w)
  && (pteU w || (ag.sup && !ag.fabric) || ag.host)

/-- An access kind writes. -/
def Kind.writes (k : Kind) : Bool := k = .write || k = .atomic

namespace State

/-- The place of an HBM byte of this module: while its page's home moves, an access is held, and then forwarded (R202). -/
def atHome (s : State) (a : Nat) (key : BitVec 256) : Except Stop (Place × State) :=
  match s.hub.handovers.find? (fun h => (frameOffset h.frame a).isSome) with
  | some h => match h.st with
    | .forwarding => .ok (.away h.target (h.va / 2 ^ 16 * 2 ^ 16 + (frameOffset h.frame a).getD 0), s)
    | .retired => .ok (.here (.hbm a) key, s)
    | _ => .error (.wait s)
  | none => .ok (.here (.hbm a) key, s)

/-- The state of the permission, sealing and tier checks on a leaf, and the place (R24 to R27, R31, R35, R40, R41). -/
def useLeaf (s : State) (ag : Agent) (k : Kind) (ea : Word) (va : Nat) (l : Leaf) : Except Stop (Place × State) :=
  if pteFr l.word && (ag.fabric || ag.host) then
    .error (.trap s causeFabRemoteFault ea (some (xinfoOf 1 l.level k)))
  else if !permits ag k l.word then .error (.trap s causePageProt ea (some (xinfoOf 4 l.level k)))
  else if pteFr l.word then
    if k = .fetch || k = .blockFetch then .error (.trap s causePageProt ea (some (xinfoOf 4 l.level k)))
    else match s.setLeafBits ag.die ag.vi l (if k.writes then 0x80 else 0) with
      | none => .error (.wait s)
      | some (l, s) => .ok (.away (bits l.word 55 46) va, s)
  else
    match Tab.find (pteSkey l.word) (s.vi ag.vi).keys with
    | none => .error (.trap s causeSeal ea (some (xinfoOf 5 l.level k)))
    | some key =>
      let finish := fun (s : State) (l : Leaf) =>
        match s.setLeafBits ag.die ag.vi l ((if k.writes then 0x80 else 0) ||| (if ag.host then 0x40 else 0)) with
        | none => .error (.wait s)
        | some (l, s) =>
          match hbmAddr (pteFrame l.word + va % 2 ^ pageBits l.level) with
          | some a => s.atHome a key
          | none => .error (.trap s causePageNotPresent ea (some (xinfoOf 1 l.level k)))
      if pteTier l.word = 0 then finish s l
      else
        match s.meetTier ag.die ag.waiter ag.vi ag.asn (va / 2 ^ pageBits l.level * 2 ^ pageBits l.level) l.at_ l.word with
        | (.fails r, s) => .error (.trap s causePageTierFail ea (some (xinfoOf r l.level k)))
        | (.waits, s) => .error (.wait s)
        | (.proceeds, s) => finish s { l with word := s.leafWord ag.vi l.at_ }

/-- A walk of an ordinary address, which loads the leaf and sets A (R20 to R28); it reads its tables, or takes what the walker has
cached of them (R36). -/
def freshLeaf (s : State) (ag : Agent) (k : Kind) (ea : Word) (root va : Nat) : Except Stop (Leaf × State) :=
  let old := fun (n : Nat) => if ag.stale then s.cachedTable ag.die ag.vi ag.asn va n else none
  match s.walkFrom ag.die (s.key0 ag.vi) old va 4 root with
  | .error (lv, r) => .error (.trap s causePageNotPresent ea (some (xinfoOf r lv k)))
  | .ok l =>
    if ag.host then .ok (l, s)
    else match s.setLeafBits ag.die ag.vi l 0x40 with
      | none => .error (.wait s)
      | some (l, s) =>
        let s := s.fillWalks ag.die (s.walkTables ag.die (s.key0 ag.vi) old ag.vi ag.asn va 4 root)
        match ag.core with
        | some c => .ok (l, s.fillTlb c ag.vi ag.asn va l)
        | none => .ok (l, s)

/-- Translates an ordinary global virtual address (R20 to R31); `va` has 56 bits. -/
def translateVa (s : State) (ag : Agent) (k : Kind) (ea : Word) (root va : Nat) : Except Stop (Place × State) :=
  if decide (0xFB ≤ va / 2 ^ 48) && decide (va / 2 ^ 48 ≤ 0xFD) then
    .error (.trap s causePageNotPresent ea (some (xinfoOf 0 3 k)))
  else
    match ag.core.bind (fun c => if ag.stale then s.cached c ag.vi ag.asn va else none) with
    | some l =>
      if permits ag k l.word && (!k.writes || pteD l.word || s.leafWord ag.vi l.at_ = l.word) then s.useLeaf ag k ea va l
      else do
        let (l, s) ← s.freshLeaf { ag with stale := false } k ea root va
        s.useLeaf ag k ea va l
    | none => do
        let (l, s) ← s.freshLeaf ag k ea root va
        s.useLeaf ag k ea va l

end State

namespace SlabDesc
def v (d : SlabDesc) : Bool := d.w0.getLsbD 0
def pk (d : SlabDesc) : Bool := d.w0.getLsbD 1
def mv (d : SlabDesc) : Nat := bits d.w0 9 8
def sz (d : SlabDesc) : Nat := bits d.w0 15 10
def base (d : SlabDesc) : Nat := bits d.w0 55 16 * 2 ^ 16
def newbase (d : SlabDesc) : Nat := bits d.w1 55 16 * 2 ^ 16
def lenptr (d : SlabDesc) : Word := d.w2
def tokb (d : SlabDesc) : Nat := bits d.w3 47 32
def cursor (d : SlabDesc) : Nat := bits d.w3 21 0
end SlabDesc

/-- A region of 2^n bytes at a 56-bit base is canonical, does not wrap, and touches no address with bits [55:48] = 0xFE (R84). -/
def slabRegionOk (base n : Nat) : Bool :=
  let last := base + 2 ^ n - 1
  decide (last < 2 ^ 56) && decide (base / 2 ^ 55 = last / 2 ^ 55) && base / 2 ^ 48 ≠ 0xFE && last / 2 ^ 48 ≠ 0xFE
  && decide (¬ (base / 2 ^ 48 < 0xFE ∧ 0xFE < last / 2 ^ 48))

/-- Two ranges overlap. -/
def rangesMeet (a n b m : Nat) : Bool := decide (a < b + m) && decide (b < a + n)

/-- A 64-bit address is canonical: bits [63:56] all equal bit 55 (R13). -/
def canonical (a : Word) : Bool := bits a 63 56 = (if a.getLsbD 55 then 0xFF else 0)

/-- The canonical 64-bit address of 56 bits. -/
def fullVa (va : Nat) : Word := BitVec.ofNat 64 (if va / 2 ^ 55 % 2 = 1 then 0xFF00000000000000 + va % 2 ^ 56 else va % 2 ^ 56)

/-- A descriptor with V = 1 is malformed (R84). -/
def SlabDesc.malformed (d : SlabDesc) : Bool :=
  bits d.w0 63 56 ≠ 0 || bits d.w0 7 2 ≠ 0 || bits d.w1 63 56 ≠ 0 || bits d.w1 15 0 ≠ 0 || bits d.w3 63 48 ≠ 0
  || bits d.w3 31 22 ≠ 0 || decide (d.sz < 16) || decide (34 < d.sz) || d.mv = 3 || !slabRegionOk d.base d.sz
  || (d.mv ≠ 0 && (!slabRegionOk d.newbase d.sz || rangesMeet d.base (2 ^ (d.sz - 1)) d.newbase (2 ^ d.sz)))
  || d.lenptr.toNat % 8 ≠ 0 || bits d.lenptr 55 48 = 0xFE || d.tokb % 64 ≠ 0 || (d.tokb = 0 && d.lenptr ≠ 0)

/-- The target of an offset under a descriptor, with word 0 when it is settled; an error gives cause, level and reason (R85). -/
def SlabDesc.target (d : SlabDesc) (off : Nat) : Except (BitVec 6 × Nat × Nat) (Nat × Option Word) :=
  if !d.v then .error (causePageNotPresent, 3, 0)
  else if d.malformed then .error (causePageNotPresent, 3, 1)
  else if 2 ^ d.sz ≤ off then .error (causeSlabBound, 0, 0)
  else if d.mv = 0 then .ok (d.base + off, some d.w0)
  else if 2 ^ (d.sz - 1) ≤ off ∨ off / 4096 < d.cursor then .ok (d.newbase + off, none)
  else .ok (d.base + off, none)

/-- Word 0 of a descriptor of its fields (R83). -/
def slabWord0 (v pk : Bool) (mv sz base : Nat) : Word :=
  BitVec.ofNat 64 ((if v then 1 else 0) + (if pk then 2 else 0) + mv * 2 ^ 8 + sz * 2 ^ 10 + base % 2 ^ 56 / 2 ^ 16 * 2 ^ 16)

/-- The descriptor of a slab that moves, or is halted, as its engine keeps it (R86): `mv` is 1 or 2. -/
def Move.view (m : Move) (mv : Nat) : SlabDesc :=
  { w0 := slabWord0 true false mv m.sz m.base, w1 := BitVec.ofNat 64 (m.newbase % 2 ^ 56 / 2 ^ 16 * 2 ^ 16), w2 := m.lenptr
    w3 := BitVec.ofNat 64 (m.tokb * 2 ^ 32 + m.cursor % 2 ^ 22) }

/-- The descriptor that a finished move leaves (R87). -/
def Move.settled (m : Move) : SlabDesc :=
  { w0 := slabWord0 true false 0 m.sz m.newbase, w1 := 0, w2 := m.lenptr, w3 := BitVec.ofNat 64 (m.tokb * 2 ^ 32) }

namespace State

/-- The physical address of a slab descriptor. -/
def slabAt (s : State) (die vi asn id : Nat) : Option Nat :=
  match s.asEntry die vi asn with
  | .ok (_, tab, true) => hbmAddr (tab + 32 * id)
  | _ => none

/-- Reads a slab descriptor from its table, at its home or as a die sees it. -/
def readSlab (s : State) (die vi a : Nat) : SlabDesc :=
  let w := fun i => s.physWord die (s.key0 vi) (a + 8 * i)
  { w0 := w 0, w1 := w 1, w2 := w 2, w3 := w 3 }

/-- The move of a slab at its page engine, if one runs (R86). -/
def moveOf (s : State) (vi asn id : Nat) : Option (Nat × Move) :=
  s.dies.findSome? (fun d => (d.2.moves.find? (fun m => m.vi = vi && m.asn = asn && m.slab = id)).map (fun m => (d.1, m)))

/-- The descriptor at an address as a page engine keeps it: of a slab that moves, that a fault has halted, or that a park record holds
(R86, R87, R103). -/
def engineSlab (s : State) (vi a : Nat) : Option SlabDesc :=
  let at_ := fun (l : List Move) => l.find? (fun m => m.vi = vi && m.desc = a)
  (s.dies.findSome? (fun d => ((at_ d.2.moves).map (fun m => m.view 1)).orElse (fun _ => (at_ d.2.halted).map (fun m => m.view 2)))).orElse (fun _ =>
    s.recs.findSome? (fun e =>
      if e.2.vi = vi && !e.2.resumed then
        (e.2.slabs.zip e.2.descs).findSome? (fun x => if s.slabAt e.2.die vi e.2.asn x.1 = some a then some x.2 else none)
      else none))

/-- Translates a slab-space address to its target (R85); an error gives cause, level and reason, or none where the
chunk is held and the access waits (R89). An access that meets a descriptor that software has stored to, while its move runs or has halted
or a park record holds the slab, uses that value or the engine's (R86). -/
def slabTarget (s : State) (ag : Agent) (tab va : Nat) : Except (Option (BitVec 6 × Nat × Nat)) (Nat × Option Word) :=
  let id := va / 2 ^ 34 % 2 ^ 14
  let off := va % 2 ^ 34
  match hbmAddr (tab + 32 * id) with
  | none => .error (some (causePageNotPresent, 3, 3))
  | some a =>
    let stored := s.readSlab ag.die ag.vi a
    let cachedWord := ag.core.bind (fun c => if ag.stale then
      ((s.core c).tlb.find? (fun e => e.vi = ag.vi && e.asn = ag.asn && e.level = 4 && e.page = id)).map (fun e => e.leaf) else none)
    match s.moveOf ag.vi ag.asn id with
    | some (_, m) =>
      if ag.stale && stored ≠ m.view 1 then (stored.target off).mapError some
      else if m.held && off / 4096 = m.cursor && decide (off < 2 ^ (m.sz - 1)) then .error none
      else ((m.view 1).target off).mapError some
    | none =>
      match cachedWord with
      | some w =>
        if 2 ^ bits w 15 10 ≤ off then .error (some (causeSlabBound, 0, 0)) else .ok (bits w 55 16 * 2 ^ 16 + off, none)
      | none => (((if ag.stale then s.engineSlab ag.vi a else none).getD stored).target off).mapError some

/-- Keeps a settled slab descriptor in a core's TLB (R86); level 4 marks it. -/
def fillSlab (s : State) (ag : Agent) (id : Nat) (w : Option Word) : State :=
  match ag.core, w with
  | some c, some w =>
    let e : TlbEntry := { vi := ag.vi, asn := ag.asn, level := 4, page := id, leaf := w, at_ := 0 }
    let k := s.core c
    if k.tlb.contains e then s
    else s.setCore c { k with tlb := (e :: k.tlb.filter (fun x => x.level ≠ 4 || x.page ≠ id || x.asn ≠ ag.asn || x.vi ≠ ag.vi)).take 1024 }
  | _, _ => s

/-- The apertures (R440, R441, R451). `scalar` marks a scalar access. -/
def aperture (s : State) (ag : Agent) (k : Kind) (scalar : Bool) (ea : Word) (va : Nat) : Except Stop (Place × State) :=
  let absent : Except Stop (Place × State) := .error (.trap s causePageNotPresent ea (some (xinfoOf 0 0 k)))
  let denied : Except Stop (Place × State) := .error (.trap s causePageProt ea (some (xinfoOf 4 0 k)))
  match va / 2 ^ 48 with
  | 0xFD =>
    if bits ea 47 46 ≠ 0 then absent
    else match Tab.find (bits ea 45 38) (s.vi ag.vi).handles with
      | none => absent
      | some _ => if k = .write then .ok (.reduce (bits ea 45 38) (bits ea 37 30) (bits ea 29 20) (bits ea 19 0), s) else denied
  | 0xFC =>
    if bits ea 47 44 ≠ 0 || (Tab.find (bits ea 43 40) (s.vi ag.vi).windows).isNone then absent
    else match k with
      | .read => .ok (.pull (bits ea 43 40) (bits ea 39 0), s)
      | .write => .error (.trap s causeFabRemoteFault ea (some (xinfoOf 0 0 k)))
      | .atomic => .error (.trap s causeFabRemoteFault ea (some (xinfoOf 0 0 k)))
      | _ => denied
  | _ =>
    if 4096 ≤ bits ea 47 0 then absent
    else if k = .read && scalar then .ok (.caps (bits ea 47 0), s)
    else denied

/-- Translates a global effective address of `n` bytes after its alignment check (R13, R20 to R41, R440, R441, R451). -/
def translateGlobal (s : State) (ag : Agent) (k : Kind) (scalar : Bool) (ea : Word) : Except Stop (Place × State) :=
  if !canonical ea then .error (.trap s causeCanonical ea (some (xinfoOf 0 0 k)))
  else
    let va := ea.toNat % 2 ^ 56
    match s.asEntry ag.die ag.vi ag.asn with
    | .error r => .error (.trap s causePageNotPresent ea (some (xinfoOf r 3 k)))
    | .ok (root, tab, sl) =>
      if va / 2 ^ 48 = 0xFE then
        if !sl then .error (.trap s causePageNotPresent ea (some (xinfoOf 0 3 k)))
        else match s.slabTarget ag tab va with
          | .error none => .error (.wait s)
          | .error (some (c, lv, r)) => .error (.trap s c ea (some (xinfoOf r lv k)))
          | .ok (t, w) => (s.fillSlab ag (va / 2 ^ 34 % 2 ^ 14) w).translateVa ag k ea root (t % 2 ^ 56)
      else if decide (0xFB ≤ va / 2 ^ 48) && decide (va / 2 ^ 48 ≤ 0xFD) then s.aperture ag k scalar ea va
      else s.translateVa ag k ea root va

/-- A peer access may reach a core: it is not fenced, and a gang of the task's interface and fault domain holds it (R14). -/
def peerHeld (s : State) (vi region core : Nat) : Bool :=
  !(s.core core).fenced && match s.gangOn core with
    | some (_, g) => g.vi = vi && g.region = region
        || (g.vi = vi && match s.domain vi region, s.domain vi g.region with
              | some a, some b => a = b
              | _, _ => false)
    | none => false

end State

/-- The four spaces (R12). -/
def spaceGlobal : BitVec 2 := 0
def spaceLocal : BitVec 2 := 1
def spacePeer : BitVec 2 := 2
def spaceSync : BitVec 2 := 3

namespace State

/-- Checks an access of `n` bytes at an effective address of a space in the order of R35, and gives its place. `region` is
the accessing task's region; `cells` allows the sync space (R15). -/
def check (s : State) (ag : Agent) (region : Nat) (k : Kind) (scalar cells : Bool) (space : BitVec 2) (ea : Word) (n : Nat) :
    Except Stop (Place × State) :=
  let bad := fun (c : BitVec 6) => (.error (.trap s c ea (some (xinfoOf 0 0 k))) : Except Stop (Place × State))
  if space = spaceSync then
    let w := (s.vi ag.vi)
    if !cells then bad causeSpaceRange
    else if bits ea 63 14 ≠ 0 || decide (w.syncCount ≤ bits ea 11 0) then bad causeSyncRange
    else .ok (.here (.cell (bits ea 13 12) (w.syncFirst + bits ea 11 0)) 0, s)
  else if ea.toNat % n ≠ 0 then bad causeMisalign
  else if space = spaceGlobal then s.translateGlobal ag k scalar ea
  else if space = spaceLocal then
    if bits ea 63 22 ≠ 0 then bad causeSpaceRange
    else .ok (.here (.scratch (ag.core.getD 0) (bits ea 21 0)) 0, s)
  else
    if bits ea 63 28 ≠ 0 then bad causeSpaceRange
    else if !s.peerHeld ag.vi region (bits ea 27 22) then bad causePeerAbsent
    else .ok (.here (.scratch (bits ea 27 22) (bits ea 21 0)) 0, s)

end State

end Sys2Proof.Machine
end

