-- ==== Sys2Proof/Machine/Access.lean ====
section
/-! DEFINITION. Loads, stores, atomics, fetches and releases of a task's streams (R112 to R133, R155, R174 to R182, R302, R305). -/

namespace Sys2Proof

/-- A request that only reads: pre-emption and traps abandon it (R228, R240). -/
def FabricKind.reads : FabricKind → Bool
  | .load => true
  | .pull _ _ _ => true
  | _ => false

end Sys2Proof

namespace Sys2Proof.Machine

/-- The little-endian bytes of a word of `n` bytes. -/
def bytesOf (w : Word) (n : Nat) : List Byte := leBytes n w.toNat

/-- The word of some bytes. -/
def wordOf (bs : List Byte) : Word := BitVec.ofNat 64 (leNat bs)

namespace State

/-- The gang of a task. -/
def gangOfTask (s : State) (t : CThread) : Option Gang := s.gang? t.gang

/-- The address space a task runs in (R8). -/
def asnOf (s : State) (t : CThread) : Nat := (s.gangOfTask t).elim 0 (fun g => g.asn)

/-- The region of a task (R210). -/
def regionOf (s : State) (t : CThread) : Nat := (s.gangOfTask t).elim 0 (fun g => g.region)

/-- The agent that a thread's scalar accesses, or its vector accesses, are made by. -/
def agentOf (s : State) (tid : Nat) (vec : Bool) : Agent :=
  let t := s.thread tid
  { vi := t.vi, asn := s.asnOf t, sup := t.priv = .supervisor, die := tid / 64, core := some (tid / 4), uid := some t.uid
    waiter := if vec then waiterVector t.uid else waiterControl t.uid
    fabric := false, host := false, stale := s.stale }

/-- A die, or the hub as die 4, has power (R456). -/
def powered (s : State) (die : Nat) : Bool := die = 4 || s.platform.diesOn

/-- The capability list of a virtual interface by eight-byte word (R450; the order of the chain is log 12). -/
def capWord (s : State) (vi : Nat) (n : Nat) : Word :=
  let v := s.vi vi
  let fenced := (s.cores.filter (fun c => c.2.fenced)).length
  match n with
  | 0 => BitVec.ofNat 64 (24 * 2 ^ 24 + 0x10001)
  | 1 => BitVec.ofNat 64 (s.modnum % 1024 + (64 - fenced) * 2 ^ 16 + fenced * 2 ^ 24)
  | 2 => BitVec.ofNat 64 (s.nmod % 2048)
  | 3 => BitVec.ofNat 64 (56 * 2 ^ 24 + 0x10002)
  | 4 => v.hbmShare
  | 5 => v.cxlShare
  | 6 => v.flashShare
  | 7 => BitVec.ofNat 64 (80 * 2 ^ 24 + 0x10003)
  | 8 => v.tenant
  | 9 => BitVec.ofNat 64 (v.tag.toNat + (if v.session.isSome then 2 ^ 16 else 0) +
      (match v.tdisp with | .unlocked => 0 | .locked => 1 | .run => 2 | .error => 3) * 2 ^ 17)
  | 10 => BitVec.ofNat 64 0x10004
  | 11 => v.mbxbase
  | _ => 0

/-- A byte of the capability list. -/
def capByte (s : State) (vi off : Nat) : Byte := (bytesOf (s.capWord vi (off / 8)) 8).getD (off % 8) 0

end State

/-- A word of an interface's MSI-X table: entry `n / 2`, its address or its data with the mask in bit 32, which is set until software
clears it (R449; log 104). -/
def Vi.msixWord (x : Vi) (n : Nat) : Word := Tab.get (if n % 2 = 1 then BitVec.ofNat 64 (2 ^ 32) else 0) n x.msix

/-- A vector of an interface is masked. -/
def Vi.masked (x : Vi) (v : Nat) : Bool := (x.msixWord (2 * v + 1)).getLsbD 32

/-- A vector's message leaves. -/
def Vi.message (x : Vi) (v : Nat) : Vi :=
  { x with messages := x.messages ++ [(x.msixWord (2 * v), ((x.msixWord (2 * v + 1)).setWidth 32).setWidth 64)] }

/-- A vector is raised: its message leaves, or it is pending while it is masked (R448, R449). -/
def Vi.raise (x : Vi) (v : Nat) : Vi :=
  let x := { x with signalled := x.signalled ++ [v] }
  if x.masked v then { x with pba := x.pba.filter (· ≠ v) ++ [v] } else x.message v

/-- A write of a word of the MSI-X table: the message of a pending vector that it unmasks leaves (R449). -/
def Vi.putMsix (x : Vi) (n : Nat) (w : Word) : Vi :=
  let x := { x with msix := Tab.put n (if n % 2 = 1 then BitVec.ofNat 64 (bits w 32 0) else w) x.msix }
  let v := n / 2
  if x.pba.contains v && !x.masked v then ({ x with pba := x.pba.filter (· ≠ v) } : Vi).message v else x

namespace State

/-- A BAR0 register by its offset (R449): the capability list, the five registers, the MSI-X structures, and zero elsewhere. -/
def barWord (s : State) (vi off : Nat) : Word :=
  let x := s.vi vi
  if off < 0x1000 then s.capWord vi (off / 8)
  else if off = 0x1000 then x.start.result
  else if off = 0x1008 then BitVec.ofNat 64 x.stopcnt
  else if off = 0x1010 then BitVec.ofNat 64 x.refuse
  else if off = 0x1018 then x.hwbase
  else if off = 0x1020 then x.mbxbase
  else if 0x2000 ≤ off ∧ off < 0x2080 then x.msixWord ((off - 0x2000) / 8)
  else if off = 0x3000 then BitVec.ofNat 64 ((x.pba.map (fun v => 2 ^ v)).foldl (· + ·) 0)
  else 0

/-- A byte of BAR0. -/
def barByte (s : State) (vi off : Nat) : Byte := (bytesOf (s.barWord vi (off / 8 * 8)) 8).getD (off % 8) 0

/-- A load of `n` bytes from a location reads data that an uncorrectable error struck (R63, R75, R248). -/
def readsPoison (s : State) (die : Nat) (l : Loc) (n : Nat) : Bool :=
  s.poison ≠ [] && (List.range n).any (fun i => s.poisoned (l.plus i) 1 && (s.egressOver die (l.plus i)).isEmpty)

/-- The fabric timeout of an interface in microseconds (R180). -/
def timeoutOf (s : State) (vi : Nat) : Nat := if (s.vi vi).fabtmo = 0 then 2000 else (s.vi vi).fabtmo.toNat

/-- Sends a fabric request; its timer starts (R176, R181). -/
def sendRequest (s : State) (vi uid tid : Nat) (module : Nat) (kind : FabricKind) (elems : List FabricElem)
    (sys posted nested : Bool) (pc : Word) : Nat × State :=
  let (i, s) := s.freshId
  let tmo := s.timeoutOf vi
  let r : FabReq := { id := i, uid := uid, vi := vi, tid := tid, module := module, tag := (s.vi vi).tag, kind := kind, elems := elems, grant := none
                      sysScope := sys, posted := posted, nested := nested, pc := pc
                      deadline := (s.die (tid / 64)).ageclk + tmo, tmo := tmo, reply := none, expired := false, lost := false, left := false, looped := false }
  (i, s.setHub { s.hub with reqs := s.hub.reqs ++ [r] })

/-- A request is a contribution to the slot of a handle (R194). -/
def contributes (s : State) (i : Nat) (h : Handle) : State :=
  s.setHub { s.hub with reqs := s.hub.reqs.map (fun r => if r.id = i then { r with grant := some h } else r) }

/-- The request of an identity. -/
def request (s : State) (i : Nat) : Option FabReq := s.hub.reqs.find? (fun r => r.id = i)

/-- Drops a request; a reply that arrives later is discarded (R181). -/
def dropRequest (s : State) (i : Nat) : State := s.setHub { s.hub with reqs := s.hub.reqs.filter (fun r => r.id ≠ i) }

end State

/-- The cause of a refusal (R181). -/
def refusalCause : RefusedAs → BitVec 6
  | .remoteFault => causeFabRemoteFault
  | .perm => causeFabPerm

/-- KIND and REASON as the target reported them, LEVEL 0 (R182). -/
def fabricInfo (kind reason : Nat) : Word := BitVec.ofNat 64 (reason % 16 * 256 + kind % 8)

namespace State

/-- The result of the request a thread waits for: its value, the fabric cause, or a further wait (R181, R182). -/
def awaitReply (s : State) (tid i : Nat) (ea : Word) (k : Kind) : Except Stop (Word × State) :=
  let free := fun (s : State) => (s.dropRequest i).setThread tid { (s.thread tid) with wait := .none }
  match s.request i with
  | none => .error (.wait (s.setThread tid { (s.thread tid) with wait := .none }))
  | some r =>
    match r.reply with
    | some (.done vals) => .ok ((Tab.find 0 vals).getD 0, free s)
    | some (.refused _ c kind reason _) => .error (.trap (free s) (refusalCause c) ea (some (fabricInfo kind reason)))
    | none =>
      if r.expired then
        .error (.trap (free s) (if k = .atomic then causeFabAtomicLost else causeFabTimeout) ea (some (fabricInfo k.code 0)))
      else .error (.wait s)

/-- Sends a scalar request and waits for its reply (R176, R182). -/
def sendScalar (s : State) (tid module : Nat) (kind : FabricKind) (va n : Nat) (data cmp : Word) (sys : Bool) : Except Stop (Word × State) :=
  let t := s.thread tid
  let (i, s) := s.sendRequest t.vi t.uid tid module kind [{ idx := 0, va := fullVa va, n := n, data := data, cmp := cmp }] sys false t.nest t.pc
  .error (.wait (s.setThread tid { t with wait := .request i }))

/-- A store of a task takes effect, in its die's egress buffer or at its home (R114). -/
def taskStore (s : State) (tid : Nat) (p : PendStore) : State :=
  let t := s.thread tid
  s.storeFrom (tid / 64) (some t.uid) p.key p.loc p.data (if p.stream = 8 then none else some (tid, p.stream))
    (if p.stream = 8 then some (t.uid, p.ea, p.pc, p.nested) else none) t.vi

/-- Some issued stores of the scalar stream take effect in their order. -/
def scalarPart (s : State) (tid : Nat) (go : PendStore → Bool) : State :=
  let t := s.thread tid
  (t.pend.filter go).foldl (fun s p => s.taskStore tid p) (s.setThread tid { t with pend := t.pend.filter (fun p => !go p) })

/-- Every issued store of the scalar stream takes effect (R128). -/
def flushScalar (s : State) (tid : Nat) : State := s.scalarPart tid (fun _ => true)

/-- The issued scalar stores to this module take effect, as they must before a later access of the stream does (R120, R121). -/
def orderScalar (s : State) (tid : Nat) : State := s.scalarPart tid (fun p => p.loc.home ≠ 5)

/-- Some issued vector stores take effect in their order. -/
def vectorPart (s : State) (tid : Nat) (go : PendStore → Bool) : State :=
  let v := s.vthread tid
  (v.pend.filter go).foldl (fun s p => s.taskStore tid p) (s.setVthread tid { v with pend := v.pend.filter (fun p => !go p) })

/-- Every issued store of some vector streams takes effect (R120, R125). -/
def flushVector (s : State) (tid : Nat) (streams : Nat → Bool) : State := s.vectorPart tid (fun p => streams p.stream)

end State

/-- A VSBAR between two instructions names two streams (R124); the same stream needs none (R120). -/
def barred (bars : List (Nat × BitVec 8)) (a m b n : Nat) : Bool :=
  a = b || bars.any (fun x => decide (m ≤ x.1) && decide (x.1 < n) && x.2.getLsbD a && x.2.getLsbD b)

/-- The issued stores of a thread that must take effect before an access of a stream by instruction `n` does: those that R120 or a
VSBAR orders before it, and those before them; stores to other modules keep no such order (R121). -/
def storesBefore (bars : List (Nat × BitVec 8)) (stream n : Nat) : List PendStore → List PendStore
  | [] => []
  | p :: ps =>
    let later := storesBefore bars stream n ps
    if p.loc.home ≠ 5 && (barred bars p.stream p.insn stream n || later.any (fun q => barred bars p.stream p.insn q.stream q.insn)) then p :: later
    else later

/-- An issued store may take effect before another that was issued earlier: another stream, an element of the same vector
instruction (R122) or an access to another module (R121), and never of the same location but for elements of one VSTX.u (R362). -/
def mayPass (bars : List (Nat × BitVec 8)) (old new : PendStore) : Bool :=
  !barred bars old.stream old.insn new.stream new.insn
  || ((!old.loc.meets old.data.length new.loc new.data.length || (old.free && old.stream = new.stream && old.insn = new.insn))
      && ((new.stream ≠ 8 && old.stream = new.stream && old.insn = new.insn && old.step.isNone) || old.loc.home = 5 || new.loc.home = 5))

/-- Two issued stores take effect in one step: they belong to one block of a block floating-point store (R360). -/
def PendStore.oneStep (p q : PendStore) : Bool :=
  q = p || (p.step.isSome && q.step = p.step && q.stream = p.stream && q.insn = p.insn)

/-- The issued store at a place of a stream, with those of its step, when they may take effect next; else none (R120 to R124). -/
def mayDrain (bars : List (Nat × BitVec 8)) (ps : List PendStore) (stream k : Nat) : List PendStore :=
  match (ps.filter (fun p => p.stream = stream))[k]? with
  | none => []
  | some p =>
    let go := if p.step.isSome then ps.filter p.oneStep else [p]
    if (ps.takeWhile (fun o => !p.oneStep o)).all (fun o => go.all (fun q => mayPass bars o q)) then go else []

namespace State

/-- The issued stores that must take effect before a vector instruction, `n` beyond the oldest unfinished, accesses a stream do so
(R120, R124). -/
def orderVector (s : State) (tid stream n : Nat) : State :=
  let v := s.vthread tid
  let first := storesBefore v.bars stream (v.issued + n) v.pend
  s.vectorPart tid (fun p => first.contains p)

/-- One issued store of a stream takes effect, with those of its step, when its order allows it (R120 to R124, R360). -/
def drainOne (s : State) (tid stream k : Nat) : State :=
  if stream = 8 then
    let t := s.thread tid
    let go := mayDrain [] t.pend 8 k
    go.foldl (fun s p => s.taskStore tid p) (s.setThread tid { t with pend := go.foldl List.erase t.pend })
  else
    let v := s.vthread tid
    let go := mayDrain v.bars v.pend stream k
    go.foldl (fun s p => s.taskStore tid p) (s.setVthread tid { v with pend := go.foldl List.erase v.pend })

/-- Puts a store of the scalar stream into effect, or leaves it issued when the step defers it (R120, R123). -/
def scalarStore (s : State) (tid : Nat) (ea : Word) (l : Loc) (key : BitVec 256) (data : List Byte) : State :=
  let t := s.thread tid
  let p : PendStore := { stream := 8, insn := 0, ea := ea, loc := l, key := key, data := data, pc := t.pc, nested := t.nest, step := none, free := false }
  if s.defer then s.setThread tid { t with pend := t.pend ++ [p] } else s.taskStore tid p

/-- What a load ahead of a relaxed SYRD has bound is forgotten: something orders later loads behind it (R120, R130). -/
def forgetEarly (s : State) (tid : Nat) : State :=
  if (s.thread tid).early = none then s else s.setThread tid { s.thread tid with early := none }

/-- What a later load has bound stays in place past a load of the scalar stream, unless the two read a byte in common (R116). -/
def boundApart (s : State) (tid : Nat) (space : BitVec 2) (ea : Word) (n : Nat) : Option (BitVec 2 × Word × Nat × Word) → Bool
  | none => false
  | some (sp, a, m, _) =>
    let place := fun (sp : BitVec 2) (a : Word) (m : Nat) => s.check (s.agentOf tid false) (s.regionOf (s.thread tid)) .read true false sp a m
    match place space ea n, place sp a m with
    | .ok (.here l _, _), .ok (.here k _, _) => !l.meets n k m
    | _, _ => false

/-- A WFE leaves in place what a later load has bound ahead of it, other than its own word (R116, R130, R446; log 48). -/
def keepBound (s : State) (tid : Nat) (space : BitVec 2) (ea : Word) (bound : Option (BitVec 2 × Word × Nat × Word)) : State :=
  if s.boundApart tid space ea 8 bound then s.setThread tid { s.thread tid with early := bound } else s

/-- The value of `n` bytes that a load of a task binds (R114, R115, R148), with MACHINE_CHECK on struck data (R248). -/
def loadAt (s : State) (tid : Nat) (ea : Word) (l : Loc) (key : BitVec 256) (n : Nat) : Except Stop (Word × State) :=
  match l with
  | .cell d i => .ok (s.mirror (tid / 64) d i, s)
  | _ =>
    if s.readsPoison (tid / 64) l n then .error (.trap s causeMachineCheck ea none)
    else .ok (wordOf (s.loadBytes (tid / 64) key l n), s.observe (tid / 64) (s.thread tid).uid l n)

/-- A pull window of an interface (R200). -/
def window (s : State) (vi w : Nat) : PullWindow := (Tab.find w (s.vi vi).windows).getD { node := 0, members := [], op := 0, base := 0 }

/-- A scalar load of `n` bytes by a thread (R302). -/
def loadScalar (s : State) (tid : Nat) (cells : Bool) (space : BitVec 2) (ea : Word) (n : Nat) : Except Stop (Word × State) :=
  match (s.thread tid).wait with
  | .request i => s.awaitReply tid i ea .read
  | _ => do
    let bound := (s.thread tid).early
    let s := (s.orderScalar tid).forgetEarly tid
    let ag := s.agentOf tid false
    let (p, s) ← s.check ag (s.regionOf (s.thread tid)) .read true cells space ea n
    match p with
    | .here l key =>
      match (if s.stale then bound else none) with
      | some (sp, a, m, v) => if sp = space && a = ea && m = n then .ok (v, s) else s.loadAt tid ea l key n
      | none => s.loadAt tid ea l key n
    | .away m va =>
      let l := Loc.remote m (s.vi ag.vi).tag va
      let s := s.scalarPart tid (fun p => p.loc.meets p.data.length l n)
      if (List.range n).all (fun i => !(s.egressOver ag.die (l.plus i)).isEmpty) then s.loadAt tid ea l 0 n
      else if s.egressHolds ag.die l n then .error (.wait s)
      else s.sendScalar tid m .load va n 0 0 false
    | .pull w _ =>
      let x := s.window ag.vi w
      s.sendScalar tid x.node (.pull x.op x.members x.base) (ea.toNat % 2 ^ 56) n 0 0 false
    | .caps o => .ok (wordOf ((List.range n).map (fun i => s.capByte ag.vi (o + i))), s)
    | .reduce _ _ _ _ => .error (.wait s)

/-- The reduction handle of a number; one that is not listed names nothing (R192). -/
def handle (s : State) (vi n : Nat) : Handle := (Tab.find n (s.vi vi).handles).getD { id := 0, slot := 0, node := 0, op := 0, region := 0 }

/-- A contribution at an address under a handle, on its way to the handle's slot (R194). -/
def reduceLoc (s : State) (vi handle : Nat) (ea : Word) : Loc := .line (s.handle vi handle) (s.vi vi).tag (ea.toNat % 2 ^ 56)

/-- A scalar store of `n` bytes by a thread (R302, R194). -/
def storeScalar (s : State) (tid : Nat) (space : BitVec 2) (ea : Word) (n : Nat) (x : Word) (cells : Bool) : Except Stop State := do
  let s := (if s.defer then s else s.orderScalar tid).forgetEarly tid
  let ag := s.agentOf tid false
  let (p, s) ← s.check ag (s.regionOf (s.thread tid)) .write true cells space ea n
  match p with
  | .here l key => .ok (s.scalarStore tid ea l key (bytesOf x n))
  | .away m va =>
    let l := Loc.remote m (s.vi ag.vi).tag va
    .ok ((if s.defer then s else s.scalarPart tid (fun p => p.loc.meets p.data.length l n)).scalarStore tid ea l 0 (bytesOf x n))
  | .reduce h _ _ _ => .ok (s.scalarStore tid ea (s.reduceLoc ag.vi h ea) 0 (bytesOf x n))
  | .pull _ _ => .error (.wait s)
  | .caps _ => .error (.wait s)

end State

/-- An operand code that names a queue (R278). -/
def isQueue (c : BitVec 6) : Bool := decide (32 ≤ c.toNat) && decide (c.toNat ≤ 35)

/-- The queues that an instruction pops, in their order (R57). -/
def popQueues (f : VFields) : List Nat := ([f.sa, f.sb, f.sc].filter isQueue).map (fun c => c.toNat - 32)

/-- What a fetch gives (R17, R155): bytes, a fault, or a wait for a tier. -/
inductive Fetched where
  | word (w : Nat) (s : State)
  | fault (c : FetchFault) (s : State)
  | wait (s : State)
  deriving DecidableEq, Repr

/-- LEVEL and REASON of an XINFO word. -/
def infoLevel (x : Word) : Nat := bits x 5 4
def infoReason (x : Word) : Nat := bits x 11 8

namespace State

/-- A fetch cache with one more word: aligned 4-byte words by physical address, as many as `room` (R2, R155; log 87). -/
def cacheWord (room a w : Nat) (t : Tab Word) : Tab Word :=
  if t.length < room then Tab.put (a / 4) (BitVec.ofNat 64 w) t else [(a / 4, BitVec.ofNat 64 w)]

/-- A word that an IFLUSH has left to the block in execution, which was enqueued before it (R321). -/
def keptWord (s : State) (tid a : Nat) : Option Word :=
  let w := (s.vthread tid).work
  w.kept.findSome? (fun k => if w.run.any (fun r => decide ((k.1 - r.seq).toNat < 2 ^ 15)) then Tab.find (a / 4) k.2 else none)

/-- A word of the instruction cache, or of the vector block cache for a block, or of memory (R2, R155). -/
def fetchBytes (s : State) (tid : Nat) (block : Bool) (key : BitVec 256) (a : Nat) : Nat × State :=
  let c := s.core (tid / 4)
  let old := if block then (s.keptWord tid a).orElse (fun _ => Tab.find (a / 4) c.bcache) else Tab.find (a / 4) c.icache
  match (if s.stale then old else none) with
  | some w => (w.toNat, s)
  | none =>
    let w := leNat (s.loadBytes (tid / 64) key (.hbm a) 4)
    (w, s.setCore (tid / 4) (if block then { c with bcache := cacheWord 8192 a w c.bcache } else { c with icache := cacheWord 16384 a w c.icache }))

/-- A fetch from a page whose home has moved is forwarded to the new home, and waits for its words (R202, R203). -/
def fetchAway (s : State) (tid : Nat) (k : Kind) (module va n : Nat) : Fetched :=
  let t := s.thread tid
  let elems := (List.range n).map (fun i => ({ idx := 2 ^ 20 + i, va := fullVa (va + 4 * i), n := 4, data := 0, cmp := 0 } : FabricElem))
  match s.hub.reqs.find? (fun r => r.uid = t.uid && r.tid = tid && r.elems = elems) with
  | none => .wait (s.sendRequest t.vi t.uid tid module .load elems false false t.nest t.pc).2
  | some r => match r.reply with
    | some (.done vals) =>
      .word ((List.range n).foldl (fun w i => w + ((Tab.find (2 ^ 20 + i) vals).getD 0).toNat % 2 ^ 32 * 2 ^ (32 * i)) 0) (s.dropRequest r.id)
    | some (.refused _ c kind reason _) => .fault (.address (refusalCause c) (infoLevel (fabricInfo kind reason)) reason) (s.dropRequest r.id)
    | none => if r.expired then .fault (.address causeFabTimeout (infoLevel (fabricInfo k.code 0)) 0) (s.dropRequest r.id) else .wait s

/-- Fetches `n` words of 4 bytes at an aligned address for a thread (R16, R17, R155). -/
def fetch (s : State) (tid : Nat) (k : Kind) (addr : Word) (n : Nat) : Fetched :=
  let t := s.thread tid
  let ag : Agent := { s.agentOf tid false with waiter := waiterFetch t.uid }
  match s.check ag (s.regionOf t) k true false spaceGlobal addr (4 * n) with
  | .error (.trap s c _ x) => .fault (.address c (infoLevel (x.getD 0)) (infoReason (x.getD 0))) s
  | .error (.wait s) => .wait s
  | .ok (.here (.hbm a) key, s) =>
    if s.readsPoison ag.die (.hbm a) (4 * n) then .fault .machineCheck s
    else
      let r := (List.range n).foldl (fun (r : Nat × State) i =>
        let (w, s) := r.2.fetchBytes tid (k = .blockFetch) key (a + 4 * i)
        (r.1 + w * 2 ^ (32 * i), s)) (0, s)
      .word r.1 r.2
  | .ok (.away m va, s) => s.fetchAway tid k m va n
  | .ok (_, s) => .fault (.address causePageProt 0 4) s

/-- The instruction at a word of a block, with its word and literal. -/
def instrAt (s : State) (tid : Nat) (addr : Word) (w : Nat) : Option (Instr × Nat × Nat) :=
  let at_ := fun (w : Nat) => if 256 ≤ w then none else match s.fetch tid .blockFetch (addr + BitVec.ofNat 64 (8 * w)) 2 with
    | .word x _ => some x
    | _ => none
  match at_ w with
  | none => none
  | some x =>
    match (if x / 2 ^ 21 % 2 = 1 then at_ (w + 1) else some 0) with
    | none => none
    | some lit => match decodeVectorBytes (leBytes 8 x ++ leBytes 8 lit) with
      | .ok i => if i.wf then some (i, x, lit) else none
      | .error _ => none

/-- Some instruction of a block has a property, from a word on and before its VSTOP; one that cannot be fetched yet may have it. -/
def blockAny (s : State) (tid : Nat) (p : Instr → Bool) (addr : Word) (w : Nat) : Nat → Bool
  | 0 => true
  | n + 1 => match s.instrAt tid addr w with
    | none => true
    | some (.vstop _, _, _) => false
    | some (i, x, _) => p i || blockAny s tid p addr (w + (if x / 2 ^ 21 % 2 = 1 then 2 else 1)) n

end State

/-- What the pops of a thread's queues come to as its instructions go on: the groups delivered to each queue, and the bound queues. -/
structure PopState where
  groups : Tab Nat
  bound : List Nat
  deriving DecidableEq, Repr

/-- A pop of a queue: whether it fetches (R58, R368), and what it leaves. -/
def PopState.pop (h : PopState) (q : Nat) : Bool × PopState :=
  let n := Tab.get 0 q h.groups
  if n = 0 then (h.bound.contains q, h) else (false, { h with groups := Tab.put q (n - 1) h.groups })

/-- An instruction accesses memory: loads, stores, atomics, the bias load, or a pop that fetches (R371, R415); else what it leaves of the
queues, `popped` when it has made its pops. -/
def PopState.pass (h : PopState) (op : Nat) (f : VFields) (popped : Bool) : Option PopState :=
  if (decide (0x80 ≤ op) && decide (op ≤ 0x89)) || op = 0xB2 then none
  else if op = 0x8A then some { h with bound := f.queue :: h.bound }
  else (if popped then [] else popQueues f).foldl (fun r q => r.bind (fun h => let x := h.pop q; if x.1 then none else some x.2)) (some h)

namespace State

/-- The instructions of a block up to its VSTOP access no memory, and leave these queues; one that cannot be fetched yet may access it. -/
def blockPass (s : State) (tid : Nat) (addr : Word) (w : Nat) (popped : Bool) (h : PopState) : Nat → Option PopState
  | 0 => none
  | n + 1 => match s.instrAt tid addr w with
    | none => none
    | some (.vstop _, _, _) => some h
    | some (i, x, _) =>
      (i.vectorParts.bind (fun p => h.pass p.1 p.2 popped)).bind (fun h => blockPass s tid addr (w + (if x / 2 ^ 21 % 2 = 1 then 2 else 1)) false h n)

/-- The tiled products of a thread, running and held. -/
def wmacsOf (s : State) (tid : Nat) (i : Nat) : Option Wmacs :=
  ((s.core (tid / 4)).wmacs ++ (s.thread tid).heldS).find? (fun m => m.id = i)

/-- The entries of a queue access no memory. -/
def entriesPass (s : State) (tid : Nat) : PopState → List VcqEntry → Bool
  | _, [] => true
  | h, e :: es => match e.op with
    | .block a _ => (s.blockPass tid a 0 false h 256).any (fun h => entriesPass s tid h es)
    | .wmacs i => match s.wmacsOf tid i with
      | some m =>
        let runs := if m.drain = 0 then 0 else m.blocks.length - m.drained.length
        ((List.range runs).foldl (fun r _ => r.bind (fun h => s.blockPass tid m.drain 0 false h 256)) (some h)).any (fun h => entriesPass s tid h es)
      | none => entriesPass s tid h es
    | _ => entriesPass s tid h es

/-- Some vector work of a thread accesses no more memory. -/
def workPasses (s : State) (tid : Nat) (w : VectorWork) : Bool :=
  let v := s.vthread tid
  let h : PopState := { groups := v.queues.map (fun q => (q.1, q.2.length)), bound := v.binds.map (fun b => b.1) }
  match w.run with
  | none => s.entriesPass tid h w.vcq
  | some r => (s.blockPass tid r.addr r.word w.popped.isSome h 256).any
      (fun h => s.entriesPass tid h (if r.drain.isSome then w.vcq else w.vcq.drop 1))

/-- Every vector access of the instructions enqueued so far has been made: the work left accesses no memory (R125, R128, R316). -/
def accessesMade (s : State) (tid : Nat) : Bool :=
  let t := s.thread tid
  s.workPasses tid (s.vthread tid).work && (t.wh || t.behind.all (fun w => s.workPasses tid w))

/-- The vector work of a thread has executed: the VCQ is empty and no block runs (R314). In the handler
of a held WMU operation what waits for the operation does not count (R395; log 53). -/
def vectorQuiet (s : State) (tid : Nat) : Bool :=
  let w := (s.vthread tid).work
  let t := s.thread tid
  w.vcq.isEmpty && w.run.isNone && (t.wh || t.behind.isNone)

/-- Brings a release of a task to the point where it may take effect at a scope, or reports that it must wait (R128, R129). -/
def releaseReady (s : State) (tid : Nat) (scope : BitVec 3) : Except Stop State :=
  if !s.accessesMade tid then .error (.wait s)
  else
    let s := (s.flushScalar tid).flushVector tid (fun _ => true)
    if (decide (3 ≤ scope.toNat) && s.unperformed (s.thread tid).uid (scope = 4)) then .error (.wait s) else .ok s

end State

/-- An order annotation holds a release (R272). -/
def orderReleases (o : BitVec 2) : Bool := o = 2 || o = 3

/-- An order annotation holds an acquire (R272). -/
def orderAcquires (o : BitVec 2) : Bool := o = 1 || o = 3

/-- f(old, b) of an AMO minor on W-bit values, or none when nothing is written (R305). `W` is 32 or 64; `e` is CAS's expected value. -/
def amoResult (op : Nat) (bytes : Nat) (old b e : Word) : Option Word :=
  let w := 8 * bytes
  let m := fun (x : Word) => BitVec.ofNat 64 (x.toNat % 2 ^ w)
  let i := fun (x : Word) => (if bytes = 4 then (x.setWidth 32).toInt else x.toInt)
  let (o, v) := (m old, m b)
  match op with
  | 0 => some (m (o + v))
  | 1 => some (o &&& v)
  | 2 => some (o ||| v)
  | 3 => some (o ^^^ v)
  | 4 => some v
  | 5 => if o = m e then some v else none
  | 6 => some (if i v < i o then v else o)
  | 7 => some (if i o < i v then v else o)
  | 8 => some (if v.toNat < o.toNat then v else o)
  | _ => some (if o.toNat < v.toNat then v else o)

namespace State

/-- An atomic read-modify-write at the home of a location (R114): its old value; `f` gives the new one, if any. -/
def atomicAt (s : State) (die : Nat) (ea : Word) (l : Loc) (key : BitVec 256) (n : Nat) (f : Word → Option Word) : Except Stop (Word × State) :=
  if s.egressHolds die l n then .error (.wait s)
  else match l with
    | .cell d i =>
      let old := s.cell d i
      match f old with
      | some v => .ok (old, s.setCell d i v)
      | none => .ok (old, s)
    | _ =>
      if s.poison ≠ [] && s.poisoned l n then .error (.trap s causeMachineCheck ea none)
      else
        let old := wordOf ((List.range n).map (fun i => s.homeByte key (l.plus i)))
        match f old with
        | some v => .ok (old, s.perform key l (bytesOf v n) none)
        | none => .ok (old, s)

/-- An AMO of `n` bytes by a thread: the old value (R305, R306). -/
def amoScalar (s : State) (tid : Nat) (op : Nat) (space : BitVec 2) (ea : Word) (n : Nat) (b e : Word) (order : BitVec 2) (scope : BitVec 3) :
    Except Stop (Word × State) :=
  match (s.thread tid).wait with
  | .request i => s.awaitReply tid i ea .atomic
  | _ => do
    let s := (s.orderScalar tid).forgetEarly tid
    let ag := s.agentOf tid false
    let (p, s) ← s.check ag (s.regionOf (s.thread tid)) .atomic true false space ea n
    let s ← (if orderReleases order then s.releaseReady tid scope else .ok s)
    match p with
    | .here l key => s.atomicAt ag.die ea l key n (fun old => amoResult op n old b e)
    | .away m va =>
      let s := s.scalarPart tid (fun p => p.loc.meets p.data.length (.remote m (s.vi ag.vi).tag va) n)
      if s.egressHolds ag.die (.remote m (s.vi ag.vi).tag va) n then .error (.wait s)
      else s.sendScalar tid m (.amo op) va n b e (scope = 4)
    | _ => .error (.wait s)

/-- An atomic on a synchronisation cell by a thread, an access of the scalar stream: the old value (R119, R120, R147, R442). -/
def cellScalar (s : State) (tid : Nat) (ea : Word) (order : BitVec 2) (scope : BitVec 3) (f : Word → Option Word) : Except Stop (Word × State) := do
  let s := (s.orderScalar tid).forgetEarly tid
  let ag := s.agentOf tid false
  let (p, s) ← s.check ag (s.regionOf (s.thread tid)) .atomic true true spaceSync ea 8
  let s ← (if orderReleases order then s.releaseReady tid scope else .ok s)
  match p with
  | .here l key => s.atomicAt ag.die ea l key 8 f
  | _ => .error (.wait s)

end State

end Sys2Proof.Machine
end

