-- ==== Sys2Proof/Machine/WmuUnit.lean ====
section
/-! DEFINITION. The wide multiplier units (R65 to R70, R378 to R397): geometry, tiles, accumulators and one exact step. -/

namespace Sys2Proof.Machine

/-- Slot width, value width and the other fields of a geometry word (R379). -/
def slotWidth (code : Nat) : Nat := match code with | 0 => 16 | 1 => 24 | 2 => 32 | _ => 48
def geomW (g : Word) : Nat := slotWidth (bits g 63 62)
def geomV (g : Word) : Nat := if bits g 61 58 = 15 then 16 else bits g 61 58
def geomBase (g : Word) : Nat := bits g 57 44
def geomSa (g : Word) : Nat := bits g 43 36
def geomRa (g : Word) : Bool := g.getLsbD 35
def geomNa (g : Word) : Nat := bits g 34 28
def geomSb (g : Word) : Nat := bits g 27 20
def geomRb (g : Word) : Bool := g.getLsbD 19
def geomNb (g : Word) : Nat := bits g 18 12

/-- A geometry word is invalid (R380); `widen` for WCFG.w. -/
def geomInvalid (g : Word) (widen : Bool) : Bool :=
  let c := bits g 61 58
  !((decide (2 ≤ c) && decide (c ≤ 8)) || c = 15)
  || geomSa g = 0 || decide (128 < geomSa g) || geomSb g = 0 || decide (128 < geomSb g)
  || decide (geomW g < 2 * geomV g)
  || decide (16383 < geomBase g + geomSa g * geomNa g + geomSb g * geomNb g)
  || bits g 11 4 ≠ 0 || (!widen && bits g 3 0 ≠ 0)

/-- The value-width code of a slot status word (R67). -/
def widthCode (v : Nat) : Nat := if v = 16 then 15 else v

/-- A coefficient: sext of the low v bits of a lane (R378). -/
def coefficient (x : BitVec 16) (v : Nat) : Int := (x.toNat : Int) % 2 ^ v - (if x.toNat / 2 ^ (v - 1) % 2 = 1 then 2 ^ v else 0)

/-- posA and posB of a lane (R378); `n` is the lane count minus one. -/
def lanePos (stride : Nat) (rev : Bool) (n i : Nat) : Nat := stride * (if rev then n - i else i)

/-- The slots an operation reads; ASLOT and BSLOT may be one (R389). -/
def WmuOp.slots (o : WmuOp) : List Nat := if o.aslot = o.bslot then [o.aslot] else [o.aslot, o.bslot]

/-- The place of an operation in its task's order of acceptance: a block operation stands with its WMACS (R389, R390, R395). -/
def WmuOp.place (o : WmuOp) : Nat := match o.block with | some (m, _, _) => m | none => o.id

namespace State

/-- An operand slot and an accumulator of a core. -/
def slot (s : State) (core n : Nat) : Slot := Tab.get Slot.empty n (s.core core).slots
def setSlot (s : State) (core n : Nat) (x : Slot) : State :=
  s.setCore core { s.core core with slots := Tab.write Slot.empty n x (s.core core).slots }
def acc (s : State) (core n : Nat) : Acc := Tab.get Acc.empty n (s.core core).accs
def setAcc (s : State) (core n : Nat) (x : Acc) : State :=
  s.setCore core { s.core core with accs := Tab.write Acc.empty n x (s.core core).accs }

/-- A control thread owns a slot, or an accumulator (R69). -/
def ownsSlot (s : State) (tid n : Nat) : Bool :=
  decide (n < 64) && (s.slot (tid / 4) n).st ≠ .empty && (s.slot (tid / 4) n).own = tid % 4
def ownsAcc (s : State) (tid n : Nat) : Bool :=
  decide (n < 12) && (s.acc (tid / 4) n).st ≠ .empty && (s.acc (tid / 4) n).own = tid % 4

/-- The kilobyte-free form of R66: the widths of one WMU's accumulators, with accumulator `n` at width `w`, fit in 48 slots-widths. -/
def accFits (s : State) (core n w : Nat) : Bool :=
  let m := n / 3
  let used := ([3 * m, 3 * m + 1, 3 * m + 2].map (fun k =>
    if k = n then w else if (s.acc core k).st = .empty then 0 else (s.acc core k).w)).foldl (· + ·) 0
  decide (used ≤ 48)

/-- The live control thread of a task. -/
def tidOf (s : State) (uid : Nat) : Option Nat := (s.threads.find? (fun t => t.2.live && t.2.uid = uid)).map (fun t => t.1)

/-- An operation starts to read its slots, or has ended: each slot counts it once (R67, R69, R389). -/
def addReader (s : State) (core : Nat) (o : WmuOp) : State :=
  o.slots.foldl (fun s n => s.setSlot core n { s.slot core n with rdrs := (s.slot core n).rdrs + 1 }) s
def dropReader (s : State) (core : Nat) (o : WmuOp) : State :=
  o.slots.foldl (fun s n => s.setSlot core n { s.slot core n with rdrs := (s.slot core n).rdrs - 1 }) s

/-- Adds a pending held cause to a task (R240, R245), unless it holds one of the kind already from the same source. -/
def raiseHeld (s : State) (tid : Nat) (p : Pending) : State :=
  let t := s.thread tid
  if t.pending.contains p then s else s.setThread tid { t with pending := t.pending ++ [p] }

end State

/-- The products of one step, added slot by slot; also every slot a pair names (R381). -/
def stepSums (g : Word) (a b : Nat → BitVec 16) (slots : Tab Int) : Tab Int × List Nat :=
  let v := geomV g
  (upto (geomNa g + 1)).foldl (fun r i =>
    let c := coefficient (a i) v
    let p := geomBase g + lanePos (geomSa g) (geomRa g) (geomNa g) i
    (upto (geomNb g + 1)).foldl (fun (r : Tab Int × List Nat) j =>
      let t := p + lanePos (geomSb g) (geomRb g) (geomNb g) j
      (Tab.write 0 t (Tab.get 0 t r.1 + c * coefficient (b j) v) r.1, if r.2.contains t then r.2 else t :: r.2)) r)
    (slots, [])

/-- The lowest of the reached slots whose magnitude exceeds 2^(W−1) − 1 (R381). -/
def overflowing (w : Nat) (r : Tab Int × List Nat) : Option Nat :=
  (r.2.filter (fun t => decide ((2 : Int) ^ (w - 1) - 1 < (Tab.get 0 t r.1).natAbs))).foldl
    (fun m t => match m with | none => some t | some x => some (min x t)) none

/-- An operation may run its next step: neither it, nor one of its task accepted before it, nor another block operation of its
WMACS has been stopped (R395). -/
def opRuns (ops : List WmuOp) (o : WmuOp) : Bool :=
  ops.all (fun x => !(x.halted && x.uid = o.uid && decide (x.place ≤ o.place)))

/-- The accumulators of a job (R390, R391): ACC1 counts only with a drain block. -/
def jobAccs (drain : Word) (j : Nat × Nat) : List Nat := if drain = 0 then [j.1] else [j.1, j.2]

/-- The accumulator of the `t`th block operation of a job to start (R391). -/
def Wmacs.accAt (m : Wmacs) (j : Nat × Nat) (t : Nat) : Nat := if m.drain = 0 || t % 2 = 0 then j.1 else j.2

/-- The blocks of a tiled product that are not among those of a list, by job and accumulator: the started ones with the accumulator they
have taken, and the others with the one they will take (R391). -/
def Wmacs.left (m : Wmacs) (done : List (Nat × Nat × Nat)) : List (Nat × Nat) :=
  (((List.range m.jobs.length).zip m.jobs).map (fun j =>
    let mine := m.started.filter (fun x => x.1 = j.1)
    (mine.filter (fun x => !done.contains x)).map (fun x => (j.1, x.2.2))
      ++ ((List.range m.nkb).drop mine.length).map (fun t => (j.1, m.accAt j.2 t)))).flatten

/-- A tiled product has a block on an accumulator that has not ended, or a drain run to come for one (R391, R392). -/
def Wmacs.blocksOn (m : Wmacs) (acc : Nat) : Bool := (m.left m.ended).any (fun x => x.2 = acc)
def Wmacs.drainsOn (m : Wmacs) (acc : Nat) : Bool := m.drain ≠ 0 && (m.left m.drained).any (fun x => x.2 = acc)

/-- A tiled product has a block that names a slot and has not started. -/
def Wmacs.names (m : Wmacs) (slot : Nat) : Bool :=
  ((List.range m.blocks.length).zip m.blocks).any (fun b => (b.2.1 = slot || b.2.2 = slot)
    && !m.started.any (fun x => x.1 * m.nkb + x.2.1 = b.1))

/-- Block operations of an earlier tiled product of the task are still to run on the accumulator of an operation: its steps queue behind
them (R70). -/
def Wmacs.before (m : Wmacs) (o : WmuOp) : Bool := m.uid = o.uid && decide (m.id < o.place) && m.blocksOn o.acc

namespace State

/-- Ends an operation: its readers fall, its accumulator turns READY when it was the last, and a block operation is recorded (R69, R70, R391). -/
def endOp (s : State) (core : Nat) (o : WmuOp) : State :=
  let k := s.core core
  let ops := k.wops.filter (fun x => x.id ≠ o.id)
  let s := s.setCore core { k with wops := ops
                                   wmacs := k.wmacs.map (fun m => match o.block with
                                     | some (i, j, b) => if m.id = i then { m with ended := m.ended ++ [(j, b, o.acc)] } else m
                                     | none => m) }
  let s := s.dropReader core o
  if ops.any (fun x => x.acc = o.acc) then s else s.setAcc core o.acc { s.acc core o.acc with st := .ready }

/-- Runs one step of an operation by R381: adds it, or stops the operation with GUARD_OVF as a held trap. -/
def runStep (s : State) (core : Nat) (o : WmuOp) : State :=
  let step := o.k0 + o.done
  let lane := fun (n : Nat) (i : Nat) => Tab.get 0 (128 * step + i) (s.slot core n).data
  let x := s.acc core o.acc
  let r := stepSums o.geom (lane o.aslot) (lane o.bslot) x.slots
  let put := fun (s : State) (f : WmuOp → WmuOp) =>
    s.setCore core { s.core core with wops := (s.core core).wops.map (fun y => if y.id = o.id then f y else y) }
  match overflowing x.w r with
  | some t =>
    let s := put s (fun y => { y with halted := true })
    let s := s.setAcc core o.acc { x with st := .ready }
    match s.tidOf o.uid with
    | some tid => s.raiseHeld tid
        { kind := .wmu o.id, cause := causeGuardOvf, tval := BitVec.ofNat 64 t, tvaddr := o.pc, tseq := 0, tblk := 0, nested := o.nested, xinfo := none }
    | none => s
  | none =>
    let s := s.setAcc core o.acc { x with slots := r.1 }
    if o.done + 1 = o.cnt then s.endOp core o
    else put s (fun y => { y with done := y.done + 1 })

/-- The next operation of a WMU that may run a step, in acceptance order (R70, R389). -/
def nextOp (s : State) (core wmu : Nat) : Option WmuOp :=
  let k := s.core core
  k.wops.find? (fun o => o.acc / 3 = wmu && (s.acc core o.acc).st = .filling && opRuns k.wops o && !k.wmacs.any (fun m => m.before o))

/-- Runs an operation on to a number of its steps that is a multiple of 16, or to its end (R396). -/
def runToBoundary (s : State) (core id : Nat) : Nat → State
  | 0 => s
  | n + 1 =>
    match (s.core core).wops.find? (fun o => o.id = id) with
    | some o => if o.done % 16 = 0 || !opRuns (s.core core).wops o then s else runToBoundary (s.runStep core o) core id n
    | none => s

end State

/-- A tiled product has run every block operation, and every drain run when it has a drain block (R392). -/
def Wmacs.complete (m : Wmacs) : Bool :=
  decide (m.blocks.length ≤ m.ended.length) && (m.drain = 0 || decide (m.blocks.length ≤ m.drained.length))

/-- WSTEP for a held operation (R394). -/
def wstepOf (o : WmuOp) : Word :=
  match o.block with
  | some (_, j, b) => BitVec.ofNat 64 (2 ^ 31 + o.acc * 2 ^ 24 + b * 2 ^ 16 + j * 2 ^ 12 + o.done)
  | none => BitVec.ofNat 64 (o.acc * 2 ^ 24 + o.done)

/-- The digits of R397: slots 0 to n − 1 as unsigned digits and the carry into slot n. -/
def digits (w : Nat) (slots : Tab Int) : Nat → Tab Int × Int
  | 0 => ([], 0)
  | n + 1 =>
    let (d, x) := digits w slots n
    let v := Tab.get 0 n slots + x
    let r := v % 2 ^ w
    (Tab.write 0 n r d, (v - r) / 2 ^ w)

/-- The normal form of an accumulator (R397). -/
def normalForm (a : Acc) : Acc :=
  let (d, x) := digits a.w a.slots 16383
  { a with slots := Tab.write 0 16383 (Tab.get 0 16383 a.slots + x) d, normal := true }

end Sys2Proof.Machine
end

