-- ==== Sys2Proof/Machine/Ops.lean ====
section
/-! DEFINITION. The operations every meaning shares: taking a trap (R240 to R243, R245), returning from one (R244), discarding held work, register writes and the end of an instruction. -/

namespace Sys2Proof.Machine

/-- The privilege field of TSTATUS (R239). -/
def privCode : Privilege → BitVec 2
  | .task => 0
  | .supervisor => 1

namespace State

/-- A scalar register of a control thread (R269). -/
def reg (s : State) (tid : Nat) (r : Reg) : Word := (s.thread tid).reg r

/-- Writes a scalar register of a control thread (R269). -/
def setReg (s : State) (tid : Nat) (r : Reg) (v : Word) : State := s.setThread tid ((s.thread tid).setReg r v)

/-- An instruction retires: the next one stands at pc + 4 (R296). -/
def retire (s : State) (tid : Nat) : State := s.setThread tid (s.thread tid).advance

/-- An instruction retires and the next one stands elsewhere (R303, R304). -/
def retireTo (s : State) (tid : Nat) (pc : Word) : State :=
  s.setThread tid { (s.thread tid).advance with pc := pc }

/-- Asks for the stop of the fault domain of a task, with a reason (R234). -/
def askStop (s : State) (t : CThread) (reason : Nat) : State :=
  s.setHub { s.hub with stops := s.hub.stops ++ [(t.vi, s.regionOf t, reason)] }

/-- The wait of a thread is abandoned: a load it has sent and a split it has asked for are forgotten (R208, R228, R240). -/
def abandonWait (s : State) (tid : Nat) : State :=
  let k := s.core (tid / 4)
  let s := if k.pendSplit.any (fun p => p.2 = tid) then s.setCore (tid / 4) { k with pendSplit := none } else s
  let t := s.thread tid
  match t.wait with
  | .none => s
  | .request i => (s.dropRequest i).setThread tid { t with wait := .none }
  | .words _ (some i) => (s.dropRequest i).setThread tid { t with wait := .none }
  | _ => s.setThread tid { t with wait := .none }

/-- The trap registers that every entry writes (R241): TCAUSE, TVAL, TPC, RET, TSEQ, TBLK, TVADDR, PPRIV, NEST, XINFO, then
supervisor privilege at TVEC. -/
def enterTrap (t : CThread) (cause : BitVec 6) (tval : Word) (retired : Bool) (tseq : BitVec 16) (tblk : BitVec 8) (tvaddr : Word)
    (xinfo : Option Word) : CThread :=
  { t with tcause := cause, tval := tval, tpc := t.pc, ret := retired, tseq := tseq, tblk := tblk, tvaddr := tvaddr
           ppriv := privCode t.priv, nest := true, xinfo := xinfo.getD t.xinfo, priv := .supervisor, pc := t.tvec, wait := .none }

/-- Takes an instruction trap, or a retired trap after its instruction has advanced the pc (R240, R241, R249). -/
def takeTrap (s : State) (tid : Nat) (cause : BitVec 6) (tval : Word) (xinfo : Option Word) (retired : Bool) : State :=
  let s := s.abandonWait tid
  let t := s.thread tid
  if t.nest || t.tvec = 0 then s.askStop t 2
  else s.setThread tid (enterTrap t cause tval retired 0 0 0 xinfo)

end State

/-- The rank of a held cause in the order of R245. -/
def HeldKind.rank : HeldKind → Nat
  | .vector => 0
  | .wmu _ => 1
  | .fabricStore => 2
  | .watchdog => 3

/-- A pending held cause may be taken: it is a double fault, or NEST = 0 (R245). -/
def Pending.takeable (p : Pending) (t : CThread) : Bool := p.nested || !t.nest

/-- The first held cause to be taken at a boundary, if any (R245). A task that waits in PARK keeps every cause but one of its vector
work, which keeps its VCQ from draining, as a pending one (R103, R182). -/
def CThread.nextHeld (t : CThread) : Option Pending :=
  (t.pending.filter (fun p => p.takeable t && (t.parked.isNone || p.kind = .vector))).foldl (fun m p => match m with
    | none => some p
    | some q => if p.kind.rank < q.kind.rank then some p else some q) none

namespace State

/-- Accumulators with no operation left stand READY (R70). -/
def restAccs (s : State) (core : Nat) (accs : List Nat) : State :=
  accs.foldl (fun s a =>
    if (s.core core).wops.any (fun o => o.acc = a) || (s.acc core a).st ≠ .filling then s
    else s.setAcc core a { s.acc core a with st := .ready }) s

/-- Sets a stopped WMU operation aside with those accepted behind it and the rest of its WMACS, before any that were held already;
the causes that others of them have raised go with them, since they fault again when they resume (R243, R395). -/
def setWmuAside (s : State) (tid op : Nat) : State :=
  let core := tid / 4
  let t := s.thread tid
  match (s.core core).wops.find? (fun o => o.id = op) with
  | none => s
  | some f =>
    let k := s.core core
    let behind := fun (o : WmuOp) => o.uid = t.uid && decide (f.place ≤ o.place)
    let later := fun (m : Wmacs) => m.uid = t.uid && decide (f.place ≤ m.id)
    let held := f :: (k.wops.filter (fun o => behind o && o.id ≠ f.id))
    let again := fun (p : Pending) => held.any (fun o => p.kind = .wmu o.id)
    let s := s.setCore core { k with wops := k.wops.filter (fun o => !behind o), wmacs := k.wmacs.filter (fun m => !later m) }
    let s := s.setThread tid { t with heldW := held ++ t.heldW, heldS := k.wmacs.filter later ++ t.heldS, wstep := wstepOf f, wh := true
                                      pending := t.pending.filter (fun p => !again p) }
    s.restAccs core (held.map (fun o => o.acc))

/-- Sets the vector work aside and leaves the VCQ empty (R242); what later instructions have done by chaining counts as not done (R374). -/
def setVectorAside (s : State) (tid : Nat) : State :=
  let v := s.vthread tid
  (s.setVthread tid { v with work := VectorWork.idle, ahead := [] }).setThread tid
    { s.thread tid with heldV := some { v.work with faulted := false, early := [] }, vh := true }

/-- Vector work that waits for a held WMU operation makes way for what its handler has enqueued (R243, R395). -/
def makeWay (s : State) (tid : Nat) : State :=
  let t := s.thread tid
  let v := s.vthread tid
  let mine := v.work.vcq.filter (fun e => e.aside)
  if !t.wh || t.behind.isSome || v.work.vcq.head?.any (fun e => e.aside) || mine = [] then s
  else (s.setVthread tid { v with work := { VectorWork.idle with vcq := mine } }).setThread tid
    { t with behind := some { v.work with vcq := v.work.vcq.filter (fun e => !e.aside) } }

/-- The handler's vector work has ended, and what it went before goes on. -/
def comeBack (s : State) (tid : Nat) : State :=
  let t := s.thread tid
  let v := s.vthread tid
  match t.behind with
  | none => s
  | some w =>
    if t.heldV.isSome || v.work.run.isSome || v.work.vcq.head?.any (fun e => e.aside) then s
    else (s.setVthread tid { v with work := { w with vcq := w.vcq ++ v.work.vcq } }).setThread tid { t with behind := none }

/-- Takes a pending held cause (R240 to R243, R245, R249). -/
def takeHeld (s : State) (tid : Nat) (p : Pending) : State :=
  let s := s.abandonWait tid
  let t := s.thread tid
  let s := s.setThread tid { t with pending := t.pending.erase p }
  if p.nested || t.nest || t.tvec = 0 then s.askStop t 2
  else
    let s := match p.kind with
      | .vector => s.setVectorAside tid
      | .wmu op => s.setWmuAside tid op
      | _ => s
    s.setThread tid (enterTrap (s.thread tid) p.cause p.tval false p.tseq p.tblk p.tvaddr p.xinfo)

/-- The held vector work returns to the head of the VCQ (R244). -/
def returnVector (s : State) (tid : Nat) : State :=
  let t := s.thread tid
  match t.heldV with
  | none => s.setThread tid { t with vh := false }
  | some w => (s.setVthread tid { s.vthread tid with work := w }).setThread tid { t with heldV := none, vh := false }

/-- The held WMU operations resume, the stopped one first (R244, R395). -/
def returnWmu (s : State) (tid : Nat) : State :=
  let core := tid / 4
  let t := s.thread tid
  let k := s.core core
  let s := s.setCore core { k with wops := k.wops ++ t.heldW.map (fun o => { o with halted := false }), wmacs := k.wmacs ++ t.heldS }
  let s := t.heldW.foldl (fun s o => if (s.acc core o.acc).st = .ready then s.setAcc core o.acc { s.acc core o.acc with st := .filling } else s) s
  s.setThread tid { t with heldW := [], heldS := [], wstep := 0, wh := false }

/-- A WEXT that has been discarded has ended: its accumulator no longer drains (R70, R244). -/
def endDrains (s : State) (tid : Nat) : State :=
  let k := s.core (tid / 4)
  (k.accs.filter (fun a => a.2.own = tid % 4 && a.2.st = .draining)).foldl (fun s a =>
    s.setAcc (tid / 4) a.1 { a.2 with st := if k.wops.any (fun o => o.acc = a.1) then .filling else .ready }) s

/-- Discards the held vector work (R244); a tiled product whose entry goes starts no further block (log 16). -/
def discardVector (s : State) (tid : Nat) : State :=
  let s := s.endDrains tid
  let t := s.thread tid
  let gone := (t.heldV.elim [] (fun w => w.vcq)).filterMap (fun e => match e.op with | .wmacs i => some i | _ => none)
  let k := s.core (tid / 4)
  (s.setCore (tid / 4) { k with wmacs := k.wmacs.filter (fun m => !gone.contains m.id) }).setThread tid
    { t with heldV := none, vh := false, heldS := t.heldS.filter (fun m => !gone.contains m.id) }

/-- Discards the held WMU operations; their accumulators stay READY as they stand (R244). -/
def discardWmu (s : State) (tid : Nat) : State :=
  let core := tid / 4
  let t := s.thread tid
  let s := t.heldW.foldl (fun s o => s.dropReader core o) s
  s.setThread tid { t with heldW := [], heldS := [], wstep := 0, wh := false }

/-- Returns from a trap (R244): in supervisor privilege with a legal PPRIV, when the handler's vector work has ended. -/
def returnFromTrap (s : State) (tid : Nat) (word : Word) : Except Stop State :=
  let t := s.thread tid
  if t.priv = .task then .error (.trap s causePriv word none)
  else if t.ppriv ≠ 0 ∧ t.ppriv ≠ 1 then .error (.trap s causeIllegal word none)
  else if t.vh && !s.vectorQuiet tid then .error (.wait s)
  else
    let s := if t.vh then (s.flushScalar tid).returnVector tid else s
    let s := if t.wh then s.returnWmu tid else s
    let t := s.thread tid
    .ok (s.setThread tid { t with priv := if t.ppriv = 1 then .supervisor else .task, nest := false, pc := t.tpc, icount := t.icount + 1, wait := .none })

/-- The accesses of an interface that some cores have translated and that have neither performed nor ended: the stores in the egress
buffers of their dies, and the requests of their threads and copy engines (R37). -/
def inFlight (s : State) (vi : Nat) (cores : Nat → Bool) : List Nat :=
  let dies := (s.dies.filter (fun d => decide (d.1 < 4) && (List.range 16).any (fun k => cores (16 * d.1 + k)))).map (fun d => d.2)
  let stores := (dies.map (fun d => d.egress)).flatten.filter (fun e => e.vi = vi)
  let mine := fun (r : FabReq) => r.vi = vi && ((s.tidOf r.uid).any (fun x => cores (x / 4))
    || s.cores.any (fun c => cores c.1 && c.2.copyQ.any (fun x => x.id = r.uid)))
  stores.map (fun e => e.id) ++ (s.hub.reqs.filter (fun r => mine r && r.reply.isNone && !r.expired)).map (fun r => r.id)

/-- Some of a list of accesses has neither performed nor ended. -/
def stillOut (s : State) (ids : List Nat) : Bool :=
  s.dies.any (fun d => d.2.egress.any (fun e => ids.contains e.id))
    || s.hub.reqs.any (fun r => ids.contains r.id && r.reply.isNone && !r.expired)

/-- The issued stores of an interface's threads on some cores take effect. -/
def flushCores (s : State) (vi : Nat) (cores : Nat → Bool) : State :=
  let tids := (s.threads.filter (fun x => x.2.live && x.2.vi = vi && cores (x.1 / 4))).map (fun x => x.1)
  tids.foldl (fun s x => (s.flushScalar x).flushVector x (fun _ => true)) s

/-- Removes translations of an interface, and the table entries its walkers have cached, on some cores and their dies (R37). -/
def dropTranslations (s : State) (vi : Nat) (cores : Nat → Bool) (p : TlbEntry → Bool) : State :=
  (s.dropTlb cores (fun e => e.vi = vi && p e)).dropWalks (fun d => decide (d < 4) && (List.range 16).any (fun k => cores (16 * d + k)))
    (fun e => e.vi = vi && p e)

/-- Breaks every link a thread holds (R138). -/
def breakLinks (s : State) (tid : Nat) : State :=
  { s with links := s.links.filter (fun l => l.2.1 ≠ tid)
           cores := s.cores.map (fun c => (c.1, { c.2 with links := c.2.links.filter (fun l => l.2.1 ≠ tid) })) }

/-- Sets a core's split: every vector register, queue, binding and block argument is cleared, vector thread 0 keeps its CSRs,
and the others start anew (R50, R311). -/
def setSplit (s : State) (core n : Nat) : State :=
  let v0 := s.vthread (4 * core)
  let now := (s.core core).cycle
  let fresh : VThread := { VThread.fresh with idleFrom := now }
  let kept : VThread := { fresh with vl := v0.vl, vr := v0.vr, fill := v0.fill, rad := v0.rad, fstat := v0.fstat, fctl := v0.fctl, fidx := v0.fidx, ret := v0.ret }
  let s := [0, 1, 2, 3].foldl (fun (s : State) i => s.breakLinks (4 * core + i)) s
  let s := (s.setVthread (4 * core) kept).setCore core { s.core core with split := n, pendSplit := none }
  let s := [1, 2, 3].foldl (fun (s : State) i => (s.setVthread (4 * core + i) fresh).setThread (4 * core + i)
    { s.thread (4 * core + i) with pvl := 0, pvr := 0, pfill := 0, prad := 0, pfctl := 0 }) s
  { s with poison := s.poison.filter (fun p => match p with
      | .vectorRegister t _ => t / 4 ≠ core
      | _ => true) }

end State

end Sys2Proof.Machine
end

