-- ==== Sys2Proof/Machine/Park.lean ====
section
/-! DEFINITION. Areas that the D7 writes whole (R101, R216, R409) and park records at their page engine (R99 to R109). -/

namespace Sys2Proof.Machine

/-- The agent by which the D7 itself, or an engine command, reaches an address space. -/
def engineAgent (vi asn die waiter : Nat) (sup : Bool) : Agent :=
  { vi := vi, asn := asn, sup := sup, die := die, core := none, uid := none, waiter := waiter, fabric := false, host := false, stale := false }

namespace State

/-- The leaf that an address of an address space has, and the ordinary address it translates, without any effect. -/
def peekLeaf (s : State) (die vi asn va : Nat) : Option (Nat × Leaf) :=
  match s.asEntry die vi asn with
  | .error _ => none
  | .ok (root, tab, sl) =>
    let walk := fun (a : Nat) =>
      if decide (0xFB ≤ a / 2 ^ 48) && decide (a / 2 ^ 48 ≤ 0xFD) then none
      else match s.walkFrom die (s.key0 vi) (fun _ => none) a 4 root with
        | .ok l => some (a, l)
        | .error _ => none
    if va / 2 ^ 48 = 0xFE then
      if !sl then none
      else match s.slabTarget (engineAgent vi asn die 0 true) tab va with
        | .ok (t, _) => walk (t % 2 ^ 56)
        | .error _ => none
    else walk (va % 2 ^ 56)

/-- One piece of an area: an interleaved HBM address and the key of its page, on a page with RD = WR = PIN = 1, TIER = 00 and
FR = 0 whose key slot is loaded. -/
def areaPiece (s : State) (die vi asn va : Nat) : Option (Nat × BitVec 256) :=
  if !canonical (fullVa va) || decide (0xFB ≤ va / 2 ^ 48 ∧ va / 2 ^ 48 ≤ 0xFD) then none
  else match s.peekLeaf die vi asn va with
    | none => none
    | some (a, l) =>
      if pteRd l.word && pteWr l.word && ptePin l.word && pteTier l.word = 0 && !pteFr l.word then
        match Tab.find (pteSkey l.word) (s.vi vi).keys, hbmAddr (pteFrame l.word + a % 2 ^ pageBits l.level) with
        | some k, some x => some (x, k)
        | _, _ => none
      else none

/-- The pieces of an area, none across a 16 KiB boundary: address, key, length and offset. -/
def areaPieces (s : State) (die vi asn : Nat) : Nat → Nat → Nat → Nat → Option (List (Nat × BitVec 256 × Nat × Nat))
  | _, 0, _, _ => some []
  | 0, _ + 1, _, _ => none
  | f + 1, n + 1, va, off =>
    let m := min (n + 1) (2 ^ 14 - va % 2 ^ 14)
    match s.areaPiece die vi asn (va % 2 ^ 56) with
    | none => none
    | some (x, k) => (areaPieces s die vi asn f (n + 1 - m) (va + m) (off + m)).map (fun l => (x, k, m, off) :: l)

/-- The pieces of a context, save or spill area of `n` bytes. -/
def area (s : State) (die vi asn va n : Nat) : Option (List (Nat × BitVec 256 × Nat × Nat)) :=
  s.areaPieces die vi asn (n / 2 ^ 14 + 2) n va 0

/-- The home of some page of an area moves, so that the D7 has yet to write or read it (R202; log 102). -/
def areaMoves (s : State) (die vi asn va n : Nat) : Bool :=
  s.hub.handovers.any (fun h => h.st ≠ .retired && (List.range (n / 2 ^ 14 + 2)).any (fun i =>
    match s.peekLeaf die vi asn ((va + min (2 ^ 14 * i) (n - 1)) % 2 ^ 56) with
    | some (a, l) => !pteFr l.word && pteTier l.word = 0
        && ((hbmAddr (pteFrame l.word + a % 2 ^ pageBits l.level)).bind (frameOffset h.frame)).isSome
    | none => false))

end State

/-- The parts of veils outside a range. -/
def unveilRange (a n : Nat) (vs : List Veil) : List Veil :=
  (vs.map (fun v =>
    if rangesMeet v.base v.len a n then
      (if v.base < a then [{ v with len := a - v.base }] else [])
        ++ (if a + n < v.base + v.len then [{ v with base := a + n, len := v.base + v.len - (a + n), off := v.off + (a + n - v.base) }] else [])
    else [v])).flatten

namespace State

/-- Writes one piece of an area whole with contents that are not architectural (log 4): every line is sealed with the key,
loses its poison and breaks its link. -/
def cover (s : State) (seed : Nat) (p : Nat × BitVec 256 × Nat × Nat) : State :=
  let (a, k, n, off) := p
  let within := fun (line : Nat) => decide (a ≤ line * 64) && decide (line * 64 + 64 ≤ a + n)
  { s with
    hbm := s.hbm.filter (fun c => !(decide (a ≤ c.1) && decide (c.1 < a + n)))
    veils := { base := a, len := n, seed := seed, off := off } :: unveilRange a n s.veils
    seals := (List.range (n / 64)).foldl (fun t i => Tab.put (a / 64 + i) k t) s.seals
    links := s.links.filter (fun l => !within l.1)
    poison := s.poison.filter (fun x => match x with | .hbmLine l => !within l | _ => true)
    mended := s.mended.filter (fun x => match x.1 with | .hbmLine l => !within l | _ => true) }

/-- Sets A and D of the leaf that an address has (R27). -/
def markDirty (s : State) (die vi asn va : Nat) : State :=
  match s.peekLeaf die vi asn va with
  | none => s
  | some (_, l) => ((s.setLeafBits die vi l 0xC0).map (fun r => r.2)).getD s

/-- Writes an area whole under a seed, behind the stores to it that the die has buffered (R115); none when an access to it faults (R232). -/
def writeArea (s : State) (die vi asn va n seed : Nat) : Option State :=
  (s.area die vi asn va n).map (fun ps => ps.foldl (fun s p =>
    ((s.markDirty die vi asn ((va + p.2.2.2) % 2 ^ 56)).awaitEgress die (.hbm p.1) p.2.2.1).cover seed p) s)

/-- A piece of an area stands as the D7 wrote it. -/
def pieceIntact (s : State) (seed : Nat) (p : Nat × BitVec 256 × Nat × Nat) : Bool :=
  let (a, k, n, off) := p
  s.veils.any (fun v => v.seed = seed && decide (v.base ≤ a) && decide (a + n ≤ v.base + v.len) && v.off + (a - v.base) = off)
    && (List.range (n / 64)).all (fun i => Tab.find (a / 64 + i) s.seals = some k && !s.poison.contains (.hbmLine (a / 64 + i)))

/-- An area reads as the D7 wrote it under a seed. -/
def areaIntact (s : State) (die vi asn va n seed : Nat) : Bool :=
  match s.area die vi asn va n with
  | none => false
  | some ps => ps.all (s.pieceIntact seed)

end State

/-- The bytes of a task's context: Z of R216 and the context area of R101. -/
def contextBytes (split : Nat) : Nat := 4096 + 327680 / split

/-- The STATE code of a park record (R101). -/
def ParkState.code : ParkState → Nat
  | .saving => 1
  | .parked => 2
  | .promoting => 3
  | .runnable => 4
  | .failed => 5

namespace State

/-- CTXMAC of a record is written at its home, behind the stores to it that the die has buffered (R101, R115, R144). -/
def putCode (s : State) (r : ParkRec) : State :=
  (s.awaitEgress r.die (.hbm (r.at_ + 0x80)) 48).perform r.key (.hbm (r.at_ + 0x80)) ((List.range 48).map (fun i => Config.ctxMac r.seed i)) none

/-- A park record, when its page engine keeps it. -/
def rec? (s : State) (r : Nat) : Option ParkRec := Tab.find r s.recs

/-- A word of a record's header as its page engine loads it (R115). -/
def recWord (s : State) (r : ParkRec) (off : Nat) : Word := s.physWord r.die r.key (r.at_ + off)

/-- Writes a word of a record's header at its home by an atomic of its page engine (R101, R115). -/
def recPut (s : State) (r : ParkRec) (off : Nat) (w : Nat) : State := s.homeRewrite r.die r.key (r.at_ + off) (BitVec.ofNat 64 w)

/-- Writes the control word of a record with a STATE code (R101, R103). -/
def putState (s : State) (r : ParkRec) (code : Nat) : State :=
  s.recPut r 0 (r.slabs.length * 16 + (if r.hk then 8 else 0) + code)

/-- Moves a record to another state, in the engine and in memory (R103). -/
def setRecState (s : State) (n : Nat) (st : ParkState) : State :=
  match s.rec? n with
  | none => s
  | some r => (s.setRec n { r with st := st }).putState r st.code

/-- Writes the counters of a record (R101). -/
def putCounters (s : State) (n : Nat) : State :=
  match s.rec? n with
  | none => s
  | some r =>
    ((s.recPut r 0x28 (r.demoted % 2 ^ 32 + 2 ^ 32 * (r.discarded % 2 ^ 32))).recPut r 0x30
      (r.promoted % 2 ^ 32 + 2 ^ 32 * (r.failed % 2 ^ 32))).recPut r 0x38 r.firstFail.toNat

/-- A slab descriptor as a page engine takes it: its own of a slab that moves, has halted or is parked (R86), else as it stands at its
home, behind the stores that the die has buffered (R115, R144). -/
def homeSlab (s : State) (die vi a : Nat) : SlabDesc :=
  (s.engineSlab vi a).getD ((s.awaitEgress die (.hbm a) 32).readSlab die vi a)

/-- The page engine of a die writes a descriptor whole, whatever software has stored to it (R86, R144). -/
def putSlab (s : State) (die vi a : Nat) (d : SlabDesc) : State :=
  let k := s.key0 vi
  (((s.homeRewrite die k a d.w0).homeRewrite die k (a + 8) d.w1).homeRewrite die k (a + 16) d.w2).homeRewrite die k (a + 24) d.w3

/-- Writes the descriptors of the slabs a record names, as its page engine keeps them, with PK set or clear (R86, R103). -/
def setPk (s : State) (r : ParkRec) (pk : Bool) : State :=
  (r.slabs.zip r.descs).foldl (fun s x =>
    match s.slabAt r.die r.vi r.asn x.1 with
    | none => s
    | some a => s.putSlab r.die r.vi a { x.2 with w0 := if pk then x.2.w0 ||| 2 else x.2.w0 &&& ~~~2#64 }) s

/-- Some promotion of a record's stages is in flight (R106). -/
def stagesRun (s : State) (n : Nat) (hotOnly : Bool) : Bool :=
  s.dies.any (fun d => d.2.promos.any (fun p => p.rec_ = some n && (p.hot || !hotOnly)))

/-- The page engine forgets a record whose task has resumed and whose second stage has ended (R102). -/
def sweepRecs (s : State) : State :=
  { s with recs := s.recs.filter (fun e => !(e.2.resumed && !s.stagesRun e.1 false)) }

/-- A leaf outside HBM that a stage of R106 promotes; a discarded page is promoted only in the hot window. -/
def stageLeaf (s : State) (r : ParkRec) (hot : Bool) (va : Nat) : Option Leaf :=
  match s.peekLeaf r.die r.vi r.asn va with
  | some (_, l) => if pteTier l.word ≠ 0 && !pteFr l.word && (hot || bits l.word 55 16 ≠ 0) then some l else none
  | none => none

/-- Counts a failed stage promotion in a record and keeps the first (R103, R108). -/
def countFailure (s : State) (n : Nat) (va reason : Nat) (hot : Bool) : State :=
  match s.rec? n with
  | none => s
  | some r =>
    let sva := ((r.pages.find? (fun p => p.2 = va)).map (fun p => p.1)).getD va
    let r := { r with failed := r.failed + 1, hotFailed := r.hotFailed || hot
                      firstFail := if r.failed = 0 then fullVa sva else r.firstFail
                      failReason := if r.failed = 0 then reason else r.failReason }
    (s.setRec n r).putCounters n

/-- Issues the promotion of one page of a stage, or joins it to one that an access began (R106, R107). -/
def issueStage (s : State) (n : Nat) (hot : Bool) (va : Nat) : State :=
  match s.rec? n with
  | none => s
  | some r =>
    match s.stageLeaf r hot va with
    | none => s
    | some l =>
      match s.promoOf r.vi l.at_ with
      | some (d, p) =>
        let x := s.die d
        s.setDie d { x with promos := x.promos.map (fun q => if q = p then { p with rec_ := some n, hot := hot } else q) }
      | none =>
        let s := s.startPromo r.die r.vi r.asn va l.at_ l.word (some n) hot []
        if (s.promoOf r.vi l.at_).isSome then s else s.countFailure n va 6 hot

/-- One page from each slab in turn, `n` times (R106). -/
def inTurn : Nat → List (List (Nat × Nat)) → List (Nat × Nat)
  | 0, _ => []
  | n + 1, ls => ls.filterMap (fun l => l.head?) ++ inTurn n (ls.map (fun l => l.drop 1))

/-- The pages that a stage promotes in its order: of the pages not in HBM, one from each slab in turn (R106). -/
def stagePages (s : State) (r : ParkRec) (hot : Bool) (ls : List (List (Nat × Nat))) : List Nat :=
  let ls := ls.map (fun l => l.filter (fun p => (s.stageLeaf r hot p.2).isSome))
  (inTurn ((ls.map (fun l => l.length)).foldl Nat.max 0) ls).map (fun p => p.2)

/-- A woken record enters PROMOTING: its demotions are aborted and both stages are issued (R103, R106). -/
def promoteRec (s : State) (n : Nat) : State :=
  match s.rec? n with
  | none => s
  | some r =>
    let mine := fun (e : Demo) => e.vi = r.vi && e.asn = r.asn && r.pages.any (fun p => p.2 = e.va)
    let s := (s.dies.map (fun d => (d.2.demos.filter mine).map (fun e => (d.1, e)))).flatten.foldl (fun s e => (s.abortDemo e.1 e.2).getD s) s
    let s := s.setRecState n .promoting
    let s := (s.stagePages r true r.hot).foldl (fun s va => s.issueStage n true va) s
    (s.stagePages r false r.rest).foldl (fun s va => s.issueStage n false va) s

/-- Every PARKED record that a wake write has met enters PROMOTING (R103, R104). -/
def wakeRecs (s : State) : State :=
  s.recs.foldl (fun s e =>
    match s.rec? e.1 with
    | some r => if r.st = .parked && r.woken then s.promoteRec e.1 else s
    | none => s) s

end State

end Sys2Proof.Machine
end

