-- ==== Sys2Proof/Machine/ReduceUnit.lean ====
section
/-! DEFINITION. The reduction slots of this module's hub (R192 to R199): allocation, contributions, the ordered sum and the completion of a round. -/

namespace Sys2Proof.Machine

/-- What a REDALLOC asks a node for (R192), with the interface and region that ask when they are this module's own. -/
structure SlotAsk where
  op : Nat
  m : Nat
  len : Nat
  members : List Nat
  result : Word
  notify : Word
  tag : BitVec 16
  vi : Nat
  region : Nat
  src : Nat
  deriving DecidableEq, Repr

/-- The reservation of a slot in bytes (R192). -/
def reservation (op m len : Nat) : Nat := len * (if op = 5 then m else 1) + (m * len / 64 + 511) / 512 * 64

/-- Element by element, the sum of R193 in binary32, a NaN being 0x7FC0_0000 (R196). -/
def sumF32 (a b : Elem) : Elem :=
  let r := (addFl false .rne (readFloat false a) (readFloat false b)).1
  if isNan32 r then 0x7FC00000 else r

/-- An operation of R193 on one element of two words. -/
def reduceWord (op : Nat) (a b : Word) : Word :=
  let halves := fun (f : Elem → Elem → Elem) =>
    (f (a.setWidth 32) (b.setWidth 32)).setWidth 64 ||| ((f ((a >>> 32).setWidth 32) ((b >>> 32).setWidth 32)).setWidth 64 <<< 32)
  match op with
  | 0 => halves (fun x y => x + y)
  | 1 => a + b
  | 2 => halves (fun x y => if y.toInt < x.toInt then y else x)
  | 3 => halves (fun x y => if x.toInt < y.toInt then y else x)
  | 4 => a ^^^ b
  | _ => halves sumF32

/-- An operation on two 64-byte lines. -/
def reduceLine (op : Nat) (a b : List Byte) : List Byte :=
  ((List.range 8).map (fun i => bytesOf (reduceWord op (wordOf ((a.drop (8 * i)).take 8)) (wordOf ((b.drop (8 * i)).take 8))) 8)).flatten

/-- The identity of a reduction operation, by eight bytes (R194). -/
def redIdentity (op : Nat) : List Byte :=
  if op = 2 then leBytes 8 0x7FFFFFFF7FFFFFFF
  else if op = 3 ∨ op = 5 then leBytes 8 0x8000000080000000
  else leBytes 8 0

/-- A line at the identity (R194, R197). -/
def identityLine (op : Nat) : List Byte := ((List.range 8).map (fun _ => redIdentity op)).flatten

/-- Lines of FP32 in member order (R196). -/
def sumLines : List (List Byte) → List Byte
  | [] => []
  | l :: ls => ls.foldl (fun s x => reduceLine 5 s x) l

namespace RedSlot

/-- The key of a member's buffered line. -/
def lineKey (m k : Nat) : Nat := m * 2 ^ 14 + k

/-- The reduced bytes of a whole round (R196, R197). -/
def bytes (x : RedSlot) : List Byte :=
  ((List.range (x.len / 64)).map (fun k =>
    if x.op = 5 then sumLines ((List.range x.m).map (fun m => Tab.get (identityLine 5) (lineKey m k) x.buffer))
    else Tab.get (identityLine x.op) k x.lines)).flatten

/-- Every bit of the arrival bitmap is set (R195). -/
def full (x : RedSlot) : Bool := x.bitmap.length = x.m * (x.len / 64)

end RedSlot

/-- What the node does with an arriving line (R195). -/
inductive LineFate where
  | refused
  | discarded
  | accepted
  deriving DecidableEq, Repr

/-- A line of generation `g` and member `m` at a slot (R195): its fate, and the slot after it. -/
def RedSlot.arrive (x : RedSlot) (g m k : Nat) (line : List Byte) : LineFate × RedSlot :=
  if x.m ≤ m ∨ x.len ≤ 64 * k then (.refused, x)
  else if g = (x.c + 255) % 256 then (.discarded, { x with dup := x.dup + 1 })
  else if g ≠ x.c % 256 then (.refused, x)
  else if x.bitmap.contains (m, k) then (.discarded, { x with dup := x.dup + 1 })
  else
    let x := { x with bitmap := x.bitmap ++ [(m, k)], st := .collecting }
    (.accepted, if x.op = 5 then { x with buffer := Tab.put (RedSlot.lineKey m k) line x.buffer }
                else { x with lines := Tab.put k (reduceLine x.op (Tab.get (identityLine x.op) k x.lines) line) x.lines })

namespace State

/-- A hub's slots use this much of its switch memory (R192). -/
def slotMemory (s : State) : Nat := (s.hub.slots.map (fun r => reservation r.2.op r.2.m r.2.len)).foldl (· + ·) 0

/-- The allocation arbiter grants a FREE slot, or none (R192, R198). -/
def allocSlot (s : State) (a : SlotAsk) : Option (Nat × State) :=
  match (List.range 256).find? (fun n => (Tab.find n s.hub.slots).isNone) with
  | none => none
  | some n =>
    if 2 ^ 25 < s.slotMemory + reservation a.op a.m a.len then none
    else
      let (id, s) := s.freshId
      let r : RedSlot := { id := id, st := .opened, m := a.m, op := a.op, len := a.len, members := a.members, result := a.result, notify := a.notify, tag := a.tag
                           vi := a.vi, region := a.region, c := 0, dup := 0, bitmap := [], lines := [], buffer := [], src := a.src, sent := [] }
      some (n, s.setHub { s.hub with slots := Tab.put n r s.hub.slots })

/-- Frees a slot for the interface that allocated it; none while a line of the round has been accepted (R198, R199). -/
def freeSlot (s : State) (n src : Nat) (tag : BitVec 16) (forced : Bool) : Option State :=
  match Tab.find n s.hub.slots with
  | none => some s
  | some r =>
    if r.src ≠ src || r.tag ≠ tag then some s
    else if r.st = .opened || forced then some (s.setHub { s.hub with slots := Tab.del n s.hub.slots })
    else none

/-- A request that the hub itself sends under a tag, with the timeout of an interface that has written no FABTMO (R180; log 100). -/
def sendHub (s : State) (tag : BitVec 16) (module : Nat) (kind : FabricKind) (elems : List FabricElem) : Nat × State :=
  let (u, s) := s.freshId
  let (i, s) := s.sendRequest 64 u 256 module kind elems true true false 0
  (i, s.setHub { s.hub with reqs := s.hub.reqs.map (fun r => if r.id = i then { r with tag := tag } else r) })

/-- A full round sends its result to every member (R197). -/
def completeRound (s : State) (n : Nat) (r : RedSlot) : State :=
  let bytes := r.bytes
  let elems := (List.range (r.len / 8)).map (fun i =>
    ({ idx := i, va := r.result + BitVec.ofNat 64 (8 * i), n := 8, data := wordOf ((bytes.drop (8 * i)).take 8), cmp := 0 } : FabricElem))
  let (ids, s) := r.members.foldl (fun (a : List Nat × State) m =>
    let (i, s) := a.2.sendHub r.tag m .store elems
    (a.1 ++ [i], s)) ([], s)
  s.setHub { s.hub with slots := Tab.put n { r with st := .completing, sent := ids } s.hub.slots }

/-- A round whose result writes have all been answered or have timed out notifies its members, and the slot opens for the next generation (R197, R198). -/
def notifyRound (s : State) (n : Nat) (r : RedSlot) : State :=
  if r.st ≠ .completing || !r.sent.all (fun i => (s.request i).all (fun q => q.reply.isSome || q.expired)) then s
  else
    let s := r.sent.foldl (fun s i => s.dropRequest i) s
    let s := r.members.foldl (fun (s : State) m =>
      (s.sendHub r.tag m .store [{ idx := 0, va := r.notify, n := 8, data := BitVec.ofNat 64 (r.c + 1), cmp := 0 }]).2) s
    s.setHub { s.hub with slots := Tab.put n { r with st := .opened, c := r.c + 1, bitmap := [], lines := [], buffer := [], sent := [] } s.hub.slots }

/-- Every completing slot goes on as far as it can. -/
def notifyRounds (s : State) : State := s.hub.slots.foldl (fun s e => s.notifyRound e.1 e.2) s

end State

end Sys2Proof.Machine
end

