-- ==== Sys2Proof/Machine/Sched.lean ====
section
/-! DEFINITION. The dispatchers: completion words, saving and restoring tasks, placement, the decision, launches and fault-domain stops (R215 to R236, R251). -/

namespace Sys2Proof.Machine

/-- Puts an element before the first of a sorted list that it is to stand before. -/
def insertBy {α : Type} (before : α → α → Bool) (x : α) : List α → List α
  | [] => [x]
  | y :: ys => if before x y then x :: y :: ys else y :: insertBy before x ys

/-- A list in an order; elements that are equal in it keep theirs. -/
def sortBy {α : Type} (before : α → α → Bool) (l : List α) : List α := l.foldr (insertBy before) []

/-- A gang in its dispatcher's queue or on its cores. -/
def Gang.isQueued (g : Gang) : Bool := g.st = .queued
def Gang.isPlaced (g : Gang) : Bool := g.st = .placed

/-- The cores a gang needs (R216). -/
def Gang.need (g : Gang) : Nat := (g.ntask + g.percore - 1) / g.percore

/-- The AGECLK of a gang's home die. -/
def State.clockOf (s : State) (g : Gang) : Nat := (s.die g.die).ageclk

namespace State

/-- The control threads that hold a gang's tasks that have not ended (R216). -/
def tidsOf (s : State) (key : Nat) : List Nat := (s.threads.filter (fun t => t.2.live && t.2.gang = key)).map (fun t => t.1)

/-- Every store of an egress buffer to a location of this module that meets a test performs at its home, oldest first. -/
def settleEgress (s : State) (p : Loc → Bool) : State :=
  let go := fun (e : EgressEntry) => decide (e.loc.home ≠ 5) && p e.loc
  [0, 1, 2, 3, 4].foldl (fun s d =>
    let es := (s.die d).egress
    if es.any go then
      (es.filter go).foldl (fun s e => s.perform e.key e.loc e.data e.who) (s.setDie d { s.die d with egress := es.filter (fun e => !go e) })
    else s) s

/-- What a gang that is over has left to do (R227): the release at .s of its tasks' accesses, until which CHELD counts its cores; then
its completion word, and the gang is gone. -/
def writeDone (s : State) (key : Nat) : State :=
  match s.gang? key with
  | none => s
  | some g =>
    if g.cores ≠ [] && g.uids.any (fun u => s.unperformed u true) then s
    else
      let s := if g.cores = [] then s else (s.countCores g.vi g.held g.cores.length false).setGang key { g with cores := [], held := [], freed := [] }
      let drop := fun (s : State) => { s with gangs := Tab.del key s.gangs }
      match g.owed with
      | none => drop s
      | some v =>
        let put := fun (s : State) (l : Loc) (k : BitVec 256) =>
          drop (s.storeFrom g.die none k l (bytesOf (BitVec.ofNat 64 v) 8) none none g.vi)
        match s.translateGlobal (engineAgent g.vi g.asn g.die (waiterDispatch key) true) .write false g.done with
        | .ok (.here l k, s) => put s l k
        | .ok (.away m va, s) => put s (.remote m (s.vi g.vi).tag va) 0
        | .ok (.reduce h _ _ _, s) => put s (s.reduceLoc g.vi h g.done) 0
        | .ok (_, s) => drop s
        | .error (.wait s) => s
        | .error (.trap s _ _ _) => drop s

/-- A gang has freed its cores and is over, with a completion value; the last step of its end comes when it can (R220, R227, R235). -/
def endGang (s : State) (key : Nat) (g : Gang) (v : Nat) : State :=
  (s.setGang key { g with st := .over, freed := g.cores, saved := [], owed := if g.done = 0 then none else some v }).writeDone key

/-- Takes a task's thread, vector thread and tiles off its core. -/
def clearThread (s : State) (tid : Nat) : State :=
  let k := s.core (tid / 4)
  let uid := (s.thread tid).uid
  let s := s.breakLinks tid
  let k' := s.core (tid / 4)
  let s := s.setCore (tid / 4)
    { k' with slots := k.slots.filter (fun x => x.2.own ≠ tid % 4), accs := k.accs.filter (fun x => x.2.own ≠ tid % 4)
              wops := k.wops.filter (fun o => o.uid ≠ uid), wmacs := k.wmacs.filter (fun m => m.uid ≠ uid)
              pendSplit := if k.pendSplit.any (fun p => p.2 = tid) then none else k.pendSplit }
  { (s.setThread tid CThread.vacant).setVthread tid VThread.fresh with
    agenda := s.agenda.filter (fun a => a.thread ≠ some tid) }

/-- A core is left by its gang; it remembers the interface and fault domain it held, or that no domain can be named any more (R223). -/
def leaveCore (s : State) (core vi region : Nat) : State :=
  match s.domain vi region with
  | some d => s.setCore core { s.core core with last := some (vi, d) }
  | none => s.setCore core { s.core core with dirty := true }

/-- A location is a byte of a core's scratchpad. -/
def inScratch (core : Nat) (l : Loc) : Bool := match l with | .scratch c _ => c = core | _ => false

/-- A scrub of a core (R226); what stands in an egress buffer for its scratchpad goes before it. -/
def scrub (s : State) (core : Nat) : State :=
  let s := s.settleEgress (inScratch core)
  let k := s.core core
  let s := s.setCore core { k with scratch := [], links := [], slots := [], accs := [], wops := [], wmacs := [], copyQ := []
                                   tlb := [], icache := [], bcache := [], dirty := false, last := none }
  let s := [0, 1, 2, 3].foldl (fun (s : State) i => (s.breakLinks (4 * core + i)).setVthread (4 * core + i) VThread.fresh) s
  let mine := fun (x : Struck) => match x with
    | .scratchWord c _ => c = core
    | .vectorRegister t _ => t / 4 = core
    | .operandSlot c _ => c = core
    | .accumulator c _ => c = core
    | _ => false
  { s with poison := s.poison.filter (fun x => !mine x), mended := s.mended.filter (fun x => !mine x.1) }

/-- The engine queues' commands of a task that have not started, with their engines' numbers (R228, R429). -/
def waitingCmds (s : State) (tid uid : Nat) : List (Nat × Cmd) :=
  let pick := fun (l : List Cmd) => l.filter (fun c => c.uid = uid && !c.started && c.result.isNone)
  (pick (s.core (tid / 4)).copyQ).map (fun c => (0, c)) ++ (pick (s.die (tid / 64)).pageQ).map (fun c => (1, c))
    ++ (pick s.hub.fcQ).map (fun c => (2, c))

/-- Removes some commands from every engine queue. -/
def dropCmds (s : State) (p : Cmd → Bool) : State :=
  let keep := fun (l : List Cmd) => l.filter (fun c => !p c)
  { s with cores := s.cores.map (fun c => (c.1, { c.2 with copyQ := keep c.2.copyQ }))
           dies := s.dies.map (fun d => (d.1, { d.2 with pageQ := keep d.2.pageQ }))
           hub := { s.hub with fcQ := keep s.hub.fcQ } }

/-- Pushes a saved command again (R228). -/
def pushCmd (s : State) (tid eng : Nat) (c : Cmd) : State :=
  let c := { c with die := tid / 64 }
  match eng with
  | 0 => s.setCore (tid / 4) { s.core (tid / 4) with copyQ := (s.core (tid / 4)).copyQ ++ [c] }
  | 1 => s.setDie (tid / 64) { s.die (tid / 64) with pageQ := (s.die (tid / 64)).pageQ ++ [c] }
  | _ => s.setHub { s.hub with fcQ := s.hub.fcQ ++ [c] }

/-- What a wait leaves when it is abandoned: an atomic already sent stays sent (R228). -/
def waitKept (s : State) (w : Wait) : Wait :=
  match w with
  | .request i => match s.request i with
    | some r => if r.kind.reads then .none else .request i
    | none => .none
  | _ => .none

/-- Stops a task at a boundary of each of its parts (R228): its issued stores take effect, its WMU operations run on to a step whose
number is a multiple of 16, and a pending cause that may be taken is entered before the save (R245). -/
def stopTask (s : State) (tid : Nat) : State :=
  let s := (s.flushScalar tid).flushVector tid (fun _ => true)
  let s := ((s.core (tid / 4)).wops.filter (fun o => o.uid = (s.thread tid).uid)).foldl (fun s o => s.runToBoundary (tid / 4) o.id 16) s
  match (s.thread tid).nextHeld with
  | some p => if s.waitKept (s.thread tid).wait = .none then s.takeHeld tid p else s
  | none => s

/-- Takes a stopped task off its core and gives what is saved of it (R228, R229, R251). An uncorrectable error that stands in its registers,
slots or accumulators is not saved with them (log 106). -/
def takeTask (s : State) (tid : Nat) : SavedTask × State :=
  let k := s.core (tid / 4)
  let t := s.thread tid
  let v := s.vthread tid
  let cmds := s.waitingCmds tid t.uid
  let loads := v.work.packets.all (fun i => (s.request i).any (fun r => r.kind.reads))
  let w : VectorWork := if loads then { v.work with packets := [], upto := none } else v.work
  let sv : SavedTask :=
    { ct := { t with wait := s.waitKept t.wait, live := false, early := none }
      vt := { v with work := { w with early := [] }, ahead := [], bars := [], retained := false }
      slots := k.slots.filter (fun x => x.2.own = tid % 4), accs := k.accs.filter (fun x => x.2.own = tid % 4)
      wops := k.wops.filter (fun o => o.uid = t.uid), wmacs := k.wmacs.filter (fun m => m.uid = t.uid), cmds := cmds }
  let s := match t.wait, sv.ct.wait with
    | .request i, .none => s.dropRequest i
    | .words _ (some i), _ => s.dropRequest i
    | _, _ => s
  let s := if loads then v.work.packets.foldl (fun s i => s.dropRequest i) s else s
  (sv, (s.dropCmds (fun c => cmds.any (fun x => x.2.id = c.id))).clearThread tid)

/-- Ends a task at a boundary of each of its parts without a save (R235). -/
def haltTask (s : State) (tid : Nat) : State :=
  let t := s.thread tid
  let s := (s.flushScalar tid).flushVector tid (fun _ => true)
  let s := s.dropCmds (fun c => c.uid = t.uid && !c.started && c.result.isNone)
  (s.abandonWait tid).clearThread tid

/-- Puts a saved task on a control thread (R230). -/
def putTask (s : State) (tid : Nat) (sv : SavedTask) : State :=
  let s := (s.setThread tid { sv.ct with live := true }).setVthread tid { sv.vt with idleFrom := (s.core (tid / 4)).cycle }
  let k := s.core (tid / 4)
  let merge := fun {α : Type} (a b : Tab α) => b.foldl (fun t x => Tab.put x.1 x.2 t) a
  let s := s.setCore (tid / 4) { k with slots := merge k.slots sv.slots, accs := merge k.accs sv.accs
                                        wops := k.wops ++ sv.wops, wmacs := k.wmacs ++ sv.wmacs }
  sv.cmds.foldl (fun s c => s.pushCmd tid c.1 c.2) s

/-- The actors of a thread join the agenda (log 2). -/
def startThread (s : State) (tid : Nat) : State :=
  { s with agenda := s.agenda ++ [.control tid false false, .vector tid false false .whole] }

/-- SPILL of a shard in a race (R408, R409). -/
def spillOf (s : State) (t : CThread) : Option Word :=
  match t.race with
  | none => none
  | some (c, h) => ((s.race? c).bind (fun x => Tab.find h x.shards)).map (fun x => x.spill)

/-- The bytes of a shard's spill area (R408). -/
def spillBytes : Nat := 1572928

/-- The offset in its seed at which the spill contents of a task start. -/
def spillOffset : Nat := 2 ^ 32

/-- Where the save area of a task begins (R216): Z follows the split of the core on which the task stands when it is saved (log 101). -/
def saveAt (g : Gang) (index split : Nat) : Word := g.save + BitVec.ofNat 64 (index * contextBytes split)

/-- A save area of a gang is written for one task (R216, R229, R409); none when an access faults (R232), an address that is not canonical
among them (R13). -/
def writeSave (s : State) (g : Gang) (seed index die split : Nat) (t : CThread) : Option State :=
  let write := fun (s : State) (a : Word) (n seed : Nat) => if canonical a then s.writeArea die g.vi g.asn (a.toNat % 2 ^ 56) n seed else none
  (write s (saveAt g index split) (contextBytes split) (seed + index)).bind (fun s =>
    match s.spillOf t with
    | none => some s
    | some a => write s a spillBytes (seed + spillOffset + index))

/-- The save area of one task reads as it was written (R230, R409). -/
def readSave (s : State) (g : Gang) (seed index die split : Nat) (t : CThread) : Bool :=
  let reads := fun (a : Word) (n seed : Nat) => canonical a && s.areaIntact die g.vi g.asn (a.toNat % 2 ^ 56) n seed
  reads (saveAt g index split) (contextBytes split) (seed + index)
    && match s.spillOf t with
       | none => true
       | some a => reads a spillBytes (seed + spillOffset + index)

/-- The home of some page moves that holds what a task of a gang is saved in (R202). -/
def saveMoves (s : State) (g : Gang) (index die split : Nat) (t : CThread) : Bool :=
  s.areaMoves die g.vi g.asn ((saveAt g index split).toNat % 2 ^ 56) (contextBytes split)
    || (s.spillOf t).any (fun a => s.areaMoves die g.vi g.asn (a.toNat % 2 ^ 56) spillBytes)

/-- A seed for an area whose contents are not architectural (log 4). -/
def freshSeed (s : State) : Nat × State :=
  let (i, s) := s.freshId
  (i * 2 ^ 40, s)

/-- A gang re-enters the queue of its region's home die as a new acceptance (R221). -/
def requeue (s : State) (key : Nat) (g : Gang) : State :=
  let (o, s) := s.freshId
  match s.chain g.vi g.region with
  | none => s.setGang key { g with st := .queued, order := o, since := s.clockOf g, raised := 0 }
  | some c =>
    let g := { g with st := .queued, order := o, level := effective 0 c, die := effective 2 c, raised := 0 }
    s.setGang key { g with since := s.clockOf g }

/-- A VSCTADD of a thread has sent its steps to other modules, and performs the rest of them as a whole (R366, R370). -/
def scatterSent (s : State) (tid : Nat) : Bool :=
  let w := (s.vthread tid).work
  w.packets ≠ [] && w.insn.any (fun x => x.1 / 2 ^ 56 % 256 = 0x89)

/-- A pre-emption waits for a thread's TLBINV, for the reply of an atomic it has sent, unless that is a fabric cause, and for a VSCC or
VSCTADD that has begun to act (R38, R228, R370). -/
def savesLater (s : State) (tid : Nat) : Bool :=
  s.scatterSent tid || (s.vthread tid).work.atomic.isSome || match (s.thread tid).wait with
  | .inval _ => true
  | .request i => (s.request i).any (fun r => !r.kind.reads && !r.expired && (match r.reply with
      | some (.refused _ _ _ _ _) => false
      | _ => true))
  | _ => false

/-- A copy-engine command of a gang runs, which a pre-emption lets finish (R228). -/
def copyRuns (s : State) (g : Gang) : Bool :=
  g.cores.any (fun c => (s.core c).copyQ.any (fun x => x.started && x.result.isNone && g.uids.contains x.uid))

/-- A pre-emption of a gang has to wait for something that it must let end (R38, R202, R228). -/
def stopsLater (s : State) (key : Nat) (g : Gang) : Bool :=
  s.copyRuns g || (s.tidsOf key).any (fun t => s.savesLater t || s.saveMoves g (s.thread t).index (t / 64) (s.core (t / 4)).split (s.thread t))

/-- A gang whose save or restore has failed is left stopped on its cores, and the stop of its fault domain is asked for (R232). -/
def failGang (s : State) (key : Nat) (g : Gang) : State :=
  let s := s.setGang key { g with st := .failed, stopping := false }
  s.setHub { s.hub with stops := s.hub.stops ++ [(g.vi, g.region, 3)] }

/-- Saves a gang whole and frees its cores (R228, R229, R232); the scratchpads that its tasks read and write go with it (R159; log 90). -/
def saveGang (s : State) (key : Nat) (g : Gang) : State :=
  let tids := s.tidsOf key
  let s := tids.foldl (fun s t => s.stopTask t) s
  let s := s.settleEgress (fun _ => true)
  let (seed, s) := s.freshSeed
  let splits := g.cores.map (fun c => (s.core c).split)
  let pads := g.cores.map (fun c => (s.core c).scratch)
  let r := tids.foldl (fun (r : Tab SavedTask × Bool × State) t =>
    let (saved, good, s) := r
    let ct := s.thread t
    let split := (s.core (t / 4)).split
    let (sv, s) := s.takeTask t
    match s.writeSave g seed ct.index (t / 64) split ct with
    | some s => (Tab.put ct.index sv saved, good, s)
    | none => (Tab.put ct.index sv saved, false, s)) ([], true, s)
  let (saved, good, s) := r
  if !good then s.failGang key { g with saved := saved }
  else
    let s := g.cores.foldl (fun s c => if g.freed.contains c then s else s.leaveCore c g.vi g.region) s
    let s := s.countCores g.vi g.held g.cores.length false
    s.requeue key { g with cores := [], held := [], freed := [], saved := saved, splits := splits, pads := pads, seed := seed, fresh := false, stopping := false
                           saving := g.uids.any (fun u => s.unperformed u true) }

/-- Pre-empts a gang: it is saved at once, or stops as soon as what it must let end has ended (R228). -/
def preempt (s : State) (key : Nat) (g : Gang) : State :=
  if s.stopsLater key g then s.setGang key { g with stopping := true } else s.saveGang key g

/-- A new task of a gang (R225). -/
def newTask (key : Nat) (g : Gang) (uid index : Nat) : CThread :=
  let args := (List.range 7).foldl (fun (t : Tab Word) i => Tab.write 0 (i + 1) (g.args.getD i 0) t) []
  { CThread.vacant with
    live := true, uid := uid, vi := g.vi, gang := key, index := index
    regs := Tab.write 0 8 (BitVec.ofNat 64 index) args
    pc := g.entry, priv := if g.sup then .supervisor else .task }

/-- Cores a gang may take, in the order of log 15: the home die's, or any die's with SPAN = 1 (R219). -/
def coreOrder (s : State) (g : Gang) : List Nat :=
  ((s.corePref.filter (fun c => decide (c < 64)) ++ List.range 64).eraseDups).filter (fun c => g.span || c / 16 = g.die)

/-- The free cores for a gang, and those that pre-empting some gangs would free (R219). -/
def freeFor (s : State) (g : Gang) (gone : List Gang) : List Nat :=
  (s.coreOrder g).filter (fun c => s.platform.diesOn && !s.platform.shutting && !(s.core c).fenced &&
    ((s.gangOn c).isNone || gone.any (fun v => v.cores.contains c && !v.freed.contains c)))

/-- Every budget of a chain has room for a gang, with some gangs gone (R214, R219). -/
def budgetRoom (s : State) (g : Gang) (chain : List (Nat × Rcb)) (gone : List Gang) : Bool :=
  (budgets 3 chain).all (fun b =>
    let given := (gone.filter (fun v => v.vi = g.vi && v.held.contains b.1)).foldl (fun n v => n + v.cores.length) 0
    decide ((s.useOf g.vi b.1).cores - given + g.need ≤ b.2))

/-- A gang fits (R219). -/
def fits (s : State) (g : Gang) (chain : List (Nat × Rcb)) (gone : List Gang) : Bool :=
  decide (g.need ≤ (s.freeFor g gone).length) && s.budgetRoom g chain gone

/-- Prepares a core for a gang: a scrub when its last tenant was another, then the split (R223). Errors that
stand in the core's structures are log 106. -/
def prepareCore (s : State) (g : Gang) (dom core split : Nat) : State :=
  let k := s.core core
  let s := if k.dirty || (k.last ≠ none && k.last ≠ some (g.vi, dom)) then s.scrub core else s
  let s := s.setSplit core split
  let s := s.setVthread (4 * core) { VThread.fresh with idleFrom := (s.core core).cycle }
  s.setCore core { s.core core with last := some (g.vi, dom) }

/-- Restores the parked task of a gang from its record (R103, R108): RUNNABLE goes on with WAKE, FAILED raises PAGE_TIER_FAIL. -/
def resumeParked (s : State) (tid n : Nat) (r : ParkRec) : Bool × State :=
  let s := s.setPk r false
  let split := (s.core (tid / 4)).split
  let code := (List.range 48).all (fun i => s.hbmByte r.key (r.at_ + 0x80 + i) = Config.ctxMac r.seed i)
  if !(code && s.areaIntact r.die r.vi r.asn ((r.va.toNat + 256) % 2 ^ 56) (contextBytes split) r.seed) then
    (false, (s.setRecState n .failed).setRec n { r with st := .failed, resumed := true })
  else if r.st = .failed then
    let s := s.setRec n { r with resumed := true }
    let s := s.setThread tid { s.thread tid with parked := none }
    (true, s.takeTrap tid causePageTierFail r.firstFail (some (xinfoOf r.failReason 0 .read)) false)
  else
    let w := r.wake
    let s := (s.setRec n { r with resumed := true }).putState r 0
    let s := s.setThread tid { s.thread tid with parked := none }
    (true, (s.setReg tid r.gd w).retire tid)

/-- The acquire with which a gang is placed: the mirrors of its cores' dies have applied every update sent to them (R147, R148, R154). -/
def acquireMirrors (s : State) (die : Nat) : State :=
  let d := s.die die
  s.setDie die { d with updates := [], mirrors := d.updates.foldl (fun t u => Tab.write 0 u.1 u.2 t) d.mirrors }

/-- Loads or restores one task of a gang on its thread (R216, R223, R225, R230); the flag is false when a restore fails. -/
def loadTask (s : State) (key : Nat) (g : Gang) (tid index : Nat) : Bool × State :=
  if g.fresh then
    let (u, s) := s.freshId
    (true, (s.setThread tid (newTask key g u index)).startThread tid)
  else match Tab.find index g.saved with
    | none => (true, s)
    | some sv =>
      let parked := sv.ct.parked.bind (fun n => (s.rec? n).map (fun r => (n, r)))
      let s := (s.putTask tid sv).startThread tid
      match parked with
      | some (n, r) => if g.seed = r.seed && (r.st = .runnable || r.st = .failed) then s.resumeParked tid n r
                       else (s.readSave g g.seed index (tid / 64) (s.core (tid / 4)).split sv.ct, s)
      | none => (s.readSave g g.seed index (tid / 64) (s.core (tid / 4)).split sv.ct, s)

/-- Places a gang on cores (R223). -/
def place (s : State) (key : Nat) (g : Gang) (chain : List (Nat × Rcb)) (cores : List Nat) : State :=
  let regions := chain.map (fun x => x.1)
  let s := s.countCores g.vi regions cores.length true
  let g := { g with asn := effective 1 chain }
  let s := (cores.zip (List.range cores.length)).foldl (fun (s : State) c =>
    let s := (s.prepareCore g (domainOf chain) c.1 (if g.fresh then g.split else g.splits.getD c.2 g.split)).acquireMirrors (c.1 / 16)
    match (if g.saved.any (fun e => e.1 / g.percore = c.2) then g.pads[c.2]? else none) with
    | some m => s.setCore c.1 { s.core c.1 with scratch := m }
    | none => s) s
  let r := (List.range g.ntask).foldl (fun (r : Bool × State) i =>
    let (good, s) := s.loadTask key g (4 * cores.getD (i / g.percore) 0 + i % g.percore) i
    (r.1 && good, s)) (true, s)
  let (good, s) := r
  let (o, s) := s.freshId
  let tids := s.tidsOf key
  let g' := { g with st := .placed, cores := cores, held := regions, placedOrder := o, quantumFrom := s.clockOf g, fresh := false, saved := [], pads := []
                     uids := if g.fresh then tids.map (fun t => (s.thread t).uid) else g.uids
                     freed := cores.filter (fun c => !tids.any (fun t => t / 4 = c)) }
  if good then s.setGang key g' else (tids.foldl (fun s t => s.haltTask t) s).failGang key g'

/-- The queued gangs of a die in the order of R220: level, then acceptance. -/
def queueOf (s : State) (die : Nat) : List (Nat × Gang) :=
  s.gangs.filter (fun e => e.2.isQueued && e.2.die = die) |> sortBy (fun a b =>
    decide (b.2.level < a.2.level) || (a.2.level = b.2.level && decide (a.2.order ≤ b.2.order)))

/-- The level of a running gang at a test: that of its region as it stands now, with the raises of its wait (R215, R221; log 28). -/
def runLevel (s : State) (g : Gang) : Nat := (s.chain g.vi g.region).elim g.level (fun c => min 15 (effective 0 c + g.raised))

/-- A queued gang can be restored: its save is complete (R154), and the home of no page that holds it moves (R202). -/
def saveDone (s : State) (g : Gang) : Bool :=
  !g.saving && g.saved.all (fun e => !s.saveMoves g e.1 g.die (g.splits.getD (e.1 / g.percore) g.split) e.2.ct
    && !(e.2.ct.parked.bind (fun n => s.rec? n)).any (fun r => s.areaMoves r.die r.vi r.asn ((r.va.toNat + 256) % 2 ^ 56) (contextBytes (g.splits.getD 0 g.split))))

/-- The running gangs below a level that hold a core a gang could take, or cores that count on one of its budgets, in the order in
which R220 pre-empts them (log 28). -/
def victims (s : State) (g : Gang) (chain : List (Nat × Rcb)) : List (Nat × Gang) :=
  (s.gangs.filter (fun e => e.2.isPlaced && !e.2.stopping && decide (s.runLevel e.2 < g.level)
      && ((s.coreOrder g).any (fun c => e.2.cores.contains c) || (e.2.vi = g.vi && chain.any (fun x => e.2.held.contains x.1)))))
    |> sortBy (fun a b => decide (s.runLevel a.2 < s.runLevel b.2) || (s.runLevel a.2 = s.runLevel b.2 && decide (b.2.placedOrder ≤ a.2.placedOrder)))

/-- The shortest run of victims whose pre-emption lets a gang fit, or none (R220). -/
def victimRun (s : State) (g : Gang) (chain : List (Nat × Rcb)) : List (Nat × Gang) → List (Nat × Gang) → Option (List (Nat × Gang))
  | _, [] => none
  | taken, v :: vs =>
    let taken := taken ++ [v]
    if s.fits g chain (taken.map (fun x => x.2)) then some taken else victimRun s g chain taken vs

/-- The address-space entry that a gang would be placed in counts as one with V = 1 (R9, R10). -/
def asValid (s : State) (g : Gang) (chain : List (Nat × Rcb)) : Bool := (s.asEntry g.die g.vi (effective 1 chain)).isOk

/-- The gangs whose pre-emption has begun and not ended (R228). -/
def leaving (s : State) : List Gang := (s.gangs.filter (fun e => e.2.isPlaced && e.2.stopping)).map (fun e => e.2)

/-- A decision over the rest of a queue (R220); the flag says that a gang was pre-empted or ended, so that the die decides again. A
gang in an address space that is not valid stays in the queue and is passed over (R9; log 91). -/
def decideOver (s : State) : List (Nat × Gang) → Bool × State
  | [] => (false, s)
  | (key, g) :: rest =>
    match s.chain g.vi g.region with
    | none => decideOver (s.endGang key g 2) rest
    | some c =>
      if !s.saveDone g || !s.asValid g c then decideOver s rest
      else
        let free := s.freeFor g []
        if decide (g.need ≤ free.length) then
          if s.budgetRoom g c [] then decideOver (s.place key g c (free.take g.need)) rest
          else decideOver s rest
        else if s.fits g c s.leaving then (false, s)
        else match s.victimRun g c (s.leaving.map (fun v => (0, v))) (s.victims g c) with
          | none => (false, s)
          | some vs =>
            let s := (vs.drop s.leaving.length).foldl (fun s v => s.preempt v.1 v.2) s
            if s.leaving ≠ [] then (false, s)
            else
            let free := s.freeFor g []
            let s := if decide (g.need ≤ free.length) && s.budgetRoom g c [] then s.place key g c (free.take g.need) else s
            (true, s)

/-- One decision of each of the four dispatchers; the flag says that one of them pre-empted a gang. -/
def decideRound (s : State) : Bool × State :=
  [0, 1, 2, 3].foldl (fun r d => let (b, s) := r.2.decideOver (r.2.queueOf d); (r.1 || b, s)) (false, s)

/-- The decisions of the dispatchers, until a round of them pre-empts no gang (R220). -/
def decideRounds (s : State) : Nat → State
  | 0 => s
  | n + 1 => match s.decideRound with
    | (true, s) => decideRounds s n
    | (false, s) => s

/-- The decisions of the four dispatchers (R220). -/
def decideAll (s : State) : State := s.decideRounds (4 * s.gangs.length + 1)

/-- A task ends (R227): its core is freed with its last task, and its gang ends with the last of all. -/
def endTask (s : State) (tid : Nat) : State :=
  let t := s.thread tid
  match s.gang? t.gang with
  | none => s.clearThread tid
  | some g =>
    let s := s.clearThread tid
    let g := { g with ended := t.index :: g.ended }
    let core := tid / 4
    let (g, s) := if (s.tidsOf t.gang).any (fun x => x / 4 = core) then (g, s)
      else ({ g with freed := core :: g.freed }, s.leaveCore core g.vi g.region)
    if (s.tidsOf t.gang).isEmpty then (s.endGang t.gang g 1).decideAll else s.setGang t.gang g

end State

/-- A gang descriptor is malformed (R217). -/
def descMalformed (w : List Word) : Bool :=
  let c := w.getD 0 0
  bits c 63 44 ≠ 0 || bits c 23 19 ≠ 0 || bits c 12 0 ≠ 0 || bits c 16 15 = 3
  || (w.getD 1 0).toNat % 4 ≠ 0 || (w.getD 2 0).toNat % 8 ≠ 0 || (w.getD 3 0).toNat % 256 ≠ 0
  || (List.range 5).any (fun i => w.getD (11 + i) 0 ≠ 0)

/-- The fields of a descriptor (R216). -/
def descRegion (w : List Word) : Nat := bits (w.getD 0 0) 43 32
def descTasks (w : List Word) : Nat := bits (w.getD 0 0) 31 24 + 1
def descPerCore (w : List Word) : Nat := bits (w.getD 0 0) 18 17 + 1
def descSplit (w : List Word) : Nat := 2 ^ bits (w.getD 0 0) 16 15
def descSpan (w : List Word) : Bool := (w.getD 0 0).getLsbD 14
def descSup (w : List Word) : Bool := (w.getD 0 0).getLsbD 13
def descNeed (w : List Word) : Nat := (descTasks w + descPerCore w - 1) / descPerCore w

/-- A failed LAUNCH result word (R217). -/
def launchFail (reason : Nat) : Word := BitVec.ofNat 64 (2 ^ 63 + reason * 2 ^ 56)

namespace State

/-- The reason for which a descriptor is not launched, or its chain (R217). -/
def judgeLaunch (s : State) (vi : Nat) (w : List Word) : Except Nat (List (Nat × Rcb)) :=
  if descMalformed w then .error 4
  else match s.chain vi (descRegion w) with
    | none => .error 2
    | some c =>
      let n := descNeed w
      if (decide (16 < n) && !descSpan w) || decide (64 < n) || (budgets 3 c).any (fun b => decide (b.2 < n)) then .error 1
      else .ok c

/-- The gangs in a die's queue. -/
def queueLength (s : State) (die : Nat) : Nat := (s.gangs.filter (fun e => e.2.isQueued && e.2.die = die)).length

/-- The home die's dispatcher arbiter accepts a gang (R217, R225); a handler's first arguments are the region and the reason (R236). -/
def acceptGang (s : State) (vi : Nat) (w : List Word) (c : List (Nat × Rcb)) (handler : Option (Nat × Nat)) : Word × State :=
  let (key, s) := s.freshId
  let v := s.vi vi
  let id := v.launched % 2 ^ 20
  let s := s.setVi vi { v with launched := v.launched + 1 }
  let args := (List.range 7).map (fun i => w.getD (4 + i) 0)
  let args := match handler with
    | some (r, x) => BitVec.ofNat 64 r :: BitVec.ofNat 64 x :: args.drop 2
    | none => args
  let g : Gang :=
    { vi := vi, id := BitVec.ofNat 20 id, region := descRegion w, asn := effective 1 c, ntask := descTasks w, percore := descPerCore w
      split := descSplit w, span := descSpan w, sup := descSup w, entry := w.getD 1 0, done := w.getD 2 0, save := w.getD 3 0, args := args
      st := .queued, die := effective 2 c, level := effective 0 c, order := key, since := (s.die (effective 2 c)).ageclk, placedOrder := 0
      quantumFrom := 0, cores := [], held := [], freed := [], ended := [], uids := [], fresh := true, saved := [], splits := [], pads := [], seed := 0, owed := none, stopping := false, raised := 0, saving := false }
  (BitVec.ofNat 64 id, (s.setGang key g).decideAll)

/-- What a launch that the D7 makes itself has read of its descriptor (R218, R236): 16 words, a failure, or a wait. -/
inductive DescRead where
  | words (w : List Word) (s : State)
  | failed (s : State)
  | waits (s : State)
  deriving DecidableEq, Repr

/-- Reads a descriptor, each word once, for a start register or a handler launch, in the address space of a region, as a supervisor
(R217, R218); a region that is not valid has no address space to read it in (log 92). -/
def readDesc (s : State) (l : Launch) : DescRead :=
  if l.words ≠ [] then .words l.words s
  else match l.req with
  | some i =>
    match s.request i with
    | none => .failed s
    | some r =>
      match r.reply with
      | some (.done vals) => .words ((List.range 16).map (fun j => (Tab.find j vals).getD 0)) (s.dropRequest i)
      | some (.refused _ _ _ _ _) => .failed (s.dropRequest i)
      | none => if r.expired then .failed (s.dropRequest i) else .waits s
  | none =>
    match s.chain l.vi l.region with
    | none => .failed s
    | some c =>
      let ag := engineAgent l.vi (effective 1 c) 4 (waiterLaunch l.id) true
      match s.check ag l.region .read false false spaceGlobal l.addr 128 with
      | .ok (.here loc key, s) =>
        if s.readsPoison 4 loc 128 then .failed s
        else .words ((List.range 16).map (fun j => wordOf (s.loadBytes 4 key (loc.plus (8 * j)) 8))) s
      | .ok (.away m va, s) =>
        let (u, s) := s.freshId
        let elems := (List.range 16).map (fun j => ({ idx := j, va := fullVa (va + 8 * j), n := 8, data := 0, cmp := 0 } : FabricElem))
        let (i, s) := s.sendRequest l.vi u 256 m .load elems false false false 0
        .waits (s.setHub { s.hub with launches := s.hub.launches.map (fun x => if x.id = l.id then { x with req := some i } else x) })
      | .ok (_, s) => .failed s
      | .error (.wait s) => .waits s
      | .error (.trap s _ _ _) => .failed s

/-- What the start register reads while a write is not decided (R218, R449). -/
def startPending : Word := 0x8000000000000000

/-- A launch is decided with a result word: a start register shows it (R218). -/
def launchDecided (s : State) (l : Launch) (w : Word) : State :=
  let s := s.setHub { s.hub with launches := s.hub.launches.filter (fun x => x.id ≠ l.id) }
  match l.handler with
  | some _ => s
  | none =>
    let v := s.vi l.vi
    let rest := v.start.waiting.drop 1
    s.setVi l.vi { v with start := { result := if rest = [] then w else startPending, waiting := rest } }

/-- Takes a launch of the D7's own as far as it goes (R218, R236). -/
def tryLaunch (s : State) (l : Launch) : State :=
  match s.readDesc l with
  | .waits s => s
  | .failed s => s.launchDecided l (launchFail 5)
  | .words w s =>
    match s.judgeLaunch l.vi w with
    | .error r => s.launchDecided l (launchFail r)
    | .ok c =>
      if 1024 ≤ s.queueLength (effective 2 c) then
        s.setHub { s.hub with launches := s.hub.launches.map (fun x => if x.id = l.id then { x with req := none, words := w } else x) }
      else
        let s := s.launchDecided l 0
        let (x, s) := s.acceptGang l.vi w c l.handler
        match l.handler with
        | some _ => s
        | none => if (s.vi l.vi).start.waiting = [] then s.setVi l.vi { s.vi l.vi with start := { (s.vi l.vi).start with result := x } } else s

/-- Adds a launch that the D7 makes itself. -/
def addLaunch (s : State) (vi : Nat) (addr : Word) (region : Nat) (handler : Option (Nat × Nat)) : State :=
  let (i, s) := s.freshId
  s.setHub { s.hub with launches := s.hub.launches ++ [{ id := i, vi := vi, addr := addr, region := region, handler := handler, req := none, words := [] }] }

/-- A start register's first undecided write is taken up when none of its interface is (R218, R449). -/
def takeStarts (s : State) : State :=
  s.vis.foldl (fun s e =>
    match (s.vi e.1).start.waiting with
    | [] => s
    | a :: _ =>
      if s.hub.launches.any (fun l => l.vi = e.1 && l.handler.isNone) then s
      else s.addLaunch e.1 a 0 none) s

/-- Every launch of the D7's own goes as far as it can. -/
def tryLaunches (s : State) : State :=
  let s := s.takeStarts
  s.hub.launches.foldl (fun s l => s.tryLaunch l) s

/-- A gang belongs to a fault domain (R213); a region that is not valid makes a domain of its own. -/
def inDomain (s : State) (vi root region : Nat) : Bool := (s.domain vi region).getD region = root

/-- Ends the tasks of a gang at the stop of a number, without a save; its cores stay held until what it has started has finished (R235). -/
def haltGang (s : State) (stop key : Nat) (g : Gang) : State :=
  ((s.tidsOf key).foldl (fun s t => s.haltTask t) s).setGang key { g with st := .stopped stop, stopping := false, saved := [] }

/-- A stopped gang ends: its cores are scrubbed and freed, CHELD is corrected, and it owes 3 (R235). -/
def freeGang (s : State) (key : Nat) (g : Gang) : State :=
  let s := g.cores.foldl (fun s c =>
    if g.freed.contains c then s
    else
      let s := s.scrub c
      s.setCore c { s.core c with dirty := true }) s
  let s := s.countCores g.vi g.held g.cores.length false
  s.endGang key { g with cores := [], held := [] } 3

/-- An engine command that a gang's tasks have started has not ended (R235). -/
def startedRuns (s : State) (g : Gang) : Bool :=
  let runs := fun (l : List Cmd) => l.any (fun c => c.started && c.result.isNone && g.uids.contains c.uid)
  (s.platform.diesOn && (s.cores.any (fun c => runs c.2.copyQ) || s.dies.any (fun d => runs d.2.pageQ))) || runs s.hub.fcQ

/-- Releases the race contexts of some gangs of a fault domain, and those that a removed gang of it has left (R235, R251). -/
def freeRaces (s : State) (vi root : Nat) (keys : List Nat) : State :=
  (s.hub.races.filter (fun c => c.2.vi = vi && (keys.contains c.2.gang || ((s.gang? c.2.gang).isNone && s.inDomain vi root c.2.region)))).foldl
    (fun s c => (s.setHub { s.hub with races := Tab.del c.1 s.hub.races }).countRace c.2.vi c.2.held false) s

/-- A gang whose park record keeps it from a stop: parked, or queued because its record was woken (R235). -/
def keptByRecord (s : State) (g : Gang) : Bool :=
  g.st = .parked || (g.isQueued && g.saved.any (fun e => e.2.ct.parked.any (fun n =>
    (s.rec? n).any (fun r => r.seed = g.seed && (r.st = .runnable || r.st = .failed)))))

/-- Frees every reduction slot that a region of a fault domain allocated, at this hub and by request at the other nodes (R198, R235). -/
def freeSlots (s : State) (vi root : Nat) : State :=
  let far := (s.vi vi).handles.filter (fun h => h.2.node ≠ s.modnum && s.inDomain vi root h.2.region)
  let s := far.foldl (fun (s : State) h => (s.sendHub (s.vi vi).tag h.2.node (.redFree h.2.slot true) []).2) s
  s.setHub { s.hub with slots := s.hub.slots.filter (fun r => !(r.2.vi = vi && s.inDomain vi root r.2.region)) }

/-- The gangs that a stop has ended (R235). -/
def stoppedBy (s : State) (d : DomainStop) : List (Nat × Gang) := s.gangs.filter (fun e => e.2.st = .stopped d.id)

/-- A stop ends: race contexts and reduction slots are freed, the gangs end, the stop is counted, and the handler gang is launched or
the host told (R235, R236). -/
def finishStop (s : State) (d : DomainStop) : State :=
  let gangs := s.stoppedBy d
  let s := s.setHub { s.hub with halting := s.hub.halting.filter (fun x => x.id ≠ d.id) }
  let s := (s.freeRaces d.vi d.root (gangs.map (fun e => e.1))).freeSlots d.vi d.root
  let s := gangs.foldl (fun s e => s.freeGang e.1 e.2) s
  let u := s.useOf d.vi d.root
  let s := s.setUse d.vi d.root { u with stops := u.stops + 1, lastStop := d.reason }
  let s := match s.chain d.vi d.root with
    | some ((_, r) :: c) =>
      let h := effective 9 ((d.root, r) :: c)
      if d.root = 0 || h = 0 then s
      else s.addLaunch d.vi (BitVec.ofNat 64 h) r.parent (some (if d.reason = 6 then d.root else d.region, d.reason))
    | _ => s
  let s := if d.root = 0 then
      let v := s.vi d.vi
      s.setVi d.vi (({ v with stopcnt := v.stopcnt + 1 } : Vi).raise 0)
    else s
  s.decideAll

/-- The stops under way whose tasks' engine commands have all finished end (R235). -/
def endStops (s : State) : State :=
  s.hub.halting.foldl (fun s d => if (s.stoppedBy d).any (fun e => s.startedRuns e.2) then s else s.finishStop d) s

/-- Stops the fault domain of a region with a reason: the tasks of the gangs that have been accepted into it end at once, the queued ones
of these gangs are removed, and the rest follows once the engine commands they have started have finished (R234, R235). -/
def stopDomain (s : State) (vi region reason : Nat) : State :=
  let root := (s.domain vi region).getD region
  let gangs := s.gangs.filter (fun e => e.2.vi = vi && s.inDomain vi root e.2.region && (e.2.isPlaced || e.2.isQueued || e.2.st = .failed) && !s.keptByRecord e.2)
  let (i, s) := s.freshId
  let s := gangs.foldl (fun s e => s.haltGang i e.1 e.2) s
  (s.setHub { s.hub with halting := s.hub.halting ++ [{ id := i, vi := vi, root := root, region := region, reason := reason }] }).endStops

/-- Carries out the stops that were asked for. -/
def runStops (s : State) : Nat → State
  | 0 => s
  | n + 1 => match s.hub.stops with
    | [] => s
    | (vi, r, x) :: rest => runStops ((s.setHub { s.hub with stops := rest }).stopDomain vi r x) n

/-- Saves the gangs whose pre-emption waits for nothing any more, and decides (R220, R228). -/
def endPreempts (s : State) : State :=
  let due := s.gangs.filter (fun e => e.2.isPlaced && e.2.stopping && !s.stopsLater e.1 e.2)
  if due.isEmpty then s else (due.foldl (fun s e => s.saveGang e.1 e.2) s).decideAll

/-- The saves whose release has been performed are complete, with which the pre-emption ends and the dispatchers decide (R154, R220). -/
def endSaves (s : State) : State :=
  let due := fun (g : Gang) => g.saving && !g.uids.any (fun u => s.unperformed u true)
  if s.gangs.any (fun e => due e.2) then
    { s with gangs := s.gangs.map (fun (e : Nat × Gang) => if due e.2 then (e.1, { e.2 with saving := false }) else e) }.decideAll
  else s

/-- The gangs that are over take the last step of their end when they can, with which the dispatchers decide (R220, R227). -/
def writeDones (s : State) : State :=
  let ended := s.gangs.filter (fun e => e.2.st = .over)
  let t := ended.foldl (fun s e => s.writeDone e.1) s
  if ended.any (fun e => e.2.cores ≠ [] && (t.gang? e.1).all (fun g => g.cores = [])) then t.decideAll else t

/-- The compute dies lose power once the stops of a die shutdown have ended (R456). -/
def powerOff (s : State) : State :=
  if s.platform.shutting && s.hub.stops = [] && s.hub.halting = [] then { s with platform := { s.platform with diesOn := false, shutting := false } } else s

/-- What follows from a step at once: pre-emptions, stops, wakes, launches, completion words and records that end (R103, R104, R218, R227, R235). -/
def settle (s : State) : State :=
  let s := s.endPreempts.endSaves.endStops
  let s := s.runStops (2 * s.gangs.length + s.hub.stops.length + 2)
  let s := s.wakeRecs
  let s := if s.hub.launches = [] && s.vis.all (fun v => v.2.start.waiting = []) then s else s.tryLaunches
  let s := s.runStops (2 * s.gangs.length + s.hub.stops.length + 2)
  s.writeDones.sweepRecs.powerOff

end State

end Sys2Proof.Machine
end

