-- ==== Sys2Proof/Machine/Finish.lean ====
section
/-! DEFINITION. How the meaning of an instruction or event ends: a next state in every case, with the trap taken or the thread waiting (R224, R240, R296). -/

namespace Sys2Proof.Machine

/-- The outcome type of every meaning. -/
abbrev Result := Host.Outcome State Fault Refusal

/-- An event happened, or was not enabled and changed nothing. -/
def done (s : State) : Result := .next s.settle

/-- A register result: gd takes the value and the instruction retires (R296). -/
def writeRetire (s : State) (d : Reg) (v : Word) : Result := .next ((s.setReg s.cur d v).retire s.cur)

/-- A control-thread instruction ends: with the state it leaves, with its instruction trap, or waiting (R224, R240). -/
def finish (tid : Nat) (r : Except Stop State) : Result :=
  match r with
  | .ok s => .next s.settle
  | .error (.trap s c v x) => .next (s.takeTrap tid c v x false).settle
  | .error (.wait s) => .next s.settle

/-- A control-thread instruction that writes one value to gd and retires. -/
def finishWrite (tid : Nat) (d : Reg) (r : Except Stop (Word × State)) : Result :=
  finish tid (r.map (fun p => (p.2.setReg tid d p.1).retire tid))

/-- A control-thread instruction retires and then raises a cause (R240). -/
def finishRetired (s : State) (tid : Nat) (cause : BitVec 6) (tval : Word) (xinfo : Option Word) : Result :=
  .next ((s.retire tid).takeTrap tid cause tval xinfo true).settle

/-- An instruction trap with no state change before it. -/
def trapNow {α : Type} (s : State) (cause : BitVec 6) (tval : Word) : Except Stop α := .error (.trap s cause tval none)

end Sys2Proof.Machine
end

