-- ==== Sys2Proof/Machine/FabricUnit.lean ====
section
/-! DEFINITION. Fabric requests at their target: translation, performance, the fault queue and page handovers (R174 to R177, R183 to R186, R202, R203). -/

namespace Sys2Proof.Machine

/-- The agent of a request at its target: address space 0 of the interface its tag is bound to (R175). -/
def targetAgent (vi id : Nat) : Agent := { engineAgent vi 0 4 (waiterFabric id) false with fabric := true }

/-- The access kind of a request (R11). -/
def fabricAccess : FabricKind → Kind
  | .load => .read
  | .pull _ _ _ => .read
  | .store => .write
  | _ => .atomic

/-- The sum of one VSCTADD location (R366): FP32 rounded to nearest even, or 32-bit integers. -/
def scatterSum (f32 : Bool) (old b : Word) : Word :=
  if f32 then ((addFl false .rne (readFloat false (old.setWidth 32)) (readFloat false (b.setWidth 32))).1).setWidth 64
  else ((old.setWidth 32) + (b.setWidth 32)).setWidth 64

/-- The combined addend of the elements of one word in ascending flat order, with its flags (R366). -/
def combineAddends (float : Bool) : List Elem → Elem × FlagSet
  | [] => (0, 0)
  | x :: xs => xs.foldl (fun (r : Elem × FlagSet) y =>
      if float then let (z, fl) := addFl false .rne (readFloat false r.1) (readFloat false y); (z, r.2 ||| fl) else (r.1 + y, 0)) (x, 0)

/-- The elements of a scatter-add, in ascending flat order, by the word that they name, each word with its lowest element first (R136, R366). -/
def byWord {α : Type} (word : α → Loc) (es : List α) : List (α × List α) :=
  ((es.map word).eraseDups).filterMap (fun l => match es.filter (fun e => word e = l) with
    | [] => none
    | e :: same => some (e, same))

/-- A 64 KiB page of a virtual address. -/
def pageOf (va : Nat) : Nat := va % 2 ^ 56 / 2 ^ 16

namespace State

/-- The interface a tag is bound to (R175). -/
def boundTo (s : State) (tag : BitVec 16) : Option Nat := (s.vis.find? (fun v => v.2.created && v.2.bound.contains tag)).map (fun v => v.1)

/-- Performs one element of a request at its home; the value read (R174, R176). The comparand of a store names the bits that
a block floating-point store keeps (R118). -/
def performElem (s : State) (kind : FabricKind) (e : FabricElem) (l : Loc) (key : BitVec 256) : Except Stop (Word × State) :=
  match kind with
  | .load => if s.readsPoison 4 l e.n then .error (.trap s causeMachineCheck e.va none) else .ok (wordOf (s.loadBytes 4 key l e.n), s)
  | .store =>
    let old := if e.cmp = 0 then 0 else wordOf (s.loadBytes 4 key l e.n)
    .ok (0, s.perform key l (bytesOf ((old &&& e.cmp) ||| e.data) e.n) none)
  | .amo op => s.atomicAt 4 e.va l key e.n (fun old => amoResult op e.n old e.data e.cmp)
  | .addF32 => s.atomicAt 4 e.va l key e.n (fun old => some (scatterSum true old e.data))
  | .addI32 => s.atomicAt 4 e.va l key e.n (fun old => some (scatterSum false old e.data))
  | .redAlloc _ _ _ => .error (.wait s)
  | .redFree _ _ => .error (.wait s)
  | .pull _ _ _ => .error (.wait s)

/-- Answers a request. -/
def answer (s : State) (src id : Nat) (r : FabricReply) : State := s.setHub { s.hub with answers := s.hub.answers ++ [(src, id, r)] }

/-- The fault-queue header and ring of an interface, when the queue is present (R186). -/
def faultQueue (s : State) (vi : Nat) : Option (Nat × Ring) :=
  let h := (s.vi vi).fqbase.toNat
  let w := s.homeWord vi h
  if h = 0 || (hbmAddr h).isNone || (List.range 4).any (fun i => s.homeWord vi (h + 32 + 8 * i) ≠ 0) || decide (12 < bits w 4 0) then none
  else (ringOf w).map (fun r => (h, r))

/-- Records a parked request's fault in the queue, or joins an unresolved entry (R184): the entry's SEQ, or none while the ring is full. -/
def recordFault (s : State) (vi h : Nat) (r : Ring) (src : Nat) (va : Word) (x : Word) : Option Nat × State :=
  let kind := bits x 2 0
  match s.hub.fq.find? (fun e => e.vi = vi && e.page = pageOf va.toNat && e.kind = kind) with
  | some e => (some e.seq, s)
  | none =>
    let prod := s.homeWord vi (h + 8)
    if (prod - s.homeWord vi (h + 16)).toNat ≥ r.size then (none, s)
    else
      let a := r.base + 32 * (prod.toNat % r.size)
      let s := (((s.homePut vi a va).homePut vi (a + 8) (BitVec.ofNat 64 (src % 1024 * 2 ^ 54 + bits x 11 8 * 256 + bits x 5 4 * 16 + kind))).homePut vi (a + 16) prod).homePut vi (a + 24) 0
      let s := s.homePut vi (h + 8) (prod + 1)
      (some prod.toNat, s.setHub { s.hub with fq := s.hub.fq ++ [{ vi := vi, seq := prod.toNat, page := pageOf va.toNat, kind := kind }] })

/-- A parked request's fault is recorded in the queue, or waits for room in the ring (R184). -/
def park (s : State) (p : Parked) (va x : Word) : State :=
  let (n, s) := match s.faultQueue p.vi with
    | none => (none, s)
    | some (h, r) => s.recordFault p.vi h r p.arrival.src va x
  s.setHub { s.hub with held := s.hub.held ++ [{ p with fault := some (va, x), entry := n }] }

/-- A fault of a request at its target: refused, or parked on the fault queue (R183); the hold counts only parked requests. -/
def targetFault (s : State) (p : Parked) (e : FabricElem) (cause : BitVec 6) (x : Word) : State :=
  let refuse := fun (s : State) (r : RefusedAs) => s.answer p.arrival.src p.arrival.id (.refused e.idx r (bits x 2 0) (bits x 11 8) p.vals.reverse)
  if cause = causePageProt then refuse s .perm
  else if cause ≠ causePageNotPresent then refuse s .remoteFault
  else match s.faultQueue p.vi with
    | none => refuse s .remoteFault
    | some (h, _) =>
      if 1024 ≤ (s.hub.held.filter (fun q => q.fault.isSome)).length then refuse (s.homePut p.vi (h + 24) (s.homeWord p.vi (h + 24) + 1)) .remoteFault
      else s.park p e.va x

/-- Forwards one element to the new home of its page (R202). -/
def forward (s : State) (a : FabricArrival) (e : FabricElem) (va : Nat) : State :=
  s.setHub { s.hub with outbox := s.hub.outbox ++ [{ a with elems := [{ e with va := fullVa va }] }] }

/-- The first access of a block of a block floating-point store in a packet: its exponent byte, or a mark of no bytes where that byte is
at another module (R176, R360). -/
def blockHead (e : FabricElem) : Bool := decide (8192 ≤ e.idx) && decide (e.idx < 2 ^ 14)

/-- The checks of the accesses of a block behind its first: the first that stops, or none when all pass (R360). -/
def blockStops (s : State) (ag : Agent) : List FabricElem → Option (FabricElem × Stop)
  | [] => none
  | e :: es =>
    if blockHead e then none
    else match s.check ag 0 .write false false spaceGlobal e.va e.n with
      | .error x => some (e, x)
      | .ok _ => blockStops s ag es

/-- The index of the element that a parked request has stopped at: the one whose address its fault names. -/
def stoppedAt (p : Parked) : Nat :=
  let rest := p.arrival.elems.drop p.next
  ((rest.find? (fun e => p.fault.any (fun f => f.1 = e.va))).orElse (fun _ => rest.head?)).elim 0 (fun e => e.idx)

/-- A request stops at an element: it is held, or takes a fault (R183, R202). -/
def serveStop (p : Parked) (e : FabricElem) : Stop → State
  | .wait s => s.setHub { s.hub with held := s.hub.held ++ [p] }
  | .trap s c _ x => s.targetFault p e c (x.getD 0)

/-- Serves the elements of a request in order until one is held or refused; the request is answered when the last has performed here (R175, R176). -/
def serveFrom (s : State) (p : Parked) : List FabricElem → State
  | [] =>
    if p.vals = [] && p.arrival.kind = .load then s
    else s.answer p.arrival.src p.arrival.id (.done p.vals.reverse)
  | e :: es =>
    let ag := targetAgent p.vi p.arrival.id
    match (if p.arrival.kind = .store && blockHead e then s.blockStops ag es else none) with
    | some (x, stop) => serveStop p x stop
    | none =>
      if e.n = 0 then serveFrom s { p with next := p.next + 1 } es
      else match s.check ag 0 (fabricAccess p.arrival.kind) false false spaceGlobal e.va e.n with
      | .ok (.away _ va, s) =>
        let s := s.forward p.arrival e va
        if es = [] && p.vals = [] then s else serveFrom s { p with next := p.next + 1 } es
      | .ok (.here l key, s) =>
        match s.performElem p.arrival.kind e l key with
        | .ok (v, s) => serveFrom s { p with next := p.next + 1, vals := (e.idx, v) :: p.vals } es
        | .error x => serveStop p e x
      | .ok (_, s) => s.targetFault p e causeFabRemoteFault (xinfoOf 1 0 (fabricAccess p.arrival.kind))
      | .error x => serveStop p e x

/-- The places of the elements of a scatter-add packet, up to the first that stops: its sounding pass at the target (R34, R35, R366). -/
def scatterPlaces (s : State) (ag : Agent) : List FabricElem → List (FabricElem × Place) × Option (FabricElem × Stop) × State
  | [] => ([], none, s)
  | e :: es =>
    let pass := fun (s : State) (p : Place) => let r := scatterPlaces s ag es; ((e, p) :: r.1, r.2)
    match s.check ag 0 .atomic false false spaceGlobal e.va e.n with
    | .ok (.here l key, s) =>
      if s.egressHolds 4 l e.n then ([], some (e, .wait s), s)
      else if s.poison ≠ [] && s.poisoned l e.n then ([], some (e, .trap s causeMachineCheck e.va none), s)
      else pass s (.here l key)
    | .ok (.away m va, s) => pass s (.away m va)
    | .ok (_, s) => ([], some (e, .trap s causeFabRemoteFault e.va (some (xinfoOf 1 0 .atomic))), s)
    | .error x => ([], some (e, x), s)

/-- Performs the words of a scatter-add packet, one atomic step for each, and forwards what has moved: the old values (R136, R202, R366). -/
def scatterPerform (s : State) (a : FabricArrival) (es : List (FabricElem × Place)) : List (Nat × Word) × State :=
  let here := es.filterMap (fun e => match e.2 with | .here l key => some (e.1, l, key) | _ => none)
  let away := es.filterMap (fun e => match e.2 with | .away _ va => some { e.1 with va := fullVa va } | _ => none)
  let s := if away = [] then s else s.setHub { s.hub with outbox := s.hub.outbox ++ [{ a with elems := away }] }
  (byWord (fun e => e.2.1) here).foldl (fun (r : List (Nat × Word) × State) w =>
    let (e, l, key) := w.1
    let old := wordOf ((List.range 4).map (fun i => r.2.homeByte key (l.plus i)))
    let sum := (combineAddends (a.kind = .addF32) (e.data.setWidth 32 :: w.2.map (fun x => x.1.data.setWidth 32))).1
    (r.1 ++ [(e.idx, old)], r.2.perform key l (bytesOf (scatterSum (a.kind = .addF32) old (sum.setWidth 64)) 4) none)) ([], s)

/-- Serves a scatter-add packet (R366): it checks every element before it adds any, and adds each word once. The elements below one that
stops have performed when it is parked or refused (R35, R176, R177, R183). -/
def serveScatter (s : State) (p : Parked) : State :=
  let a := p.arrival
  match s.scatterPlaces (targetAgent p.vi a.id) (a.elems.drop p.next) with
  | (_, some (_, .wait s), _) => s.setHub { s.hub with held := s.hub.held ++ [p] }
  | (good, none, s) =>
    let (vals, s) := s.scatterPerform a good
    let all := p.vals ++ vals
    if all = [] && a.elems ≠ [] then s else s.answer a.src a.id (.done all)
  | (good, some (e, .trap _ c _ x), s) =>
    let (vals, s) := s.scatterPerform a good
    s.targetFault { p with next := p.next + good.length, vals := p.vals ++ vals } e c (x.getD 0)

/-- Serves a request from the element that it has come to (R176). -/
def serve (s : State) (p : Parked) : State :=
  if p.arrival.kind = .addF32 || p.arrival.kind = .addI32 then s.serveScatter p else s.serveFrom p (p.arrival.elems.drop p.next)

/-- A pull load of another module comes to the node that it names, this hub: the hub serves it as a request of its own (R200). -/
def arrivePull (s : State) (a : FabricArrival) : State :=
  let (i, s) := s.sendHub a.tag s.modnum a.kind a.elems
  s.setHub { s.hub with pulls := s.hub.pulls ++ [(i, a.src, a.id)] }

/-- A request arrives at its target (R175), or at this hub's allocation arbiter (R192, R198). The KIND and REASON of a refusal for an
unbound tag are log 100. -/
def arrive (s : State) (a : FabricArrival) : State :=
  match a.kind with
  | .redAlloc op m len =>
    let e := (a.elems.head?).getD { idx := 0, va := 0, n := 0, data := 0, cmp := 0 }
    match s.allocSlot { op := op, m := m, len := len, members := (a.elems.drop 1).map (fun x => x.data.toNat), result := e.va, notify := e.data
                        tag := a.tag, vi := 64, region := 4096, src := a.src } with
    | some (n, s) => s.answer a.src a.id (.done [(0, BitVec.ofNat 64 n)])
    | none => s.answer a.src a.id (.done [])
  | .redFree n forced =>
    match s.freeSlot n a.src a.tag forced with
    | some s => s.answer a.src a.id (.done [(0, 0)])
    | none => s.answer a.src a.id (.done [(0, 1)])
  | .pull _ _ _ => s.arrivePull a
  | _ =>
  match s.boundTo a.tag with
  | none => s.answer a.src a.id (.refused ((a.elems.head?).elim 0 (fun e => e.idx)) .perm (fabricAccess a.kind).code 4 [])
  | some v => s.serve { arrival := a, vi := v, fault := none, entry := none, next := 0, vals := [], noticed := (s.die 4).ageclk }

/-- Serves some of the held requests again, in the order in which they are held. -/
def retryHeld (s : State) (which : Parked → Bool) : State :=
  let again := s.hub.held.filter which
  let s := s.setHub { s.hub with held := s.hub.held.filter (fun p => !which p) }
  again.foldl (fun s p => s.serve { p with fault := none, entry := none }) s

/-- A write of FQRES resolves an entry (R185); a refusal reports the KIND and REASON of the fault (log 93). -/
def resolveFault (s : State) (vi seq : Nat) (retry : Bool) : State :=
  match s.hub.fq.find? (fun e => e.vi = vi && e.seq % 2 ^ 32 = seq) with
  | none => s
  | some e =>
    let mine := fun (p : Parked) => p.vi = vi && p.entry = some e.seq
    let s := s.setHub { s.hub with fq := s.hub.fq.filter (fun x => x ≠ e) }
    if retry then s.retryHeld mine
    else
      let gone := s.hub.held.filter mine
      let s := s.setHub { s.hub with held := s.hub.held.filter (fun p => !mine p) }
      gone.foldl (fun s p => s.answer p.arrival.src p.arrival.id
        (.refused (stoppedAt p) .remoteFault e.kind (bits (p.fault.elim 0 (fun f => f.2)) 11 8) p.vals.reverse)) s

/-- The result of a reply, an expired timer or a combining drop reaches the request (R181). -/
def reply (s : State) (i : Nat) (r : FabricReply) : State :=
  s.setHub { s.hub with reqs := s.hub.reqs.map (fun q => if q.id = i && q.reply.isNone && !q.expired && !q.lost then { q with reply := some r } else q) }

end State

end Sys2Proof.Machine
end

