-- ==== Sys2Proof/Machine/Alu.lean ====
section
/-! DEFINITION. The integer instructions of control threads (R297 to R301). -/

namespace Sys2Proof.Machine

/-- A truth value as a word. -/
def flag (b : Bool) : Word := if b then 1 else 0

/-- The number of leading zero bits of the `n` lowest bits of a word. -/
def leadingZeros (w : Nat) : Nat → Nat
  | 0 => 0
  | n + 1 => if w / 2 ^ n % 2 = 1 then 0 else leadingZeros w n + 1

/-- The number of one bits among the `n` lowest bits of a word. -/
def oneBits (w : Nat) : Nat → Nat
  | 0 => 0
  | n + 1 => oneBits w n + w / 2 ^ n % 2

/-- The signed quotient and remainder (R298). -/
def divSigned (a b : Word) : Word := if b = 0 then BitVec.allOnes 64 else BitVec.ofInt 64 (a.toInt.tdiv b.toInt)
def remSigned (a b : Word) : Word := if b = 0 then a else BitVec.ofInt 64 (a.toInt.tmod b.toInt)
def divUnsigned (a b : Word) : Word := if b = 0 then BitVec.allOnes 64 else BitVec.ofNat 64 (a.toNat / b.toNat)
def remUnsigned (a b : Word) : Word := if b = 0 then a else BitVec.ofNat 64 (a.toNat % b.toNat)

/-- A register-register operation (R297). -/
def aluR (s : State) (d a b : Reg) (f : Word → Word → Word) : Result := writeRetire s d (f (s.reg s.cur a) (s.reg s.cur b))

/-- A register-immediate operation with a sign-extended immediate (R299). -/
def aluI (s : State) (d a : Reg) (f : Word → Word) : Result := writeRetire s d (f (s.reg s.cur a))

def execAdd (d a b : Reg) (s : State) : Result := aluR s d a b (fun x y => x + y)
def execSub (d a b : Reg) (s : State) : Result := aluR s d a b (fun x y => x - y)
def execAnd (d a b : Reg) (s : State) : Result := aluR s d a b (fun x y => x &&& y)
def execOr (d a b : Reg) (s : State) : Result := aluR s d a b (fun x y => x ||| y)
def execXor (d a b : Reg) (s : State) : Result := aluR s d a b (fun x y => x ^^^ y)
def execShl (d a b : Reg) (s : State) : Result := aluR s d a b (fun x y => x <<< (y.toNat % 64))
def execShr (d a b : Reg) (s : State) : Result := aluR s d a b (fun x y => x >>> (y.toNat % 64))
def execSra (d a b : Reg) (s : State) : Result := aluR s d a b (fun x y => x.sshiftRight (y.toNat % 64))
def execMul (d a b : Reg) (s : State) : Result := aluR s d a b (fun x y => x * y)
def execMulh (d a b : Reg) (s : State) : Result := aluR s d a b (fun x y => BitVec.ofInt 64 (x.toInt * y.toInt / 2 ^ 64))
def execMulhn (d a b : Reg) (s : State) : Result := aluR s d a b (fun x y => BitVec.ofNat 64 (x.toNat * y.toNat / 2 ^ 64))
def execDiv (d a b : Reg) (s : State) : Result := aluR s d a b divSigned
def execDivn (d a b : Reg) (s : State) : Result := aluR s d a b divUnsigned
def execRem (d a b : Reg) (s : State) : Result := aluR s d a b remSigned
def execRemn (d a b : Reg) (s : State) : Result := aluR s d a b remUnsigned
def execSlt (d a b : Reg) (s : State) : Result := aluR s d a b (fun x y => flag (x.slt y))
def execSltn (d a b : Reg) (s : State) : Result := aluR s d a b (fun x y => flag (x.ult y))
def execMin (d a b : Reg) (s : State) : Result := aluR s d a b (fun x y => if x.slt y then x else y)
def execMax (d a b : Reg) (s : State) : Result := aluR s d a b (fun x y => if x.slt y then y else x)
def execMinn (d a b : Reg) (s : State) : Result := aluR s d a b (fun x y => if x.ult y then x else y)
def execMaxn (d a b : Reg) (s : State) : Result := aluR s d a b (fun x y => if x.ult y then y else x)
def execClz (d a : Reg) (s : State) : Result := aluI s d a (fun x => BitVec.ofNat 64 (leadingZeros x.toNat 64))
def execPopc (d a : Reg) (s : State) : Result := aluI s d a (fun x => BitVec.ofNat 64 (oneBits x.toNat 64))

def execAddi (d a : Reg) (i : BitVec 16) (s : State) : Result := aluI s d a (fun x => x + i.signExtend 64)
def execAndi (d a : Reg) (i : BitVec 16) (s : State) : Result := aluI s d a (fun x => x &&& i.setWidth 64)
def execOri (d a : Reg) (i : BitVec 16) (s : State) : Result := aluI s d a (fun x => x ||| i.setWidth 64)
def execXori (d a : Reg) (i : BitVec 16) (s : State) : Result := aluI s d a (fun x => x ^^^ i.setWidth 64)
def execShli (d a : Reg) (i : BitVec 6) (s : State) : Result := aluI s d a (fun x => x <<< i.toNat)
def execShri (d a : Reg) (i : BitVec 6) (s : State) : Result := aluI s d a (fun x => x >>> i.toNat)
def execSrai (d a : Reg) (i : BitVec 6) (s : State) : Result := aluI s d a (fun x => x.sshiftRight i.toNat)
def execSlti (d a : Reg) (i : BitVec 16) (s : State) : Result := aluI s d a (fun x => flag (x.slt (i.signExtend 64)))
def execSltni (d a : Reg) (i : BitVec 16) (s : State) : Result := aluI s d a (fun x => flag (x.ult (i.signExtend 64)))

/-- A word with its 16-bit chunk `c` replaced (R300). -/
def setChunk (x : Word) (c : BitVec 2) (i : BitVec 16) : Word :=
  (x &&& ~~~(0xFFFF#64 <<< (16 * c.toNat))) ||| (i.setWidth 64 <<< (16 * c.toNat))

def execLimc (d : Reg) (c : BitVec 2) (i : BitVec 16) (s : State) : Result := writeRetire s d (setChunk (s.reg s.cur d) c i)

/-- The address `imm` words from a pc (R270, R301, R303). -/
def pcPlus (pc : Word) {n : Nat} (i : BitVec n) : Word := pc + (i.signExtend 64 <<< 2)

def execAddpc (d : Reg) (i : BitVec 16) (s : State) : Result := writeRetire s d (pcPlus (s.thread s.cur).pc i)

end Sys2Proof.Machine
end

