-- ==== Sys2Proof/Machine/Branch.lean ====
section
/-! DEFINITION. Branches and jumps (R303, R304). -/

namespace Sys2Proof.Machine

/-- A branch: taken or not, it retires and writes no register (R303). -/
def branch (s : State) (a b : Reg) (i : BitVec 16) (taken : Word → Word → Bool) : Result :=
  let t := s.thread s.cur
  if taken (t.reg a) (t.reg b) then .next (s.retireTo s.cur (pcPlus t.pc i)) else .next (s.retire s.cur)

def execBeq (a b : Reg) (i : BitVec 16) (s : State) : Result := branch s a b i (fun x y => x = y)
def execBne (a b : Reg) (i : BitVec 16) (s : State) : Result := branch s a b i (fun x y => x ≠ y)
def execBlt (a b : Reg) (i : BitVec 16) (s : State) : Result := branch s a b i (fun x y => x.slt y)
def execBge (a b : Reg) (i : BitVec 16) (s : State) : Result := branch s a b i (fun x y => !x.slt y)
def execBltn (a b : Reg) (i : BitVec 16) (s : State) : Result := branch s a b i (fun x y => x.ult y)
def execBgen (a b : Reg) (i : BitVec 16) (s : State) : Result := branch s a b i (fun x y => !x.ult y)

def execJmp (i : BitVec 26) (s : State) : Result := .next (s.retireTo s.cur (pcPlus (s.thread s.cur).pc i))

def execCall (i : BitVec 26) (s : State) : Result :=
  let pc := (s.thread s.cur).pc
  .next ((s.setReg s.cur 31 (pc + 4)).retireTo s.cur (pcPlus pc i))

/-- JMPR: the target is computed before gd is written (R296, R304). -/
def execJmpr (d a : Reg) (i : BitVec 16) (s : State) : Result :=
  let t := s.thread s.cur
  .next ((s.setReg s.cur d (t.pc + 4)).retireTo s.cur (t.reg a + i.signExtend 64))

end Sys2Proof.Machine
end

