-- ==== Sys2Proof/Machine/LoadStore.lean ====
section
/-! DEFINITION. Scalar loads, stores and atomics, and the synchronisation-cell instructions (R147, R148, R302, R305, R306, R442). -/

namespace Sys2Proof.Machine

/-- Bytes of a size code (R271). -/
def sizeBytes (c : BitVec 3) : Nat := 2 ^ (c.toNat / 2)

/-- The value an `n`-byte load gives gd: sign-extended for the codes .8i, .16i and .32i (R271, R302). -/
def extendLoad (c : BitVec 3) (x : Word) : Word :=
  match c with
  | 0 => (x.setWidth 8).signExtend 64
  | 2 => (x.setWidth 16).signExtend 64
  | 4 => (x.setWidth 32).signExtend 64
  | _ => x

/-- The effective address of LD and ST (R12). -/
def scalarEa (s : State) (a : Reg) (o : BitVec 11) : Word := s.reg s.cur a + o.signExtend 64

def execLd (g a : Reg) (c : BitVec 3) (p : BitVec 2) (o : BitVec 11) (s : State) : Result :=
  finishWrite s.cur g ((s.loadScalar s.cur (sizeBytes c = 8) p (scalarEa s a o) (sizeBytes c)).map (fun r => (extendLoad c r.1, r.2)))

def execSt (g a : Reg) (c : BitVec 3) (p : BitVec 2) (o : BitVec 11) (s : State) : Result :=
  finish s.cur ((s.storeScalar s.cur p (scalarEa s a o) (sizeBytes c) (s.reg s.cur g) (sizeBytes c = 8)).map (fun t => t.retire s.cur))

/-- An AMO's result in gd: zero-extended for MINN and MAXN, else sign-extended from W bits (R305). -/
def extendAmo (op bytes : Nat) (x : Word) : Word :=
  if bytes = 8 then x
  else if op = 8 ∨ op = 9 then (x.setWidth 32).setWidth 64
  else (x.setWidth 32).signExtend 64

/-- The AMO of a minor (R305). -/
def amo (op : Nat) (d a b : Reg) (l : BitVec 1) (o : BitVec 2) (c : BitVec 3) (w : BitVec 1) (s : State) : Result :=
  let n := if w = 1 then 8 else 4
  finishWrite s.cur d ((s.amoScalar s.cur op (if l = 1 then spaceLocal else spaceGlobal) (s.reg s.cur a) n (s.reg s.cur b) (s.reg s.cur d) o c).map
    (fun r => (extendAmo op n r.1, r.2)))

def execAmoAdd (d a b : Reg) (l : BitVec 1) (o : BitVec 2) (c : BitVec 3) (w : BitVec 1) (s : State) : Result := amo 0 d a b l o c w s
def execAmoAnd (d a b : Reg) (l : BitVec 1) (o : BitVec 2) (c : BitVec 3) (w : BitVec 1) (s : State) : Result := amo 1 d a b l o c w s
def execAmoOr (d a b : Reg) (l : BitVec 1) (o : BitVec 2) (c : BitVec 3) (w : BitVec 1) (s : State) : Result := amo 2 d a b l o c w s
def execAmoXor (d a b : Reg) (l : BitVec 1) (o : BitVec 2) (c : BitVec 3) (w : BitVec 1) (s : State) : Result := amo 3 d a b l o c w s
def execAmoSwp (d a b : Reg) (l : BitVec 1) (o : BitVec 2) (c : BitVec 3) (w : BitVec 1) (s : State) : Result := amo 4 d a b l o c w s
def execAmoCas (d a b : Reg) (l : BitVec 1) (o : BitVec 2) (c : BitVec 3) (w : BitVec 1) (s : State) : Result := amo 5 d a b l o c w s
def execAmoMin (d a b : Reg) (l : BitVec 1) (o : BitVec 2) (c : BitVec 3) (w : BitVec 1) (s : State) : Result := amo 6 d a b l o c w s
def execAmoMax (d a b : Reg) (l : BitVec 1) (o : BitVec 2) (c : BitVec 3) (w : BitVec 1) (s : State) : Result := amo 7 d a b l o c w s
def execAmoMinn (d a b : Reg) (l : BitVec 1) (o : BitVec 2) (c : BitVec 3) (w : BitVec 1) (s : State) : Result := amo 8 d a b l o c w s
def execAmoMaxn (d a b : Reg) (l : BitVec 1) (o : BitVec 2) (c : BitVec 3) (w : BitVec 1) (s : State) : Result := amo 9 d a b l o c w s

/-- SYTAS sets a cell to gb when it reads zero; its old value goes to gd (R442). -/
def execSytas (d a b : Reg) (o : BitVec 2) (c : BitVec 3) (s : State) : Result :=
  let v := s.reg s.cur b
  finishWrite s.cur d (s.cellScalar s.cur (s.reg s.cur a) o c (fun old => if old = 0 then some v else none))

/-- SYADD adds gb to a cell; its old value goes to gd (R442). -/
def execSyadd (d a b : Reg) (o : BitVec 2) (c : BitVec 3) (s : State) : Result :=
  let v := s.reg s.cur b
  finishWrite s.cur d (s.cellScalar s.cur (s.reg s.cur a) o c (fun old => some (old + v)))

/-- SYRD reads the mirror on the reader's die (R147, R442), as an access of the scalar stream (R119, R120). An acquire comes before
every later access (R130); a later load may be bound ahead of a relaxed one (R167; log 94). -/
def execSyrd (d a : Reg) (o : BitVec 1) (_c : BitVec 3) (s : State) : Result :=
  let ea := s.reg s.cur a
  finishWrite s.cur d do
    let s := s.orderScalar s.cur
    let s := if o = 1 then s.forgetEarly s.cur else s
    let (p, s) ← s.check (s.agentOf s.cur false) (s.regionOf (s.thread s.cur)) .read true true spaceSync ea 8
    match p with
    | .here l key => s.loadAt s.cur ea l key 8
    | _ => .error (.wait s)

end Sys2Proof.Machine
end

