-- ==== Sys2Proof/Machine/Csr.lean ====
section
/-! DEFINITION. Control and status registers (R52, R53, R238, R239, R250, R265 to R267, R295, R307, R308, R413) and the events that are their writes. -/

namespace Sys2Proof.Machine

/-- CSR numbers of the vector thread: VL to RAD, FSTAT to FCTL (R295). -/
def isVectorCsr (f : BitVec 12) : Bool := decide (f.toNat ≤ 7) || (decide (0x010 ≤ f.toNat) && decide (f.toNat ≤ 0x016))

/-- Supervisor CSRs, the trap CSRs of the task range among them (R238). -/
def isSupervisorCsr (f : BitVec 12) : Bool := (decide (0x030 ≤ f.toNat) && decide (f.toNat ≤ 0x037)) || (decide (0x800 ≤ f.toNat) && decide (f.toNat ≤ 0xBFF))

/-- The bits a writable CSR does not reserve; none for a read-only one (R11, R52, R96, R180, R184, R210, R239, R250, R265, R295). -/
def csrMask (f : BitVec 12) : Option Word :=
  match f.toNat with
  | 0x005 => some 0xFFFFFFFF
  | 0x007 => some 0x3F
  | 0x010 => some 0x1F
  | 0x016 => some 0x1F
  | 0x030 => some 0x3F
  | 0x031 => some 0xFFFFFFFFFFFFFFFC
  | 0x032 => some 0xFFFFFFFFFFFFFFFF
  | 0x035 => some 0xEB
  | 0x036 => some 0xFFFFFFFFFFFFFFFC
  | 0x037 => some 0xFFFFFFFFFFFFFFFF
  | 0x800 => some 0x00003FFFFFFFFF00
  | 0x804 => some 0x00003FFFFFFFFF80
  | 0x805 => some 0xFFFFF
  | 0x806 => some 0x00003FFFFFFFFFC0
  | 0x807 => some 0x3FFFFFFFF
  | 0x808 => some 0x00003FFFFFF80000
  | 0x809 => some 0xFFF
  | 0x80B => some 0x80000000FFFFFFFF
  | _ => none

/-- TSTATUS (R239). -/
def tstatus (t : CThread) : Word :=
  BitVec.ofNat 64 ((if t.wh then 128 else 0) + (if t.vh then 64 else 0) + (if t.ret then 32 else 0) + (if t.nest then 8 else 0) + t.ppriv.toNat)

/-- RSTAT (R413). -/
def rstat (s : State) (t : CThread) : Word :=
  let base := t.rstatus * 2 ^ 56
  match t.race with
  | none => BitVec.ofNat 64 base
  | some (c, h) =>
    match (s.race? c).bind (fun x => Tab.find h x.shards) with
    | none => BitVec.ofNat 64 base
    | some x =>
      let st := match x.st with | .active => 0 | .dropped => 1 | .finished => 2 | .ranking => 3 | .ended => 4
      BitVec.ofNat 64 (base + c * 2 ^ 50 + 2 ^ 49 + (x.heap.filter (fun e => !e.removed)).length * 2 ^ 32 + x.rounds % 2 ^ 16 * 2 ^ 16 + h * 64 + st * 8)

/-- A CSR whose read waits until the vector work enqueued before it has completed (R267, R413). -/
def csrWaits (f : BitVec 12) : Bool := (decide (0x010 ≤ f.toNat) && decide (f.toNat ≤ 0x015)) || f = 0x060

/-- The value of a CSR; a write-only CSR and an unlisted number read zero (R295, R307). -/
def csrValue (s : State) (tid : Nat) (f : BitVec 12) : Word :=
  let t := s.thread tid
  let v := s.vthread tid
  let n := fun (x : Nat) => BitVec.ofNat 64 x
  match f.toNat with
  | 0x000 => n t.pvl
  | 0x001 => n t.pvr
  | 0x002 => n (maxlOf (s.core (tid / 4)).split)
  | 0x003 => n maxr
  | 0x004 => if t.vh then n (t.heldV.elim 0 (fun w => w.vstart)) else 0
  | 0x005 => t.pfill.setWidth 64
  | 0x006 => t.vseq.setWidth 64
  | 0x007 => n t.prad
  | 0x008 => n (s.core (tid / 4)).split
  | 0x010 => v.fstat.setWidth 64
  | 0x011 => n (Tab.get 0 0 v.fidx)
  | 0x012 => n (Tab.get 0 1 v.fidx)
  | 0x013 => n (Tab.get 0 2 v.fidx)
  | 0x014 => n (Tab.get 0 3 v.fidx)
  | 0x015 => n (Tab.get 0 4 v.fidx)
  | 0x016 => t.pfctl.setWidth 64
  | 0x020 => t.wstep
  | 0x030 => t.tcause.setWidth 64
  | 0x031 => t.tpc
  | 0x032 => t.tval
  | 0x033 => t.tseq.setWidth 64
  | 0x034 => t.tblk.setWidth 64
  | 0x035 => tstatus t
  | 0x036 => t.tvec
  | 0x037 => t.tscratch
  | 0x040 => n t.index
  | 0x041 => (s.gangOfTask t).elim 0 (fun g => g.id.setWidth 64)
  | 0x042 => n (tid / 4)
  | 0x043 => n (tid / 64)
  | 0x044 => n (s.modnum % 1024)
  | 0x045 => n (tid % 4)
  | 0x050 => n (s.core (tid / 4)).cycle
  | 0x051 => n t.icount
  | 0x052 => n (s.die (tid / 64)).ageclk
  | 0x060 => rstat s t
  | 0x0F0 => 0xFFFB000000000000
  | 0x800 => (s.vi t.vi).astbase
  | 0x801 => n (s.asnOf t)
  | 0x802 => t.xinfo
  | 0x803 => n ((s.vi t.vi).syncCount * 2 ^ 16 + (s.vi t.vi).syncFirst)
  | 0x804 => (s.vi t.vi).frpool
  | 0x805 => (s.vi t.vi).fabtmo
  | 0x806 => (s.vi t.vi).fqbase
  | 0x808 => (s.vi t.vi).rgnbase
  | 0x80A => n (s.regionOf t)
  | 0x80B => t.wdog
  | 0x80C => t.tvaddr
  | _ => 0

/-- The first three checks of R238; the word is the faulting one. -/
def csrChecks (s : State) (tid : Nat) (f : BitVec 12) (word : Word) : Except Stop Unit :=
  if !csrMapped f then trapNow s causeIllegal word
  else if decide (0xC00 ≤ f.toNat) || (isSupervisorCsr f && (s.thread tid).priv = .task) then trapNow s causePriv word
  else if isVectorCsr f && !s.hasVector tid then trapNow s causeBadSplit word
  else .ok ()

namespace State

/-- A register without behaviour of its own stores the new value (R307). -/
def storeCsr (s : State) (tid : Nat) (f : BitVec 12) (v : Word) : State :=
  let t := s.thread tid
  let x := s.vi t.vi
  match f.toNat with
  | 0x030 => s.setThread tid { t with tcause := v.setWidth 6 }
  | 0x031 => s.setThread tid { t with tpc := v }
  | 0x032 => s.setThread tid { t with tval := v }
  | 0x036 => s.setThread tid { t with tvec := v }
  | 0x037 => s.setThread tid { t with tscratch := v }
  | 0x800 => s.setVi t.vi { x with astbase := v }
  | 0x804 => s.setVi t.vi { x with frpool := v }
  | 0x805 => s.setVi t.vi { x with fabtmo := v }
  | 0x806 => s.setVi t.vi { x with fqbase := v }
  | 0x808 => s.setVi t.vi { x with rgnbase := v }
  | _ => s

/-- A write of WDOG sets the watchdog and restarts its count (R250). -/
def writeWdog (s : State) (tid : Nat) (v : Word) : State := s.setThread tid { s.thread tid with wdog := v, wdogCount := 0 }

/-- A write of a region number to DOMSTOP stops its fault domain; a region that is not valid is left alone (R210, R234). -/
def writeDomstop (s : State) (vi region : Nat) : State :=
  if (s.chain vi region).isNone then s else s.setHub { s.hub with stops := s.hub.stops ++ [(vi, region, 1)] }

/-- A write of TSTATUS that its rule allows: NEST and PPRIV, and a 0 in VH or WH discards the held work (R239, R244). -/
def writeTstatus (s : State) (tid : Nat) (v : Word) : State :=
  let t := s.thread tid
  let s := if t.vh && !v.getLsbD 6 then s.discardVector tid else s
  let s := if t.wh && !v.getLsbD 7 then s.discardWmu tid else s
  s.setThread tid { s.thread tid with nest := v.getLsbD 3, ppriv := v.setWidth 2 }

end State

/-- A value that a CSR's own rule refuses (R180, R184, R239). -/
def csrRefuses (s : State) (tid : Nat) (f : BitVec 12) (v : Word) : Bool :=
  let t := s.thread tid
  match f.toNat with
  | 0x035 => (v.getLsbD 6 && !t.vh) || (v.getLsbD 7 && !t.wh) || v.getLsbD 5 != t.ret
  | 0x805 => let n := bits v 19 0; (decide (1 ≤ n) && decide (n ≤ 999)) || decide (1000000 < n)
  | 0x807 => bits v 33 32 = 0 || bits v 33 32 = 3
  | _ => false

/-- The write of a CSR that takes effect at once (R307). -/
def csrStore (s : State) (tid : Nat) (f : BitVec 12) (v : Word) : State :=
  let t := s.thread tid
  match f.toNat with
  | 0x035 => s.writeTstatus tid v
  | 0x807 => s.resolveFault t.vi (bits v 31 0) (bits v 33 32 = 1)
  | 0x809 => s.writeDomstop t.vi (bits v 11 0)
  | 0x80B => s.writeWdog tid v
  | _ => s.storeCsr tid f v

/-- The new value of a CSR write: CSRW, CSRS or CSRC (R307). -/
def csrNew (mode : Nat) (old x : Word) : Word :=
  match mode with
  | 1 => x
  | 2 => old ||| x
  | _ => old &&& ~~~x

/-- The number of entries of a vector thread's command queue; the one in execution stands at its head (R207, R309). -/
def VectorWork.entries (w : VectorWork) : Nat := w.vcq.length

namespace State

/-- Enqueues a VCQ entry with the next sequence number, or waits while the queue holds 32 (R309). -/
def enqueue (s : State) (tid : Nat) (op : VcqOp) : Except Stop State :=
  let v := s.vthread tid
  if 32 ≤ v.work.entries then .error (.wait s)
  else
    let t := s.thread tid
    let n := t.vseq + 1
    .ok ((s.setThread tid { t with vseq := n }).setVthread tid
      { v with work := { v.work with vcq := v.work.vcq ++ [{ seq := n, op := op, nested := t.nest || t.vh, aside := t.wh }] } })

/-- Enqueues an entry for a thread that has a vector thread; BAD_SPLIT otherwise (R205). -/
def enqueueOr (s : State) (tid : Nat) (op : VcqOp) (word : Word) : Except Stop State :=
  if !s.hasVector tid then trapNow s causeBadSplit word else s.enqueue tid op

end State

/-- The latest program-order copies of FILL, RAD and FCTL after a queued write (R53, R267). -/
def programOrder (t : CThread) (f : BitVec 12) (mode : Nat) (x : Word) : CThread :=
  match f.toNat with
  | 0x005 => { t with pfill := (csrNew mode (t.pfill.setWidth 64) x).setWidth 32 }
  | 0x007 => { t with prad := (csrNew mode (BitVec.ofNat 64 t.prad) x).toNat % 64 }
  | 0x016 => { t with pfctl := (csrNew mode (t.pfctl.setWidth 64) x).setWidth 5 }
  | _ => t

/-- CSRW, CSRS and CSRC: the checks of R238, the write, and the old value to gd (R307, R308). -/
def csrWrite (mode : Nat) (d a : Reg) (f : BitVec 12) (word : Word) (s : State) : Result :=
  let tid := s.cur
  let x := s.reg tid a
  finish tid do
    csrChecks s tid f word
    let old := csrValue s tid f
    match csrMask f with
    | none => trapNow s causeIllegal word
    | some m =>
      if csrQueued f then
        if mode ≠ 3 && x &&& ~~~m ≠ 0 then trapNow s causeIllegal word
        else
          let s ← s.enqueue tid (.csr f mode x)
          .ok ((s.setThread tid (programOrder (s.thread tid) f mode x)).retire tid)
      else
        let v := csrNew mode old x
        if mode ≠ 3 && v &&& ~~~m ≠ 0 then trapNow s causeIllegal word
        else if csrRefuses s tid f v then trapNow s causeIllegal word
        else .ok (((csrStore s tid f v).setReg tid d old).retire tid)

def execCsrr (d : Reg) (f : BitVec 12) (s : State) : Result :=
  finishWrite s.cur d do
    csrChecks s s.cur f (Instr.csrr d f).word
    if csrWaits f && !s.vectorQuiet s.cur then .error (.wait s) else .ok (csrValue s s.cur f, s)

def execCsrw (d a : Reg) (f : BitVec 12) (s : State) : Result := csrWrite 1 d a f (Instr.csrw d a f).word s
def execCsrs (d a : Reg) (f : BitVec 12) (s : State) : Result := csrWrite 2 d a f (Instr.csrs d a f).word s
def execCsrc (d a : Reg) (f : BitVec 12) (s : State) : Result := csrWrite 3 d a f (Instr.csrc d a f).word s

/-- The thread a CSR event concerns is the current one, and it is in supervisor privilege. -/
def csrWriter (s : State) : Bool := (s.thread s.cur).live && (s.thread s.cur).priv = .supervisor

/-- A write of DOMSTOP (R210). -/
def execDomstop (region : BitVec 12) (s : State) : Result :=
  if csrWriter s then done (s.writeDomstop (s.thread s.cur).vi region.toNat) else done s

/-- A write of FQRES with ACTION = 01 (R185). -/
def execFqresRetry (seq : BitVec 32) (s : State) : Result :=
  if csrWriter s then done (s.resolveFault (s.thread s.cur).vi seq.toNat true) else done s

/-- A write of FQRES with ACTION = 10 (R185). -/
def execFqresRefuse (seq : BitVec 32) (s : State) : Result :=
  if csrWriter s then done (s.resolveFault (s.thread s.cur).vi seq.toNat false) else done s

/-- A write of WDOG (R250). -/
def execWdogWrite (v : Word) (s : State) : Result :=
  if csrWriter s && v &&& ~~~0x80000000FFFFFFFF#64 = 0 then done (s.writeWdog s.cur v) else done s

/-- A write of 0 to VH (R244). -/
def execTstatusVhDiscard (s : State) : Result :=
  if csrWriter s && (s.thread s.cur).vh then done (s.discardVector s.cur) else done s

/-- A write of 0 to WH (R244). -/
def execTstatusWhDiscard (s : State) : Result :=
  if csrWriter s && (s.thread s.cur).wh then done (s.discardWmu s.cur) else done s

/-- A write of a register without behaviour of its own (R307). -/
def execRegisterWrite (f : BitVec 12) (v : Word) (s : State) : Result :=
  if csrWriter s && (csrMask f).any (fun m => v &&& ~~~m = 0) && !csrRefuses s s.cur f v then done (s.storeCsr s.cur f v) else done s

end Sys2Proof.Machine
end

