-- ==== Sys2Proof/Machine/Vcq.lean ====
section
/-! DEFINITION. The vector command queue, the split and the fences (R53, R205, R208, R308 to R316). -/

namespace Sys2Proof.Machine

/-- VL and VR of a flat SETLEN (R310). -/
def flatShape (maxl n : Nat) : Nat × Nat := if maxl ≤ n then (maxl, Nat.min (n / maxl) maxr) else (n, 1)

/-- Enqueues a SETLEN with its shape, its value in gd and the program-order copies (R310). -/
def setlenTo (d : Reg) (word : Word) (shape : Nat × Nat) (v : Word) (s : State) : Result :=
  let tid := s.cur
  finishWrite tid d do
    let s ← s.enqueueOr tid (.setlen shape.1 shape.2) word
    .ok (v, s.setThread tid { s.thread tid with pvl := shape.1, pvr := shape.2 })

def execSetlen (d a : Reg) (s : State) : Result :=
  let x := flatShape (maxlOf (s.core (s.cur / 4)).split) (s.reg s.cur a).toNat
  setlenTo d (Instr.setlen d a).word x (BitVec.ofNat 64 (x.1 * x.2)) s

def execSetlen2d (d a : Reg) (s : State) : Result :=
  let g := s.reg s.cur a
  let vl := Nat.min (bits g 31 0) (maxlOf (s.core (s.cur / 4)).split)
  let vr := Nat.min (bits g 63 32) maxr
  setlenTo d (Instr.setlen2d d a).word (vl, vr) (BitVec.ofNat 64 (vr * 2 ^ 32 + vl)) s

/-- The vector work of a core has drained, and no other thread of it holds vector work (R208, R311). -/
def splitReady (s : State) (core tid : Nat) : Bool :=
  [0, 1, 2, 3].all (fun i => s.vectorQuiet (4 * core + i) && (s.thread (4 * core + i)).behind.isNone && (4 * core + i = tid || !(s.thread (4 * core + i)).vh))

/-- Carries out the pending split of a core once its vector work has drained; the asking instruction retires (R208, R311). -/
def changeSplit (s : State) (core : Nat) (word : Word) : Except Stop State :=
  match (s.core core).pendSplit with
  | none => .error (.wait s)
  | some (n, tid) =>
    if !splitReady s core tid then .error (.wait s)
    else if maxlOf n < (s.vthread (4 * core)).vl then
      .error (.trap (s.setCore core { s.core core with pendSplit := none }) causeIllegal word none)
    else
      let s := [0, 1, 2, 3].foldl (fun (s : State) i => s.flushVector (4 * core + i) (fun _ => true)) s
      .ok ((s.setSplit core n).retire tid)

/-- VSPLIT and VMERGE ask for a split, and wait for it (R208, R311). -/
def askSplit (n : Nat) (word : Word) (s : State) : Result :=
  let tid := s.cur
  let core := tid / 4
  finish tid (
    if (s.thread tid).vh then trapNow s causeIllegal word
    else match (s.core core).pendSplit with
      | some (m, t) => if t = tid && m = n then changeSplit s core word else .error (.wait s)
      | none => changeSplit (s.setCore core { s.core core with pendSplit := some (n, tid) }) core word)

def execVsplit (n : BitVec 12) (s : State) : Result := askSplit n.toNat (Instr.vsplit n).word s

def execVmerge (s : State) : Result :=
  if !s.hasVector s.cur then finish s.cur (trapNow s causeBadSplit Instr.vmerge.word) else askSplit 1 Instr.vmerge.word s

/-- The pending split of a core takes effect (R208). -/
def execSplitChange (core : Nat) (s : State) : Result :=
  match (s.core core).pendSplit with
  | none => done s
  | some (n, tid) => finish tid (changeSplit s core (Instr.vsplit (BitVec.ofNat 12 n)).word)

def execVarg (a : Reg) (k : BitVec 3) (s : State) : Result :=
  finish s.cur ((s.enqueueOr s.cur (.varg k.toNat (s.reg s.cur a)) (Instr.varg a k).word).map (fun t => t.retire s.cur))

/-- VPOP takes the oldest entry of the return queue (R313). -/
def execVpop (d : Reg) (s : State) : Result :=
  let tid := s.cur
  finishWrite tid d (
    if !s.hasVector tid then trapNow s causeBadSplit (Instr.vpop d).word
    else match (s.vthread tid).ret with
      | [] => .error (.wait s)
      | x :: xs => .ok (x, s.setVthread tid { s.vthread tid with ret := xs }))

/-- An entry stands in the queue, in execution or in held work. -/
def VectorWork.has (w : VectorWork) (n : BitVec 16) : Bool := w.vcq.any (fun e => e.seq = n) || w.run.any (fun r => r.seq = n)

/-- The entry of a sequence number has completed (R314). -/
def entryDone (s : State) (tid : Nat) (n : BitVec 16) : Bool :=
  let t := s.thread tid
  !(s.vthread tid).work.has n && !t.heldV.any (fun w => w.has n) && !t.behind.any (fun w => w.has n)
  && !(decide (1 ≤ (n - t.vdone).toNat) && decide ((n - t.vdone).toNat ≤ 2 ^ 15 - 1))

def execVqwait (a : Reg) (s : State) : Result :=
  let tid := s.cur
  finish tid (
    if !s.hasVector tid then trapNow s causeBadSplit (Instr.vqwait a).word
    else if entryDone s tid ((s.reg tid a).setWidth 16) then .ok (s.retire tid) else .error (.wait s))

def execVqwaitAll (s : State) : Result :=
  let tid := s.cur
  finish tid (
    if !s.hasVector tid then trapNow s causeBadSplit Instr.vqwaitAll.word
    else if s.vectorQuiet tid then .ok (s.retire tid) else .error (.wait s))

def execVseq (d : Reg) (s : State) : Result :=
  let tid := s.cur
  let t := s.thread tid
  finishWrite tid d (
    if !s.hasVector tid then trapNow s causeBadSplit (Instr.vseq d).word
    else .ok (BitVec.ofNat 64 (t.vseq.toNat * 2 ^ 16 + t.vdone.toNat), s))

/-- Enqueues a vector block (R315). -/
def enqueueBlock (addr word : Word) (s : State) : Result :=
  let tid := s.cur
  finish tid (
    if !s.hasVector tid then trapNow s causeBadSplit word
    else if addr.toNat % 8 ≠ 0 then .error (.trap s causeMisalign addr (some (xinfoOf 0 0 .blockFetch)))
    else (s.enqueue tid (.block addr (s.thread tid).geom)).map (fun t => t.retire tid))

def execVfLabel (i : BitVec 16) (s : State) : Result :=
  enqueueBlock (((s.thread s.cur).pc &&& ~~~7#64) + (i.signExtend 64 <<< 3)) (Instr.vfLabel i).word s

def execVfReg (a : Reg) (i : BitVec 16) (s : State) : Result :=
  enqueueBlock (s.reg s.cur a + (i.signExtend 64 <<< 3)) (Instr.vfReg a i).word s

/-- A fence enters the VCQ of a thread that has a vector thread, and retires (R205, R316). -/
def fenceEntry (s : State) (tid : Nat) (op : VcqOp) : Except Stop State :=
  if !s.hasVector tid then .ok (s.retire tid) else (s.enqueue tid op).map (fun t => t.retire tid)

/-- FENCE.SV: every earlier scalar access has taken effect when it retires (R125). -/
def execFenceSv (s : State) : Result :=
  finish s.cur (fenceEntry (if s.hasVector s.cur then s.flushScalar s.cur else s) s.cur .fenceSv)

/-- FENCE.VS: it waits until every earlier vector access has taken effect (R38, R125, R316). -/
def execFenceVs (s : State) : Result :=
  let tid := s.cur
  finish tid (
    if !s.hasVector tid then .ok (s.retire tid)
    else if !s.accessesMade tid then .error (.wait s)
    else fenceEntry ((s.flushVector tid (fun _ => true)).forgetEarly tid) tid .fenceVs)

def execFenceVv (s : State) : Result := finish s.cur (fenceEntry s s.cur .fenceVv)

/-- The scoped FENCE: a release, an acquire or both at a scope, which every later access waits for (R128 to R133, R316). -/
def execFenceScoped (o : BitVec 2) (c : BitVec 3) (s : State) : Result :=
  let tid := s.cur
  finish tid do
    let s ← (if orderReleases o then s.releaseReady tid c
      else if s.accessesMade tid then .ok s else .error (.wait s))
    fenceEntry (s.forgetEarly tid) tid (.fence o c)

/-- A vector CSR takes the value of a queued write (R53, R267, R308). -/
def VThread.putCsr (v : VThread) (f : BitVec 12) (mode : Nat) (x : Word) : VThread :=
  match f.toNat with
  | 0x005 => { v with fill := (csrNew mode (v.fill.setWidth 64) x).setWidth 32 }
  | 0x007 => { v with rad := (csrNew mode (BitVec.ofNat 64 v.rad) x).toNat % 64 }
  | 0x010 =>
    let n : BitVec 5 := (csrNew mode (v.fstat.setWidth 64) x).setWidth 5
    { v with fstat := n, fidx := v.fidx.filter (fun e => n.getLsbD e.1) }
  | 0x016 => { v with fctl := (csrNew mode (v.fctl.setWidth 64) x).setWidth 5 }
  | _ => v

namespace State

/-- The head entry of a vector thread's queue completes (R309, R314). -/
def popEntry (s : State) (tid : Nat) (e : VcqEntry) : State :=
  let v := s.vthread tid
  (s.setVthread tid { v with work := { v.work with vcq := v.work.vcq.drop 1, kept := v.work.kept.filter (fun k => k.1 ≠ e.seq) }, idleFrom := (s.core (tid / 4)).cycle }).setThread tid { s.thread tid with vdone := e.seq }

/-- A vector entry or instruction raises a held trap; its thread's vector work stands until it is taken (R240, R242). -/
def raiseVector (s : State) (tid : Nat) (cause : BitVec 6) (tval tvaddr : Word) (seq : BitVec 16) (blk : Nat) (nested : Bool) (xinfo : Option Word) : State :=
  let v := s.vthread tid
  (s.setVthread tid { v with work := { v.work with faulted := true } }).raiseHeld tid
    { kind := .vector, cause := cause, tval := tval, tvaddr := tvaddr, tseq := seq, tblk := BitVec.ofNat 8 blk, nested := nested, xinfo := xinfo }

/-- A CSR entry takes effect with the value it finds (R53, R267, R308). -/
def queuedCsr (s : State) (tid : Nat) (f : BitVec 12) (mode : Nat) (x : Word) : State :=
  s.setVthread tid ((s.vthread tid).putCsr f mode x)

/-- A configuration entry of a shard takes effect, or raises RACE_CTX (R410). -/
def queuedRcfg (s : State) (tid : Nat) (e : VcqEntry) (f : Nat) (x : Word) : State :=
  match (s.thread tid).race with
  | none => s.popEntry tid e
  | some (c, h) =>
    match s.race? c with
    | none => s.popEntry tid e
    | some r =>
      match Tab.find h r.shards with
      | none => s.popEntry tid e
      | some sh =>
        if raceInvalid f x || sh.touched then
          s.raiseVector tid causeRaceCtx (BitVec.ofNat 64 c) 0 e.seq 0 e.nested none
        else (s.setRace c { r with shards := Tab.put h { sh with cfg := Tab.put f x sh.cfg } r.shards }).popEntry tid e

end State

/-- Every earlier vector access of a thread has taken effect, which ends what its VSBARs hold back (R124, R125). -/
def State.vectorFence (s : State) (tid : Nat) : State :=
  let s := s.flushVector tid (fun _ => true)
  s.setVthread tid { s.vthread tid with bars := [] }

/-- The head entry of the current thread's queue, when it is no block and nothing runs before it, takes effect (R309). A WMACS
completes once nothing of it is left, running or held (R243, R392). The earlier accesses that the other fences order took effect before
they were enqueued (R316). -/
def execVcqEntryExecute (s : State) : Result :=
  let tid := s.cur
  let v := s.vthread tid
  match v.work.vcq, v.work.run, v.work.faulted with
  | e :: _, none, false =>
    match e.op with
    | .block _ _ => done s
    | .varg k x => done ((s.setVthread tid { v with bargs := Tab.write 0 k x v.bargs }).popEntry tid e)
    | .setlen vl vr => done ((s.setVthread tid { v with vl := vl, vr := vr }).popEntry tid e)
    | .csr f mode x => done ((s.queuedCsr tid f mode x).popEntry tid e)
    | .rcfg f x => done (s.queuedRcfg tid e f x)
    | .wmacs i =>
      let k := s.core (tid / 4)
      if k.wmacs.any (fun m => m.id = i && !m.complete) || (s.thread tid).heldS.any (fun m => m.id = i) then done (s.makeWay tid)
      else done ((s.setCore (tid / 4) { k with wmacs := k.wmacs.filter (fun m => m.id ≠ i) }).popEntry tid e)
    | .fenceVv => done ((s.vectorFence tid).popEntry tid e)
    | .fenceSv => done (s.popEntry tid e)
    | .fenceVs => done (s.popEntry tid e)
    | .fence _ _ => done (s.popEntry tid e)
  | _, _, _ => done s

end Sys2Proof.Machine
end

