-- ==== Sys2Proof/Machine/System.lean ====
section
/-! DEFINITION. The system instructions (R37 to R39, R102, R217, R222, R317 to R321) and the events of the trap machinery and the dispatchers (R221, R222, R240, R250, R286). -/

namespace Sys2Proof.Machine

/-- TRAP: a retired trap with the code in TVAL (R317). -/
def execTrap (c : BitVec 12) (s : State) : Result := finishRetired s s.cur causeTrapInsn (c.setWidth 64) none

/-- RTE (R244). -/
def execRte (s : State) : Result := finish s.cur (s.returnFromTrap s.cur Instr.rte.word)

/-- BRK: an instruction trap (R317). -/
def execBrk (s : State) : Result := finish s.cur (trapNow s causeBreak 0)

/-- WFE of a thread: it reads its word, and retires once it differs from gb (R318). -/
def wfeOn (tid : Nat) (d a b : Reg) (p : BitVec 2) (s : State) : Result :=
  let x := s.reg tid b
  let bound := (s.thread tid).early
  finish tid (
    match s.loadScalar tid false p (s.reg tid a) 8 with
    | .ok (v, s) =>
      let s := s.keepBound tid p (s.reg tid a) bound
      if v ≠ x then .ok ((s.setReg tid d v).retire tid)
      else .error (.wait (s.setThread tid { s.thread tid with wait := .wfe d a b p }))
    | .error e => .error e)

def execWfe (d a b : Reg) (p : BitVec 2) (s : State) : Result := wfeOn s.cur d a b p s

/-- A waiting WFE reads its word again (R318). -/
def execWfeWake (tid : Nat) (s : State) : Result :=
  match (s.thread tid).wait with
  | .wfe d a b p => wfeOn tid d a b p s
  | _ => done s

/-- The entries that stand in a vector thread's queue keep the words of the block cache (R321). -/
def State.keepFetches (s : State) (tid : Nat) : State :=
  let keep := fun (w : VectorWork) => if w.vcq = [] then w else { w with kept := w.kept ++ [((s.thread tid).vseq, (s.core (tid / 4)).bcache)] }
  let v := s.vthread tid
  let t := s.thread tid
  let s := if v.work.vcq = [] then s else s.setVthread tid { v with work := keep v.work }
  if t.behind = none then s else s.setThread tid { t with behind := t.behind.map keep }

/-- IFLUSH empties the fetch caches of the executing core; what has been fetched for entries before it is kept (R321). -/
def execIflush (s : State) : Result :=
  let core := s.cur / 4
  let s := [0, 1, 2, 3].foldl (fun s i => State.keepFetches s (4 * core + i)) s
  .next ((s.setCore core { s.core core with icache := [], bcache := [] }).retire s.cur)

namespace State

/-- The quantum check finds a queued gang at a gang's level or above that would fit in its place (R222). -/
def quantumDue (s : State) (g : Gang) : Bool :=
  s.gangs.any (fun e => e.2.isQueued && decide (s.runLevel g ≤ e.2.level) && s.saveDone e.2 &&
    (s.chain e.2.vi e.2.region).any (fun c => s.fits e.2 c [g]))

/-- The effective QUANTUM of a gang (R212). -/
def quantumOf (s : State) (g : Gang) : Nat := (s.chain g.vi g.region).elim 0 (fun c => effective 4 c)

/-- The quantum check of a gang (R222): it is pre-empted, unless its QUANTUM is 0, or its quantum starts anew and the dispatchers
decide (R220). -/
def checkQuantum (s : State) (key : Nat) : State :=
  match s.gang? key with
  | none => s
  | some g =>
    if !g.isPlaced || g.stopping then s
    else if s.quantumOf g ≠ 0 && s.quantumDue g then (s.preempt key g).decideAll
    else (s.setGang key { g with quantumFrom := s.clockOf g }).decideAll

end State

/-- YIELD retires and applies the quantum check at once (R319). -/
def execYield (s : State) : Result := done ((s.retire s.cur).checkQuantum (s.thread s.cur).gang)

/-- A placed gang's quantum has passed (R222). -/
def execQuantumExpiry (gang : Nat) (s : State) : Result :=
  match s.gang? gang with
  | none => done s
  | some g =>
    let q := s.quantumOf g
    if g.isPlaced && q ≠ 0 && decide (g.quantumFrom + q ≤ s.clockOf g) then done (s.checkQuantum gang) else done s

/-- A queued gang has waited for STARVE (R221). -/
def execStarveRaise (gang : Nat) (s : State) : Result :=
  match s.gang? gang with
  | none => done s
  | some g =>
    let n := (s.chain g.vi g.region).elim 0 (fun c => effective 5 c)
    if g.isQueued && n ≠ 0 && decide (g.level < 15) && decide (g.since + n ≤ s.clockOf g) then
      done (s.setGang gang { g with level := g.level + 1, since := s.clockOf g, raised := g.raised + 1 }).decideAll
    else done s

/-- EXIT (R320): it waits for the vector work and the engine commands of the task. -/
def execExit (s : State) : Result :=
  let tid := s.cur
  let t := s.thread tid
  let mine := fun (l : List Cmd) => l.any (fun c => c.uid = t.uid)
  finish tid (
    if !s.vectorQuiet tid then .error (.wait s)
    else if s.cores.any (fun c => mine c.2.copyQ) || s.dies.any (fun d => mine d.2.pageQ) || mine s.hub.fcQ then .error (.wait s)
    else
      let s := (s.flushScalar tid).flushVector tid (fun _ => true)
      let s := match t.race with
        | some (c, h) => s.endShard c h
        | none => s
      let s := s.setThread tid { s.thread tid with icount := t.icount + 1 }
      .ok (s.endTask tid))

/-- The ordinary address at an offset behind a base. -/
def behind (base off : Nat) : Nat := (base + off) % 2 ^ 56

/-- The pages a TLBINV.pg names (R37): the address itself, or every target that the descriptors of its slab give it, in the table, at
a page engine that moves the slab or keeps it for a park record, and in the TLBs. -/
def invalidated (s : State) (tid asn : Nat) (va : Nat) : List Nat :=
  let vi := (s.thread tid).vi
  let id := va / 2 ^ 34 % 2 ^ 14
  let off := va % 2 ^ 34
  let both := fun (d : SlabDesc) => [behind d.base off, behind d.newbase off]
  if va / 2 ^ 48 % 256 = 0xFE then
    ((s.slabAt (tid / 64) vi asn id).elim [] (fun a => both (s.readSlab (tid / 64) vi a) ++ (s.engineSlab vi a).elim [] both))
      ++ ((s.cores.map (fun c => c.2.tlb)).flatten.filter (fun e => e.vi = vi && e.asn = asn && e.level = 4 && e.page = id)).map
          (fun e => behind (bits e.leaf 55 16 * 2 ^ 16) off)
  else [va]

/-- An earlier scalar store of a task has not performed at scope .m (R37). -/
def scalarUnperformed (s : State) (uid : Nat) : Bool :=
  [0, 1, 2, 3].any (fun d => (s.die d).egress.any (fun e => e.loc.home ≠ 5 && e.src.any (fun x => x.1 = uid)))

/-- TLBINV (R37 to R39): once the thread's scalar stores have performed, the translations go, and it retires when the accesses made
through them have ended. -/
def tlbinv (word : Word) (c : BitVec 3) (p : TlbEntry → Bool) (s : State) : Result :=
  let tid := s.cur
  let t := s.thread tid
  let cores := fun (k : Nat) => if c = 0 then k = tid / 4 else if c = 1 then k / 16 = tid / 64 else true
  finish tid (
    if t.priv = .task then trapNow s causePriv word
    else match t.wait with
      | .inval ids => if s.stillOut ids then .error (.wait s) else .ok (s.retire tid)
      | _ =>
        let s := (s.flushScalar tid).forgetEarly tid
        if scalarUnperformed s t.uid then .error (.wait s)
        else
          let s := (s.dropTranslations t.vi cores p).flushCores t.vi cores
          let ids := s.inFlight t.vi cores
          if ids = [] then .ok (s.retire tid) else .error (.wait (s.setThread tid { s.thread tid with wait := .inval ids })))

def execTlbinvPg (a : Reg) (c : BitVec 3) (n : BitVec 4) (s : State) : Result :=
  let va := (s.reg s.cur a).toNat % 2 ^ 56
  let pages := invalidated s s.cur n.toNat va
  tlbinv (Instr.tlbinvPg a c n).word c (fun e => e.asn = n.toNat &&
    (if e.level = 4 then va / 2 ^ 48 = 0xFE && e.page = va / 2 ^ 34 % 2 ^ 14 else pages.any (fun x => e.page = x / 2 ^ pageBits e.level))) s

def execTlbinvAs (c : BitVec 3) (n : BitVec 4) (s : State) : Result := tlbinv (Instr.tlbinvAs c n).word c (fun e => e.asn = n.toNat) s

def execTlbinvVi (c : BitVec 3) (s : State) : Result := tlbinv (Instr.tlbinvVi c).word c (fun _ => true) s

/-- What LAUNCH does with a descriptor it has read (R217). A malformed chain holds no region but its own (log 105). -/
def launchDesc (s : State) (tid : Nat) (d : Reg) (word : Word) (w : List Word) : Except Stop State :=
  let t := s.thread tid
  let cur := s.regionOf t
  let below := (s.chain t.vi (descRegion w)).any (fun c => c.any (fun x => x.1 = cur))
  if t.priv = .task && (descSup w || (descRegion w ≠ cur && !below)) then trapNow s causePriv word
  else
    let hold := fun (s : State) => (.error (.wait (s.setThread tid { s.thread tid with wait := .launch w })) : Except Stop State)
    match s.releaseReady tid 3 with
    | .error (.wait s) => hold s
    | .error e => .error e
    | .ok s =>
      match s.judgeLaunch t.vi w with
      | .error r => .ok ((s.setReg tid d (launchFail r)).retire tid)
      | .ok c =>
        if 1024 ≤ s.queueLength (effective 2 c) then hold s
        else
          let s := (s.setReg tid d (BitVec.ofNat 64 ((s.vi t.vi).launched % 2 ^ 20))).retire tid
          .ok (s.acceptGang t.vi w c none).2

/-- LAUNCH (R217). -/
def execLaunch (d a : Reg) (s : State) : Result :=
  let tid := s.cur
  let t := s.thread tid
  let ga := t.reg a
  let word := (Instr.launch d a).word
  finish tid (
    match t.wait with
    | .launch w => launchDesc s tid d word w
    | .request i =>
      match s.request i with
      | some { reply := some (.done vals), .. } =>
        launchDesc ((s.dropRequest i).setThread tid { t with wait := .none }) tid d word ((List.range 16).map (fun j => (Tab.find j vals).getD 0))
      | _ => (s.awaitReply tid i ga .read).map (fun r => r.2)
    | _ =>
      let s := s.flushScalar tid
      match s.check (s.agentOf tid false) (s.regionOf t) .read false false spaceGlobal ga 128 with
      | .error e => .error e
      | .ok (.here l key, s) =>
        if s.readsPoison (tid / 64) l 128 then .error (.trap s causeMachineCheck ga none)
        else
          let w := (List.range 16).map (fun j => wordOf (s.loadBytes (tid / 64) key (l.plus (8 * j)) 8))
          launchDesc (s.observe (tid / 64) t.uid l 128) tid d word w
      | .ok (.away m va, s) =>
        if s.egressHolds (tid / 64) (.remote m (s.vi t.vi).tag va) 128 then .error (.wait s)
        else
          let elems := (List.range 16).map (fun j => ({ idx := j, va := fullVa (va + 8 * j), n := 8, data := 0, cmp := 0 } : FabricElem))
          let (i, s) := s.sendRequest t.vi t.uid tid m .load elems false false t.nest t.pc
          .error (.wait (s.setThread tid { s.thread tid with wait := .request i }))
      | .ok (_, s) => .error (.trap s causePageProt ga (some (xinfoOf 4 0 .read))))

/-- The pages on which a park record's header and context lie, by their first address (R101, R102). -/
def parkPages (ga : Word) (n : Nat) : List Word :=
  let a := ga.toNat % 2 ^ 56
  let last := (a + 256 + n - 1) / 2 ^ 16
  ga :: (List.range (last - a / 2 ^ 16)).map (fun i => fullVa ((a / 2 ^ 16 + 1 + i) * 2 ^ 16))

/-- Checks one page of a park record as an 8-byte store, with PIN = 1, TIER = 00 and FR = 0 (R102). -/
def parkPage (s : State) (tid : Nat) (ea : Word) : Except Stop (Place × State) :=
  let t := s.thread tid
  match s.peekLeaf (tid / 64) t.vi (s.asnOf t) (ea.toNat % 2 ^ 56) with
  | some (_, l) =>
    if ea.toNat % 8 = 0 && canonical ea && (pteFr l.word || !ptePin l.word || pteTier l.word ≠ 0) then
      .error (.trap s causePageProt ea (some (xinfoOf 4 l.level .write)))
    else s.check (s.agentOf tid false) (s.regionOf t) .write true false spaceGlobal ea 8
  | none => s.check (s.agentOf tid false) (s.regionOf t) .write true false spaceGlobal ea 8

/-- Checks every page of a park record; the place of its header (R102). -/
def parkChecks (s : State) (tid : Nat) : List Word → Option Place → Except Stop (Option Place × State)
  | [], p => .ok (p, s)
  | a :: as, p =>
    match parkPage s tid a with
    | .error e => .error e
    | .ok (q, s) => parkChecks s tid as (p <|> some q)

/-- A slab that PARK may name: valid and not held by another record (R102). -/
def parkSlabOk (s : State) (tid id : Nat) : Bool :=
  let t := s.thread tid
  match s.slabAt (tid / 64) t.vi (s.asnOf t) id with
  | none => false
  | some a => let d := (s.engineSlab t.vi a).getD (s.readSlab (tid / 64) t.vi a); d.v && !d.malformed && !d.pk

/-- PARK passes its checks: the record enters SAVING (R102, R103), and the vector thread's registers enter retention (R79). The
compare-and-swap of STATE comes behind the stores to the control word that the die has buffered (R115), and a struck word of the header is
a machine check (R248). -/
def parkStart (s : State) (tid : Nat) (d : Reg) (ga word : Word) (at_ : Nat) (key : BitVec 256) : Except Stop State :=
  let t := s.thread tid
  let s := s.awaitEgress (tid / 64) (.hbm at_) 8
  let w := fun (off : Nat) => s.physWord (tid / 64) key (at_ + off)
  let ctrl := w 0
  let n := bits ctrl 7 4
  let slabs := (List.range (min n 8)).map (fun i => bits (w (0x40 + 8 * i)) 13 0)
  let tracked := s.recs.any (fun e => e.2.at_ = at_ && e.2.vi = t.vi)
  let k := s.core (tid / 4)
  let struck := fun (off n : Nat) => s.readsPoison (tid / 64) (.hbm (at_ + off)) n
  if ga.toNat % 256 ≠ 0 || bits ga 55 48 = 0xFE then trapNow s causeIllegal word
  else if struck 0 32 then trapNow s causeMachineCheck ga
  else if decide (1 ≤ n) && decide (n ≤ 8) && struck 64 (8 * n) then trapNow s causeMachineCheck (ga + 64)
  else if bits ctrl 63 8 ≠ 0 || decide (8 < n) || slabs.any (fun i => !parkSlabOk s tid i)
    || (s.gangOfTask t).any (fun g => decide (1 < g.ntask)) || (bits ctrl 2 0 ≠ 0 && bits ctrl 2 0 ≠ 5) || tracked then trapNow s causeIllegal word
  else match k.slots.find? (fun x => x.2.st ≠ .empty && x.2.own = tid % 4), k.accs.find? (fun x => x.2.st ≠ .empty && x.2.own = tid % 4), t.race with
    | some x, _, _ => trapNow s causeTileState (BitVec.ofNat 64 x.1)
    | none, some x, _ => trapNow s causeTileState (BitVec.ofNat 64 x.1)
    | none, none, some (c, _) => trapNow s causeRaceCtx (BitVec.ofNat 64 c)
    | none, none, none =>
      let h := bits (w 0x10) 31 0
      let d1 := bits (w 0x18) 31 0
      let d2 := bits (w 0x18) 63 32
      let (i, s) := s.freshId
      let (seed, s) := s.freshSeed
      let r : ParkRec :=
        { vi := t.vi, asn := s.asnOf t, va := ga, at_ := at_, key := key, die := tid / 64, gang := t.gang, st := .saving, gd := d, slabs := slabs
          hotTokens := if h = 0 then 4096 else h, d1 := if d1 = 0 then 20000 else d1, d2 := if d2 = 0 then 2000000 else d2
          hk := ctrl.getLsbD 3, parkage := 0, seed := seed, woken := false, demoted := 0, discarded := 0, promoted := 0, failed := 0
          firstFail := 0, failReason := 6, pages := [], hot := [], rest := [], hotFailed := false, dwell := [], wake := 0, lens := [], req := none, descs := [], resumed := false }
      let s := ((s.setRec i r).setRecState i .saving).setThread tid { s.thread tid with parked := some i }
      .ok (if s.hasVector tid then s.setVthread tid { s.vthread tid with retained := true } else s)

/-- The SAVING steps that the core takes: the VCQ drains, the release at .s, the context and its code, and the core is freed (R103). -/
def parkSave (s : State) (tid n : Nat) (r : ParkRec) : Except Stop State :=
  let t := s.thread tid
  let mine := fun (l : List Cmd) => l.any (fun c => c.uid = t.uid)
  if !s.vectorQuiet tid || s.cores.any (fun c => mine c.2.copyQ) || s.dies.any (fun d => mine d.2.pageQ) || mine s.hub.fcQ then .error (.wait s)
  else match s.releaseReady tid 4 with
    | .error e => .error e
    | .ok s =>
      match s.gang? t.gang with
      | none => .error (.wait s)
      | some g =>
        let split := (s.core (tid / 4)).split
        let pads := [(s.core (tid / 4)).scratch]
        if s.areaMoves r.die r.vi r.asn ((r.va.toNat + 256) % 2 ^ 56) (contextBytes split) then .error (.wait s)
        else
        let (sv, s) := s.takeTask tid
        let g' := { g with saved := [(sv.ct.index, sv)], splits := [split], pads := pads, seed := r.seed }
        match s.writeArea r.die r.vi r.asn ((r.va.toNat + 256) % 2 ^ 56) (contextBytes split) r.seed with
        | some s =>
          let s := (s.countCores g.vi g.held g.cores.length false).leaveCore (tid / 4) g.vi g.region
          let s := s.setGang t.gang { g' with st := .parked, cores := [], held := [], freed := [] }
          .ok (s.putCode r).decideAll
        | none => .ok ({ s with recs := Tab.del n s.recs }.failGang t.gang g')

/-- PARK (R102, R103). -/
def execPark (d a : Reg) (s : State) : Result :=
  let tid := s.cur
  let t := s.thread tid
  let ga := t.reg a
  finish tid (
    match t.parked.bind (fun n => (s.rec? n).map (fun r => (n, r))) with
    | some (n, r) =>
      if r.va = ga then parkSave s tid n r
      else trapNow s causeIllegal (Instr.park d a).word
    | none =>
      match parkChecks (s.flushScalar tid) tid (parkPages ga (contextBytes (s.core (tid / 4)).split)) none with
      | .error e => .error e
      | .ok (some (.here (.hbm x) key), s) =>
        match parkStart s tid d ga (Instr.park d a).word x key with
        | .error e => .error e
        | .ok s => match s.recs.find? (fun e => (s.thread tid).parked = some e.1) with
          | some (n, r) => match parkSave s tid n r with
            | .error (.wait s) => .error (.wait s)
            | x => x
          | none => .error (.wait s)
      | .ok (_, s) => trapNow s causeIllegal (Instr.park d a).word)

/-- The pending held cause of the current thread that R245 puts first is taken (R240, R245). -/
def execTakeHeldTrap (s : State) : Result :=
  match (s.thread s.cur).nextHeld with
  | some p => if (s.thread s.cur).live then done (s.takeHeld s.cur p) else done s
  | none => done s

/-- A watchdog count has reached LIMIT (R250). -/
def execWatchdogExpiry (tid : Nat) (s : State) : Result :=
  let t := s.thread tid
  let limit := bits t.wdog 31 0
  if t.live && limit ≠ 0 && decide (limit ≤ t.wdogCount) then
    let t := { t with wdogCount := 0 }
    let s := s.setThread tid t
    if t.wdog.getLsbD 63 then done (s.askStop t 5)
    else done (s.raiseHeld tid { kind := .watchdog, cause := causeWatchdog, tval := BitVec.ofNat 64 limit, tvaddr := 0, tseq := 0, tblk := 0, nested := false, xinfo := none })
  else done s

/-- A fault of the word a vector thread executes: a held trap with its place in its block (R239, R283); the place of word 256, which a
BLOCK_OVERRUN has, is log 107. -/
def vectorFault (s : State) (tid : Nat) (cause : BitVec 6) (tval : Word) (xinfo : Option Word) : State :=
  match (s.vthread tid).work.run with
  | none => s
  | some r => s.raiseVector tid cause tval (r.addr + BitVec.ofNat 64 (8 * r.word)) r.seq r.word r.nested xinfo

/-- A word that is no instruction (R286). -/
def execIllegalInstruction (vec : Bool) (w : Word) (s : State) : Result :=
  if vec then done (vectorFault s s.cur causeIllegal w none) else finish s.cur (trapNow s causeIllegal w)

/-- A fetch faults, or a block runs to word 256 (R17, R283). -/
def execInstructionFetchFault (vec : Bool) (addr : Word) (c : FetchFault) (s : State) : Result :=
  let (cause, tval, x) := match c with
    | .address cause level reason => (cause, addr, some (xinfoOf reason level (if vec then .blockFetch else .fetch)))
    | .overrun => (causeBlockOverrun, ((s.vthread s.cur).work.run).elim addr (fun r => r.addr), none)
    | .machineCheck => (causeMachineCheck, addr, none)
  if vec then done (vectorFault s s.cur cause tval x) else finish s.cur (.error (.trap s cause tval x))

end Sys2Proof.Machine
end

