-- ==== Sys2Proof/Machine/Flags.lean ====
section
/-! DEFINITION. The floating-point flags of a vector thread: merging, the lowest flat index, and which element traps (R265, R266, R268). -/

namespace Sys2Proof.Machine

/-- Merges the flags an element of flat index `i` raises: a flag that was clear takes the index, one that was set keeps the lower (R266). -/
def VThread.merge (v : VThread) (fl : FlagSet) (i : Nat) : VThread :=
  if fl = 0 then v
  else
    { v with fstat := v.fstat ||| fl
             fidx := (upto 5).foldl (fun t k =>
               if fl.getLsbD k then Tab.write 0 k (if v.fstat.getLsbD k then Nat.min (Tab.get 0 k t) i else i) t else t) v.fidx }

/-- Merges the flags of several elements. -/
def VThread.mergeAll (v : VThread) (fs : List (Nat × FlagSet)) : VThread := fs.foldl (fun v e => v.merge e.2 e.1) v

/-- A raised flag whose FCTL bit is 1 (R268). -/
def VThread.enabled (v : VThread) (fl : FlagSet) : Bool := (fl &&& v.fctl) ≠ 0

/-- The lowest index at which an enabled flag is raised. -/
def VThread.firstEnabled (v : VThread) (fs : List (Nat × FlagSet)) : Option Nat :=
  (fs.filter (fun e => v.enabled e.2)).foldl (fun m e => match m with
    | none => some e.1
    | some i => some (Nat.min i e.1)) none

end Sys2Proof.Machine
end

