-- ==== Sys2Proof/Machine/VecAccess.lean ====
section
/-! DEFINITION. The memory accesses of vector instructions: checks element by element, fabric packets, and the lowest stop (R33 to R35, R176, R177, R182, R194, R200). -/

namespace Sys2Proof.Machine

/-- One access of an element: `idx` is its flat index, plus 4096 for a mantissa's second byte and 8192 for an exponent byte;
a fault reports `ea`; `keep` are the bits a store keeps (R118); `zeroEnds` marks an exponent whose zero ends the element (R359). -/
structure VAcc where
  idx : Nat
  at_ : Word
  n : Nat
  ea : Word
  data : Word
  keep : Word
  zeroEnds : Bool
  deriving DecidableEq, Repr

/-- An element, or a block of a block floating-point store: the flat index reported in VSTART, its accesses, the flags it
raises and whether it meets a reserved code once its addresses are checked. -/
structure VElem where
  idx : Nat
  accs : List VAcc
  flags : List (Nat × FlagSet)
  bad : Bool
  deriving DecidableEq, Repr

/-- Where an access goes: here, to another module, through a pull window, into a reduction slot's aperture, or it has been done:
answered by a packet, or performed before the instruction came to it (R122, R374). -/
inductive Spot where
  | here (l : Loc) (key : BitVec 256)
  | away (module : Nat) (va : Nat)
  | pull (window : Nat) (va : Nat)
  | line (handle : Nat) (va : Nat)
  | got (v : Word)
  deriving DecidableEq, Repr

/-- An element whose addresses have passed. -/
abbrev Checked := VElem × List (VAcc × Spot)

namespace State

/-- The place of one access. Each access of a turn that may use old translations chooses for itself (R32; log 3). `cond` marks VSCC, which the reduction aperture refuses (R440). -/
def spotOf (s : State) (tid : Nat) (k : Kind) (space : BitVec 2) (cond : Bool) (a : VAcc) : Except Stop (Spot × State) :=
  let (n, s) := if s.stale then s.draw 2 else (0, s)
  let ag := { s.agentOf tid true with stale := n = 1 }
  match s.check ag (s.regionOf (s.thread tid)) k false false space a.at_ a.n with
  | .error (.trap s c _ x) => .error (.trap s c a.ea x)
  | .error (.wait s) => .error (.wait s)
  | .ok (.here l key, s) =>
    if k = .read && s.readsPoison ag.die l a.n then .error (.trap s causeMachineCheck a.ea none)
    else if k = .atomic && s.egressHolds ag.die l a.n then .error (.wait s)
    else if k = .atomic && s.poison ≠ [] && s.poisoned l a.n then .error (.trap s causeMachineCheck a.ea none)
    else .ok (.here l key, s)
  | .ok (.away m va, s) =>
    let l := Loc.remote m (s.vi ag.vi).tag va
    if k = .read && (List.range a.n).all (fun i => !(s.egressOver ag.die (l.plus i)).isEmpty) then .ok (.here l 0, s)
    else if s.egressHolds ag.die l a.n then .error (.wait s)
    else .ok (.away m va, s)
  | .ok (.reduce h _ _ _, s) =>
    if cond then .error (.trap s causePageProt a.ea (some (xinfoOf 4 0 k))) else .ok (.line h (a.at_.toNat % 2 ^ 56), s)
  | .ok (.pull w _, s) => .ok (.pull w (a.at_.toNat % 2 ^ 56), s)
  | .ok (.caps _, s) => .error (.trap s causePageProt a.ea (some (xinfoOf 4 0 k)))

/-- The places of an element's accesses in their order; `got` gives what has been done already. A load reads an exponent byte before
it checks the mantissa, which a zero exponent leaves unread (R359), so an exponent that is elsewhere comes first alone. -/
def spotsOf (s : State) (tid : Nat) (k : Kind) (space : BitVec 2) (cond : Bool) (got : Nat → Option Word) :
    List VAcc → Except Stop (List (VAcc × Spot) × State)
  | [] => .ok ([], s)
  | a :: as =>
    match got a.idx with
    | some v =>
      if a.zeroEnds && k = .read && v.toNat % 256 = 0 then .ok ([(a, .got v)], s)
      else (spotsOf s tid k space cond got as).map (fun r => ((a, .got v) :: r.1, r.2))
    | none =>
      match s.spotOf tid k space cond a with
      | .error e => .error e
      | .ok (p, s) =>
        let last := a.zeroEnds && k = .read && match p with
          | .here l key => s.loadByte (tid / 64) key l = 0
          | _ => true
        if last then .ok ([(a, p)], s) else (spotsOf s tid k space cond got as).map (fun r => ((a, p) :: r.1, r.2))

/-- Checks elements in ascending order up to the first that stops (R35). -/
def sound (s : State) (tid : Nat) (k : Kind) (space : BitVec 2) (cond : Bool) (got : Nat → Option Word) :
    List VElem → List Checked × Option (VElem × Stop) × State
  | [] => ([], none, s)
  | e :: es =>
    match s.spotsOf tid k space cond got e.accs with
    | .error (.trap s c v i) => ([], some (e, .trap s c v i), s)
    | .error (.wait s) => ([], some (e, .wait s), s)
    | .ok (ps, s) =>
      if e.bad then ([], some (e, .trap s causeReservedCode ((e.accs.head?).elim 0 (fun a => a.ea)) none), s)
      else
        let r := sound s tid k space cond got es
        ((e, ps) :: r.1, r.2)

/-- The request that carries an access of some index among a list of packets. -/
def packetOf (s : State) (packets : List Nat) (idx : Nat) : Option FabReq :=
  packets.findSome? (fun i => (s.request i).bind (fun r => if r.elems.any (fun e => e.idx = idx) then some r else none))

/-- What the packets have answered for an access; a refused one answers for the elements below its fault (R176, R177). -/
def packetValue (s : State) (packets : List Nat) (idx : Nat) : Option Word :=
  (s.packetOf packets idx).map (fun r => match r.reply with
    | some (.done vals) => (Tab.find idx vals).getD 0
    | some (.refused _ _ _ _ vals) => (Tab.find idx vals).getD 0
    | none => 0)

/-- The lowest element a packet was refused at or timed out at (R177, R182): its access, cause and detail. -/
def packetStop (s : State) (packets : List Nat) : Option (Nat × BitVec 6 × Word) :=
  packets.foldl (fun m i =>
    let here := match s.request i with
      | some r => match r.reply with
        | some (.refused x c kind reason _) => some (x, refusalCause c, fabricInfo kind reason)
        | some (.done _) => none
        | none =>
          if r.expired then
            let low := r.elems.foldl (fun n e => if e.idx % 4096 < n % 4096 then e.idx else n) ((r.elems.head?).elim 0 (fun e => e.idx))
            some (low, causeFabTimeout, fabricInfo (fabricAccess r.kind).code 0)
          else none
      | none => none
    match m, here with
    | none, h => h
    | some a, none => some a
    | some a, some b => if b.1 % 4096 < a.1 % 4096 then some b else some a) none

/-- Every packet has been answered or has timed out (R182). -/
def packetsEnded (s : State) (packets : List Nat) : Bool :=
  packets.all (fun i => (s.request i).all (fun r => r.reply.isSome || r.expired))

end State

/-- What a packet goes to: a module, or one line of an aperture (R176, R194, R200). -/
inductive PacketKey where
  | module (m : Nat)
  | pull (window line : Nat)
  | slot (handle line : Nat)
  deriving DecidableEq, Repr

/-- The packet an access travels in. -/
def packetKey (p : VAcc × Spot) : Option PacketKey :=
  match p.2 with
  | .away m _ => some (.module m)
  | .pull w va => some (.pull w (va / 64))
  | .line h va => some (.slot h (va / 64))
  | _ => none

/-- The elements of the packet of a key, in ascending order. The accesses of a block of a store whose exponent byte goes elsewhere stand
behind a mark of the block (R176, R360). -/
def packetElems (good : List Checked) (store : Bool) (key : PacketKey) : List FabricElem :=
  (good.map (fun g =>
    let own := (g.2.filter (fun p => packetKey p = some key)).filterMap (fun p => match p.2 with
      | .away _ va => some { idx := p.1.idx, va := fullVa va, n := p.1.n, data := p.1.data, cmp := p.1.keep }
      | .pull _ va => some { idx := p.1.idx, va := fullVa va, n := p.1.n, data := 0, cmp := 0 }
      | .line _ va => some { idx := p.1.idx, va := fullVa va, n := p.1.n, data := p.1.data, cmp := p.1.keep }
      | _ => none)
    match g.2, own with
    | h :: _, e :: _ => if store && h.1.zeroEnds && h.1.idx ≠ e.idx then { idx := h.1.idx, va := 0, n := 0, data := 0, cmp := 0 } :: own else own
    | _, _ => own)).flatten

/-- A contribution line: the written bytes, and the operation's identity in every byte that is not written (R194). -/
def contribution (op : Nat) (elems : List FabricElem) : List Byte :=
  let base := identityLine op
  elems.foldl (fun l e => (List.range e.n).foldl (fun (l : List Byte) i =>
    l.set (e.va.toNat % 64 + i) ((l.getD (e.va.toNat % 64 + i) 0 &&& (bytesOf e.cmp 8).getD i 0) ||| (bytesOf e.data 8).getD i 0)) l) base

/-- A contribution line as the elements of its packet: eight words under the indices of its elements, and lowest first. -/
def lineElems (op : Nat) (elems : List FabricElem) : List FabricElem :=
  let l := contribution op elems
  let a := ((elems.head?).elim 0 (fun e => e.va.toNat)) / 64 * 64
  elems ++ (List.range 8).map (fun i => { idx := 2 ^ 16 + ((elems.head?).elim 0 (fun e => e.idx)), va := BitVec.ofNat 64 (a + 8 * i), n := 8, data := wordOf ((l.drop (8 * i)).take 8), cmp := 0 })

/-- What the accesses of an instruction come to: a wait, or the elements that may perform, the stop behind them, and where to go on when packets have ended before the instruction has. -/
inductive Ran where
  | wait (s : State)
  | ready (s : State) (good : List Checked) (stop : Option (Nat × BitVec 6 × Word × Option Word)) (again : Option Nat)
  deriving DecidableEq, Repr

namespace State

/-- Sends a packet for each module and each line that some elements reach (R176, R194, R200). -/
def sendPackets (s : State) (tid : Nat) (fk : FabricKind) (good : List Checked) : List Nat × State :=
  let t := s.thread tid
  ((((good.map (fun g => g.2)).flatten).filterMap packetKey).eraseDups).foldl (fun (r : List Nat × State) key =>
    let elems := packetElems good (fk = .store) key
    let (node, kind, elems) := match key with
      | .module m => (m, fk, elems)
      | .pull w _ => let x := s.window t.vi w; (x.node, FabricKind.pull x.op x.members x.base, elems)
      | .slot h _ => let x := s.handle t.vi h; (x.node, fk, lineElems x.op elems)
    let (i, s) := r.2.sendRequest t.vi t.uid tid node kind elems false false t.nest 0
    (r.1 ++ [i], match key with | .slot h _ => s.contributes i (s.handle t.vi h) | _ => s)) ([], s)

/-- The number of the word that a vector thread executes. -/
def wordNo (s : State) (tid : Nat) : Nat := ((s.vthread tid).work.run).elim 0 (fun r => r.word)

/-- The indices under which `early` keeps the word and the literal of an instruction whose accesses it holds. -/
def earlyWord : Nat := 2 ^ 16
def earlyLit : Nat := 2 ^ 16 + 1

/-- What an access of the word in execution has done before VSTART came to its element (R122, R374). -/
def earlyOf (s : State) (tid idx : Nat) : Option Word :=
  let w := (s.vthread tid).work
  let t := Tab.get [] (s.wordNo tid) w.early
  let same := w.insn.all (fun x => Tab.get 0 earlyWord t = BitVec.ofNat 64 x.1 && Tab.get 0 earlyLit t = BitVec.ofNat 64 x.2)
  if same then Tab.find idx t else none

/-- Keeps what an access of the instruction `x` at a word has done ahead of VSTART. -/
def keepEarly (s : State) (tid word : Nat) (x : Nat × Nat) (idx : Nat) (v : Word) : State :=
  let t := s.vthread tid
  let e := Tab.put earlyWord (BitVec.ofNat 64 x.1) (Tab.put earlyLit (BitVec.ofNat 64 x.2) (Tab.get [] word t.work.early))
  s.setVthread tid { t with work := { t.work with early := Tab.put word (Tab.put idx v e) t.work.early } }

/-- Ends the packets of an instruction. What they have answered for the elements from `unsent` on stays with it, since these elements
have accesses that are yet to be sent. -/
def endPackets (s : State) (tid : Nat) (good : List Checked) (unsent : Option Nat) : State :=
  let packets := (s.vthread tid).work.packets
  let keep : List (VAcc × Spot) := match unsent with
    | none => []
    | some u => ((good.filter (fun (g : Checked) => decide (u ≤ g.1.idx))).map (fun g => g.2)).flatten
  let s := keep.foldl (fun (s : State) p => match p.2 with
    | .got v => s.keepEarly tid (s.wordNo tid) ((s.vthread tid).work.insn.getD (0, 0)) p.1.idx v
    | _ => s) s
  let s := packets.foldl (fun s i => s.dropRequest i) s
  let v := s.vthread tid
  s.setVthread tid { v with work := { v.work with packets := [], upto := none } }

/-- The accesses of an instruction's elements below `lim`, checked and sent (R33 to R35, R176, R177): what may perform now, the stop
behind it, and the element to go on at when it is not the last. -/
def access (s : State) (tid : Nat) (k : Kind) (fk : FabricKind) (space : BitVec 2) (cond : Bool) (lim : Option Nat) (plan : List VElem) : Ran :=
  let w := (s.vthread tid).work
  let stopOf := fun (x : VElem × Stop) => match x.2 with
    | .trap _ c v i => (x.1.idx, c, v, i)
    | .wait _ => (x.1.idx, 0, 0, none)
  if w.packets = [] then
    match s.sound tid k space cond (s.earlyOf tid) plan with
    | (_, some (_, .wait s), _) => .wait s
    | (good, stop, s) =>
      let all := (good.map (fun g => g.2)).flatten
      if cond || all.all (fun p => (packetKey p).isNone) then .ready s good (stop.map stopOf) (if stop.isSome then none else lim)
      else
        let (ids, s) := s.sendPackets tid fk good
        let v := s.vthread tid
        .wait (s.setVthread tid { v with work := { v.work with packets := ids, upto := match stop with | some x => some x.1.idx | none => lim } })
  else if !s.packetsEnded w.packets then .wait s
  else
    let plan := plan.filter (fun e => w.upto.all (fun u => decide (e.idx < u)))
    match s.sound tid k space cond (fun i => (s.packetValue w.packets i).orElse (fun _ => s.earlyOf tid i)) plan with
    | (_, some (_, .wait s), _) => .wait s
    | (good, stop, s) =>
      let pstop := (s.packetStop w.packets).bind (fun p =>
        (plan.find? (fun e => e.accs.any (fun a => a.idx % 4096 = p.1 % 4096))).map (fun e =>
          (e.idx, p.2.1, ((e.accs.find? (fun a => a.idx = p.1)).elim ((e.accs.head?).elim 0 (fun a => a.ea)) (fun a => a.ea)), some p.2.2)))
      let stop := match stop.map stopOf, pstop with
        | some a, some b => if b.1 ≤ a.1 then some b else some a
        | none, b => b
        | a, none => a
      let unsent := (good.find? (fun g => g.2.any (fun p => (packetKey p).isSome))).map (fun g => g.1.idx)
      let stop := if unsent.any (fun u => stop.all (fun x => decide (u < x.1))) then none else stop
      let below := fun (i : Nat) => stop.all (fun x => decide (i < x.1)) && unsent.all (fun u => decide (i < u))
      let s := s.endPackets tid good (if stop.isSome then none else unsent)
      .ready s (good.filter (fun g => below g.1.idx)) stop (if stop.isSome then none else match unsent with | some u => some u | none => w.upto)

/-- One access of a vector load, bound and observed (R114, R115, R128). -/
def vectorRead (s : State) (tid : Nat) (p : VAcc × Spot) : Word × State :=
  match p.2 with
  | .here l key => (wordOf (s.loadBytes (tid / 64) key l p.1.n), s.observe (tid / 64) (s.thread tid).uid l p.1.n)
  | .got v => (v, s)
  | _ => (0, s)

/-- One byte as a vector stream reads it: what its issued stores, or those ordered before it, leave there, else the value a load binds. -/
def streamByte (s : State) (tid stream : Nat) (l : Loc) (key : BitVec 256) : Byte :=
  let v := s.vthread tid
  match ((storesBefore v.bars stream v.issued v.pend).filter (fun p => p.loc.covers p.data.length l)).getLast? with
  | some p => p.data.getD (p.loc.offsetOf l) 0
  | none => s.loadByte (tid / 64) key l

/-- One local store of a vector stream by the instruction `n` beyond the oldest unfinished one. A byte that holds bits of other elements is
read first and rewritten when the store takes effect (R118); `step` is the block that it belongs to (R360), `free` marks VSTX.u (R362). -/
def storeOf (s : State) (tid stream n : Nat) (step : Option Nat) (free : Bool) (a : VAcc) (l : Loc) (key : BitVec 256) : PendStore :=
  let t := s.thread tid
  let old := if a.keep = 0 then 0 else (s.streamByte tid stream l key).setWidth 64
  { stream := stream, insn := (s.vthread tid).issued + n, ea := a.ea, loc := l, key := key, data := bytesOf ((old &&& a.keep) ||| a.data) a.n
    pc := t.pc, nested := t.nest, step := step, free := free }

/-- A store of a vector stream: in effect, or left issued when the step defers it (R114, R120). -/
def vectorStore (s : State) (tid : Nat) (p : PendStore) : State :=
  let v := s.vthread tid
  if s.defer then s.setVthread tid { v with pend := v.pend ++ [p] } else s.taskStore tid p

/-- Performs the local accesses of checked elements of a store in ascending order (R122, R361), those of a block in one step when
`blocks` says so (R360), and left to any order where they are deferred and `free` (R362). -/
def performStores (s : State) (tid stream : Nat) (blocks free : Bool) (good : List Checked) : State :=
  let s := if s.defer then s else s.orderVector tid stream 0
  good.foldl (fun s g => g.2.foldl (fun (s : State) p => match p.2 with
    | .here l key => s.vectorStore tid (s.storeOf tid stream 0 (if blocks then some g.1.idx else none) free p.1 l key)
    | _ => s) s) s

end State

end Sys2Proof.Machine
end

