-- ==== Sys2Proof/Machine/Operands.lean ====
section
/-! DEFINITION. Vector operands and results: operand codes, queue pops and stream fetches, placement under mask and tail, and the sweep of an element-wise instruction (R57, R58, R254, R257 to R259, R278 to R281, R325, R367 to R369). -/

namespace Sys2Proof.Machine

/-- The canonical NaN or the element of a value read exactly. -/
def flElem : Fl → Elem
  | .nan _ => nanElem
  | .inf s => infElem s
  | .fin s n d => (roundElem false .rne s n d).1

/-- Bytes of an element in memory by format and type (R356). -/
def formatBytes (fmt : Nat) (ty : BitVec 3) : Nat :=
  match fmt with
  | 0 => if ty = 1 then 2 else 4
  | 1 => 2
  | 6 => 2
  | _ => 1

/-- A loaded element widened by the pair of format and type (R254, R257). -/
def widen (fmt : Nat) (ty : BitVec 3) (x : Word) : Elem :=
  let n := x.toNat
  match fmt with
  | 0 => if ty = 1 then BitVec.ofNat 32 (n % 2 ^ 16 * 2 ^ 16) else x.setWidth 32
  | 1 => flElem (fp16.decode (n % 2 ^ 16))
  | 2 => flElem (decodeE4m3 (n % 2 ^ 8))
  | 3 => flElem (e5m2.decode (n % 2 ^ 8))
  | 4 => (x.setWidth 8).signExtend 32
  | 6 => (x.setWidth 16).signExtend 32
  | _ => (x.setWidth 8).setWidth 32

/-- A value saturated to a range. -/
def clampInt (lo hi x : Int) : Int := if x < lo then lo else if hi < x then hi else x

/-- The range of an integer format (R254). -/
def intRange (fmt : Nat) : Int × Int := if fmt = 4 then (-128, 127) else if fmt = 6 then (-32768, 32767) else (0, 255)

/-- The integer an element of type i32 or n32 stands for. -/
def intOf (ty : BitVec 3) (x : Elem) : Int := if ty = 2 then x.toInt else x.toNat

/-- The scale of a store is positive, finite and normal (R259). -/
def scaleGood (x : Elem) : Bool := !x.getLsbD 31 && decide (1 ≤ x.toNat / 2 ^ 23) && decide (x.toNat / 2 ^ 23 ≤ 254)

/-- The NaN code of a narrow float format (R258). -/
def narrowNan (fmt : Nat) : Nat := if fmt = 1 then 0x7E00 else 0x7F

/-- A finite quotient narrowed to fp16, E4M3 or E5M2, rounded once to nearest even with the range unbounded above (R258). -/
def narrowFinite (fmt : Nat) (neg : Bool) (n d : Nat) : Nat × FlagSet :=
  if fmt = 2 then
    if n = 0 then (e4m3.sign neg, 0)
    else
      let (m, u, inexact, tiny) := e4m3.round .rne neg n d
      let (a, b) := scaled m u
      if 448 * b < a then (e4m3.sign neg + 0x7E, flagOf ||| flagNx)
      else
        let ex : Int := if m < 2 ^ e4m3.fbits then 0 else u + e4m3.fbits + e4m3.bias
        (e4m3.sign neg + ex.toNat * 2 ^ e4m3.fbits + m % 2 ^ e4m3.fbits,
          (if inexact then flagNx else 0) ||| (if inexact && tiny then flagUf else 0))
  else (if fmt = 1 then fp16 else e5m2).encode .rne neg n d

/-- An f32 element over a scale, stored to fp16, E4M3 or E5M2 (R258, R259). -/
def narrowFloat (fmt : Nat) (x s : Elem) : Nat × FlagSet :=
  if !scaleGood s then (narrowNan fmt, flagNv)
  else match readFloat false x, readFloat false s with
    | .nan sig, _ => (narrowNan fmt, if sig then flagNv else 0)
    | .inf neg, _ => if fmt = 2 then (e4m3.sign neg + 0x7E, flagOf ||| flagNx) else ((if fmt = 1 then fp16 else e5m2).infCode neg, 0)
    | .fin neg n d, .fin _ m e => narrowFinite fmt neg (n * e) (d * m)
    | _, _ => (narrowNan fmt, flagNv)

/-- An f32 element over a scale, stored to i8, n8 or i16 (R259). -/
def narrowScaled (fmt : Nat) (x s : Elem) : Int × FlagSet :=
  let (lo, hi) := intRange fmt
  if !scaleGood s then (0, flagNv)
  else match readFloat false x, readFloat false s with
    | .inf neg, _ => (if neg then lo else hi, flagNv)
    | .fin neg n d, .fin _ m e =>
      let (q, inexact) := roundAt .rne neg (n * e) (d * m) 0
      let v := signed neg q
      if v < lo ∨ hi < v then (clampInt lo hi v, flagNv) else (v, if inexact then flagNx else 0)
    | _, _ => (0, flagNv)

/-- A stored element narrowed by the pair of format and type (R254, R257 to R259): its bytes as a number, and its flags. -/
def narrow (fmt : Nat) (ty : BitVec 3) (x s : Elem) : Word × FlagSet :=
  match fmt with
  | 0 => (if ty = 1 then (x >>> 16).setWidth 64 else x.setWidth 64, 0)
  | 17 => (BitVec.ofInt 64 (clampInt 0 255 (intOf ty x)), 0)
  | n =>
    if 1 ≤ n ∧ n ≤ 3 then let r := narrowFloat n x s; (BitVec.ofNat 64 r.1, r.2)
    else if ty = 0 then let r := narrowScaled n x s; (BitVec.ofInt 64 r.1, r.2)
    else (BitVec.ofInt 64 (clampInt (intRange n).1 (intRange n).2 (intOf ty x)), 0)

/-- A group popped from an empty queue: every element reads fill() (R58). -/
def Group.none : Group := { vr := 0, vl := 0, data := [], struck := false }

/-- Element (r, e) of a group (R58). -/
def Group.at_ (g : Group) (fill : Elem) (r e : Nat) : Elem :=
  if r < g.vr ∧ e < g.vl then g.data.getD (r * g.vl + e) fill else fill

/-- Element (r, e) of a register. -/
def VThread.elem (v : VThread) (n r e : Nat) : Elem := Tab.get 0 (r * 256 + e) (Tab.get [] n v.regs)

/-- An operand's 64 bits as an address, stride or count: a block argument or the literal (R278). -/
def VThread.word (v : VThread) (f : VFields) (c : BitVec 6) : Word :=
  if 36 ≤ c.toNat ∧ c.toNat ≤ 43 then Tab.get 0 (c.toNat - 36) v.bargs else f.lit

/-- Element (r, e) of an operand code, `g` being its popped group (R278). -/
def VThread.operand (v : VThread) (f : VFields) (c : BitVec 6) (g : Group) (r e : Nat) : Elem :=
  if c.toNat < 32 then v.elem c.toNat r e
  else if c.toNat < 36 then g.at_ v.fill r e
  else if c.toNat < 45 then (v.word f c).setWidth 32
  else v.fill

/-- The group of a field among those popped in the order sa, sb, sc; `before` are the fields in front of it (R57). -/
def groupFor (gs : List Group) (before : List (BitVec 6)) : Group := gs.getD (before.filter isQueue).length Group.none

/-- What an instruction reads while it runs: its thread's vector state, its word and its popped groups, and the flat index up to which it
performs in this step (R209). -/
structure Reading where
  v : VThread
  f : VFields
  groups : List Group
  stop : Nat
  deriving DecidableEq, Repr

/-- The flat index up to which a share of an instruction goes that has come to `start` of `total` elements in groups of `g`: an
element-group boundary, or its end (R209, R228, R374). -/
def Share.upto (h : Share) (g start total : Nat) : Nat :=
  match h with
  | .whole => total
  | .groups n => Nat.min total ((start / g + n + 1) * g)
  | .upTo k => Nat.min total ((Nat.max k start + g - 1) / g * g)
  | .place _ k => Nat.min total ((Nat.max k start + g - 1) / g * g)

namespace Reading
def total (c : Reading) : Nat := c.v.vr * c.v.vl
def row (c : Reading) (i : Nat) : Nat := i / c.v.vl
def col (c : Reading) (i : Nat) : Nat := i % c.v.vl

/-- The sa operand at (r, e) without a modifier, and with it (R280). -/
def plainA (c : Reading) (r e : Nat) : Elem := c.v.operand c.f c.f.sa (groupFor c.groups []) r e
def srcA (c : Reading) (i : Nat) : Elem :=
  let (r, e) := (c.row i, c.col i)
  if c.f.nb = 1 then (if e = 0 then c.v.fill else c.plainA r (e - 1))
  else if c.f.nb = 2 then (if c.v.vl ≤ e + 1 then c.v.fill else c.plainA r (e + 1))
  else c.plainA r e

def srcB (c : Reading) (i : Nat) : Elem :=
  c.v.operand c.f c.f.sb (groupFor c.groups [c.f.sa]) (c.row i) (c.col i)
def srcC (c : Reading) (i : Nat) : Elem :=
  c.v.operand c.f c.f.sc (groupFor c.groups [c.f.sa, c.f.sb]) (c.row i) (c.col i)

/-- The register vd at a flat index, for stores and accumulating forms. -/
def dest (c : Reading) (i : Nat) : Elem := c.v.elem c.f.vd.toNat (c.row i) (c.col i)

/-- Element (r, e) is active (R281); in a selecting instruction, selected (R343). -/
def active (c : Reading) (i : Nat) : Bool := c.f.mask = 0 || (c.v.elem 0 (c.row i) (c.col i)).getLsbD 0

/-- The place of a flat index in a register. -/
def place (c : Reading) (i : Nat) : Nat := c.row i * 256 + c.col i

/-- The flat indices of this step, from VSTART on. -/
def rest (c : Reading) : List Nat := (List.range c.stop).drop c.v.work.vstart

/-- The share of the instruction that its thread's turn performs. -/
def part (c : Reading) (h : Share) (g : Nat) : Reading := { c with stop := h.upto g c.v.work.vstart c.total }

/-- The element to go on at when this step is not the last. -/
def lim (c : Reading) : Option Nat := if c.stop < c.total then some c.stop else none

/-- The active elements of this step. -/
def activeRest (c : Reading) : List Nat := c.rest.filter c.active
end Reading

namespace State

/-- Writes elements of a vector register; one that is wholly rewritten is no longer poisoned (R248). -/
def putElems (s : State) (tid n : Nat) (ws : List (Nat × Elem)) : State :=
  if ws = [] then s
  else
    let v := s.vthread tid
    let t := ws.foldl (fun t w => Tab.write 0 w.1 w.2 t) (Tab.get [] n v.regs)
    let s := s.setVthread tid { v with regs := Tab.write [] n t v.regs }
    if s.poison.contains (.vectorRegister tid n) then
      ws.foldl (fun s w => s.mend (.vectorRegister tid n) (maxr * maxlOf (s.core (tid / 4)).split) w.1) s
    else s

/-- The masked-off writes of an agnostic mask policy over some flat indices (R281). -/
def maskedWrites (c : Reading) (is : List Nat) : List (Nat × Elem) :=
  if c.f.mask = 2 then (is.filter (fun i => !c.active i)).map (fun i => (c.place i, c.v.fill)) else []

/-- The tail writes of vd, when `results` are the result places (R281, R343). -/
def tailWrites (s : State) (tid : Nat) (c : Reading) (result : Nat → Nat → Bool) : List (Nat × Elem) :=
  if c.f.tail = 0 then []
  else
    let m := maxlOf (s.core (tid / 4)).split
    ((List.range maxr).map (fun r => ((List.range m).filter (fun e => !result r e)).map (fun e => (r * 256 + e, c.v.fill)))).flatten

/-- The places of the tile (R209). -/
def inTile (c : Reading) (r e : Nat) : Bool := decide (r < c.v.vr) && decide (e < c.v.vl)

/-- A vector instruction completes: the next word follows it and its literal (R279). -/
def endVector (s : State) (tid : Nat) (f : VFields) : State :=
  let v := s.vthread tid
  let n := if f.l = 1 then 2 else 1
  s.setVthread tid { v with issued := v.issued + 1
                            work := { v.work with run := v.work.run.map (fun r => { r with word := r.word + n })
                                                  vstart := 0, popped := none, part := none, packets := [], upto := none, wayp := none, insn := none, atomic := none
                                                  early := Tab.del (s.wordNo tid) v.work.early } }

/-- Sets VSTART (R228, R242). -/
def setVstart (s : State) (tid i : Nat) : State :=
  let v := s.vthread tid
  s.setVthread tid { v with work := { v.work with vstart := i } }

/-- A vector thread may run an instruction of its block: it has a block in execution and no fault pending. -/
def vectorRuns (s : State) (tid : Nat) : Bool :=
  (s.thread tid).live && s.hasVector tid && (s.vthread tid).work.run.isSome && !(s.vthread tid).work.faulted

/-- The poisoned register that an instruction reads, if any: MACHINE_CHECK before any element (R248). -/
def readsStruck (s : State) (tid : Nat) (f : VFields) (codes : List (BitVec 6)) (regs : List Nat) : Option Nat :=
  if s.poison = [] then none
  else
    let ns := (codes.filter (fun c => decide (c.toNat < 32))).map (fun c => c.toNat) ++ regs ++ (if f.mask = 0 then [] else [0])
    ns.find? (fun n => s.poison.contains (.vectorRegister tid n))

/-- The groups a queue holds. -/
def queueOfThread (s : State) (tid q : Nat) : List Group := Tab.get [] q (s.vthread tid).queues

/-- The rows of every delivered group of a thread (R56). -/
def queuedRows (s : State) (tid : Nat) : Nat :=
  ((s.vthread tid).queues.map (fun q => (q.2.map (fun g => g.vr)).foldl (· + ·) 0)).foldl (· + ·) 0

/-- Delivers a group to a queue (R55). -/
def deliver (s : State) (tid q : Nat) (g : Group) : State :=
  let v := s.vthread tid
  s.setVthread tid { v with queues := Tab.put q (s.queueOfThread tid q ++ [g]) v.queues }

/-- The plan of a fetch from a binding: `k` elements from its cursor on (R368). -/
def fetchPlan (b : Binding) (k : Nat) : List VElem :=
  let n := formatBytes b.fmt b.ty
  (List.range k).map (fun i =>
    let a := b.cursor + BitVec.ofNat 64 (i * n)
    { idx := i, accs := [{ idx := i, at_ := a, n := n, ea := a, data := 0, keep := 0, zeroEnds := false }], flags := [], bad := false })

/-- The number under which a group fetched ahead waits for a word of a block: 0 for the group of a load, and from 1 on those of its
pops (R59). -/
def aheadKey (seq : BitVec 16) (word j : Nat) : Nat := (seq.toNat * 256 + word) * 4 + j

/-- An instruction word with its literal, as one number. -/
def insnCode (x : Nat × Nat) : Nat := x.1 + 2 ^ 64 * x.2

/-- The group that has been fetched ahead for the instruction in execution. -/
def aheadOf (s : State) (tid j : Nat) : Option Group :=
  let v := s.vthread tid
  (v.work.run.bind (fun r => Tab.find (aheadKey r.seq r.word j) v.ahead)).bind (fun g =>
    if v.work.insn.all (fun x => insnCode x = g.2) then some g.1 else none)

/-- The group that the elements of a fetch fill, and the binding behind `k` elements (R368). -/
def boundGroup (v : VThread) (xs : List Elem) : Group :=
  { vr := v.vr, vl := v.vl, data := xs ++ List.replicate (v.vr * v.vl - xs.length) v.fill, struck := false }

def Binding.after (b : Binding) (k : Nat) : Binding :=
  { b with cursor := b.cursor + BitVec.ofNat 64 (k * formatBytes b.fmt b.ty), left := b.left - k }

/-- Delivers the group of a fetch and moves its binding on (R368). -/
def deliverBound (s : State) (tid q : Nat) (b : Binding) (g : Group) : State :=
  let s := s.deliver tid q g
  let v := s.vthread tid
  let b' := Binding.after b (Nat.min (v.vr * v.vl) b.left)
  s.setVthread tid { v with binds := if b'.left = 0 then Tab.del q v.binds else Tab.put q b' v.binds }

/-- The elements of a fetch, bound in ascending order. -/
def readBound (s : State) (tid : Nat) (b : Binding) (good : List Checked) : List Elem × State :=
  good.foldl (fun (r : List Elem × State) g => match g.2 with
    | [p] => let (x, s) := r.2.vectorRead tid p; (r.1 ++ [widen b.fmt b.ty x], s)
    | _ => r) ([], s)

/-- Fetches a group from the binding of a queue and delivers it (R368, R369), or delivers what has been fetched ahead for this pop, the
`j`th of its instruction (R59). -/
def fetchBound (s : State) (tid q j : Nat) (b : Binding) : Except Stop State :=
  match s.aheadOf tid j with
  | some g =>
    let v := s.vthread tid
    let s := s.setVthread tid { v with ahead := v.work.run.elim v.ahead (fun r => Tab.del (aheadKey r.seq r.word j) v.ahead) }
    .ok (s.deliverBound tid q b g)
  | none =>
    let v := s.vthread tid
    let plan := fetchPlan b (Nat.min (v.vr * v.vl) b.left)
    let s := s.orderVector tid b.stream 0
    match s.access tid .read .load b.space false none plan with
    | .wait s => .error (.wait s)
    | .ready s _ (some (_, c, x, i)) _ => .error (.trap s c x i)
    | .ready s _ none (some u) => match s.sound tid .read b.space false (fun _ => none) (plan.drop u) with
      | (_, some (_, .trap s c x i), _) => .error (.trap s c x i)
      | _ => .error (.wait s)
    | .ready s good none none =>
      let (xs, s) := s.readBound tid b good
      .ok (s.deliverBound tid q b (boundGroup (s.vthread tid) xs))

/-- Fetches until the bound queue of each pop holds its group (R368). -/
def fillPops (s : State) (tid : Nat) (seen : List Nat) : List (BitVec 6) → Except Stop State
  | [] => .ok s
  | c :: cs =>
    if !isQueue c then fillPops s tid seen cs
    else
      let q := c.toNat - 32
      let need := (seen.filter (fun x => x = q)).length + 1
      if need ≤ (s.queueOfThread tid q).length then fillPops s tid (q :: seen) cs
      else match Tab.find q (s.vthread tid).binds with
        | none => fillPops s tid (q :: seen) cs
        | some b =>
          match s.fetchBound tid q (seen.length + 1) b with
          | .error e => .error e
          | .ok s => fillPops s tid (q :: seen) cs

/-- Pops the groups of an instruction's operand fields in their order (R57, R58, R368); the pops stay with it until it completes. -/
def popGroups (s : State) (tid : Nat) (codes : List (BitVec 6)) : Except Stop (List Group × State) :=
  let w := (s.vthread tid).work
  match w.popped with
  | some gs => .ok (gs, s)
  | none =>
    if decide (0 < w.vstart) || !codes.any isQueue then .ok ([], s)
    else do
      let s ← s.fillPops tid [] codes
      let r := (codes.filter isQueue).foldl (fun (r : List Group × State) c =>
        let q := c.toNat - 32
        match r.2.queueOfThread tid q with
        | [] => (r.1 ++ [Group.none], r.2)
        | g :: gs =>
          let v := r.2.vthread tid
          (r.1 ++ [g], r.2.setVthread tid { v with queues := Tab.write [] q gs v.queues })) ([], s)
      let v := r.2.vthread tid
      .ok (r.1, r.2.setVthread tid { v with work := { v.work with popped := some r.1, early := Tab.del (s.wordNo tid) v.work.early } })

/-- MACHINE_CHECK for a core structure: its code and its number (R248). -/
def structureCheck (s : State) (code n : Nat) : Stop :=
  .trap s causeMachineCheck (BitVec.ofNat 64 (2 ^ 63 + n * 256 + code)) none

/-- Begins an instruction: its struck registers, then its pops, which read their rows (R248, R57); a register partition in retention
wakes (R80). `regs` are registers it reads besides its operands. -/
def begin_ (s : State) (tid : Nat) (f : VFields) (codes : List (BitVec 6)) (regs : List Nat) : Except Stop (Reading × State) :=
  match s.readsStruck tid f codes regs with
  | some n => .error (s.structureCheck 1 n)
  | none => do
    let (gs, s) ← s.popGroups tid codes
    let s := s.setVthread tid { s.vthread tid with retained := false }
    if gs.any (fun g => g.struck) then .error (s.structureCheck 2 0)
    else
      let c : Reading := { v := s.vthread tid, f := f, groups := gs, stop := 0 }
      .ok ({ c with stop := c.total }, s)

/-- The part of an instruction that its thread's turn performs: a share of its element groups (R209), unless it has sent packets, which
go as far as these. -/
def partOf (s : State) (tid : Nat) (c : Reading) : Reading :=
  if c.v.work.packets = [] then c.part s.share (groupOf (s.core (tid / 4)).split) else c

/-- The instruction goes on at the end of this step's part, or has come to its end. -/
def goOn (s : State) (tid : Nat) (c : Reading) (last : State → State) : Except Stop State :=
  match c.lim with
  | some u => .error (.wait (s.setVstart tid u))
  | none => .ok (last s)

end State

/-- A vector instruction ends: complete, with its held trap, or waiting (R240, R242). -/
def finishVector (tid : Nat) (f : VFields) (r : Except Stop State) : Result :=
  match r with
  | .ok s => done (s.endVector tid f)
  | .error (.trap s c v x) => done (vectorFault s tid c v x)
  | .error (.wait s) => done s

/-- Runs a vector instruction when its thread may. -/
def vectorDo (s : State) (f : VFields) (body : Nat → Except Stop State) : Result :=
  if s.vectorRuns s.cur then finishVector s.cur f (body s.cur) else done s

/-- A modifier must not name the register that vd names (R280); a cross-lane source must not either, nor vd = v0 under a mask (R342). -/
def overlaps (f : VFields) (cross : Bool) : Bool :=
  (if cross then f.sa.toNat = f.vd.toNat || (f.vd = 0 && f.mask ≠ 0) else f.nb ≠ 0 && f.sa.toNat = f.vd.toNat)

/-- The results of the active elements of a list of flat indices, up to the first that raises an enabled flag (R268). -/
def sweep (c : Reading) (g : Nat → Elem × FlagSet) : List Nat → List (Nat × Elem) × List (Nat × FlagSet) × Option Nat
  | [] => ([], [], none)
  | i :: is =>
    if !c.active i then
      let r := sweep c g is
      ((if c.f.mask = 2 then [(c.place i, c.v.fill)] else []) ++ r.1, r.2)
    else
      let (x, fl) := g i
      if c.v.enabled fl then ([(c.place i, x)], [(i, fl)], some i)
      else
        let r := sweep c g is
        ((c.place i, x) :: r.1, (if fl = 0 then r.2.1 else (i, fl) :: r.2.1), r.2.2)

namespace State

/-- Places the results of this step of an element-wise sweep, merges its flags, and raises FP_TRAP behind an enabled one (R266, R268, R281). -/
def placeSweep (s : State) (tid : Nat) (c : Reading) (g : Nat → Elem × FlagSet) : Except Stop State :=
  let (ws, fs, stop) := sweep c g c.rest
  let s := s.putElems tid c.f.vd.toNat ws
  let s := s.setVthread tid ((s.vthread tid).mergeAll fs)
  match stop with
  | some i => .error (.trap (s.setVstart tid (i + 1)) causeFpTrap (BitVec.ofNat 64 i) none)
  | none => s.goOn tid c (fun s => s.putElems tid c.f.vd.toNat (s.tailWrites tid c (inTile c)))

/-- Pushes an entry to the return queue (R313, R354). -/
def pushReturn (s : State) (tid : Nat) (x : Word) : State :=
  let v := s.vthread tid
  s.setVthread tid { v with ret := v.ret ++ [x] }

/-- The return queue is full (R313). -/
def returnFull (s : State) (tid : Nat) : Bool := decide (16 ≤ (s.vthread tid).ret.length)

end State

/-- An element-wise instruction of up to three sources, by element groups (R209, R325). -/
def elementwise (s : State) (f : VFields) (word : Word) (codes : List (BitVec 6)) (g : Reading → Nat → Elem × FlagSet) : Result :=
  vectorDo s f (fun tid =>
    if overlaps f false then .error (.trap s causeOperandOverlap word none)
    else do
      let (c, s) ← s.begin_ tid f codes []
      let c := s.partOf tid c
      s.placeSweep tid c (g c))

end Sys2Proof.Machine
end

