-- ==== Sys2Proof/Machine/VecBlock.lean ====
section
/-! DEFINITION. Vector blocks: their start and end, VNOP and VSBAR (R124, R283, R309, R327, R328, R392). -/

namespace Sys2Proof.Machine

namespace State

/-- A drain run of a WMACS has ended (R392). -/
def drainedRun (m : Wmacs) (i j b : Nat) : Wmacs :=
  if m.id = i then { m with drained := m.drained ++ [(j, b, ((m.ended.find? (fun x => x.1 = j && x.2.1 = b)).elim 0 (fun x => x.2.2)))] } else m

/-- The block in execution ends: its entry completes (R309), or a drain run of the WMACS at the head does, running or held (R243, R392). -/
def endBlock (s : State) (tid : Nat) (r : BlockRun) : State :=
  let v := s.vthread tid
  let s := s.setVthread tid { v with
    issued := v.issued + 1
    ahead := v.ahead.filter (fun e => e.1 / 1024 ≠ r.seq.toNat)
    work := { v.work with run := none, vstart := 0, popped := none, part := none, packets := [], upto := none, wayp := none, insn := none, atomic := none, early := [] } }
  match v.work.vcq with
  | [] => s
  | e :: _ =>
    match r.drain, e.op with
    | some (j, b), .wmacs i =>
      let k := s.core (tid / 4)
      let t := s.thread tid
      (s.setCore (tid / 4) { k with wmacs := k.wmacs.map (fun m => drainedRun m i j b) }).setThread tid
        { t with heldS := t.heldS.map (fun m => drainedRun m i j b) }
    | _, _ => s.popEntry tid e

/-- The block entry at the head of a vector thread's queue begins (R283, R309). -/
def beginBlock (s : State) (tid : Nat) : State :=
  let v := s.vthread tid
  match v.work.vcq, v.work.run, v.work.faulted with
  | e :: _, none, false =>
    match e.op with
    | .block a g =>
      s.setVthread tid { v with work := { v.work with run := some { addr := a, word := 0, geom := g, seq := e.seq, nested := e.nested, drain := none }, vstart := 0 } }
    | _ => s
  | _, _, _ => s

end State

/-- VSTOP ends the block (R283, R327). -/
def execVstop (_f : VFields) (s : State) : Result :=
  if s.vectorRuns s.cur then
    match (s.vthread s.cur).work.run with
    | some r => done (s.endBlock s.cur r)
    | none => done s
  else done s

/-- VNOP only counts as one vector instruction (R327). -/
def execVnop (f : VFields) (s : State) : Result := vectorDo s f (fun _ => .ok s)

/-- VSBAR stands between the accesses of the streams that it names, where stores of theirs have yet to take effect (R124). -/
def execVsbar (f : VFields) (s : State) : Result :=
  vectorDo s f (fun tid =>
    let v := s.vthread tid
    let named := fun (k : Nat) => decide (k < 8) && f.ext.getLsbD k
    if v.pend.any (fun p => named p.stream) then
      .ok (s.setVthread tid { v with bars := v.bars.filter (fun b => v.pend.any (fun p => decide (p.insn ≤ b.1))) ++ [(v.issued, f.ext.setWidth 8)] })
    else .ok s)

end Sys2Proof.Machine
end

