-- ==== Sys2Proof/Machine/VecArith.lean ====
section
/-! DEFINITION. Vector arithmetic, bit, compare, select, move and conversion instructions (R329 to R341). -/

namespace Sys2Proof.Machine

/-- The rounding of an arithmetic word, and whether its type is b16 (R252, R262). -/
def modeOf (f : VFields) : Rounding := .ofCode (f.rs.toNat / 2)
def isB16 (f : VFields) : Bool := f.ty = 1

/-- A result that raises no flag. -/
def plain (x : Elem) : Elem × FlagSet := (x, 0)

/-- The float form or the integer form of an operation on two elements (R326, R332). -/
def either (f : VFields) (fl : Bool → Rounding → Fl → Fl → Elem × FlagSet) (int : Elem → Elem → Elem) (a b : Elem) : Elem × FlagSet :=
  if f.ty.toNat ≤ 1 then fl (isB16 f) (modeOf f) (readFloat (isB16 f) a) (readFloat (isB16 f) b) else plain (int a b)

/-- The lower or the higher of two floats, −0 below +0 (R331). -/
def pickFl (b16 high : Bool) (a b : Elem) : Elem × FlagSet :=
  let (x, y) := if b16 then (a &&& 0xFFFF0000, b &&& 0xFFFF0000) else (a, b)
  let (p, q) := (readFloat b16 a, readFloat b16 b)
  let ty := if b16 then 1 else 0
  (if p.isNan && q.isNan then nanElem
   else if p.isNan then y
   else if q.isNan then x
   else if decide ((keyOf ty x).toNat ≤ (keyOf ty y).toNat) != high then x else y,
   if p.signals || q.signals then flagNv else 0)

/-- VMIN and VMAX (R331, R332). -/
def pick (ty : BitVec 3) (high : Bool) (a b : Elem) : Elem × FlagSet :=
  if ty.toNat ≤ 1 then pickFl (ty = 1) high a b
  else plain (if decide (intOf ty a ≤ intOf ty b) != high then a else b)

/-- VCLAMP (R331). -/
def clampElem (ty : BitVec 3) (a b c : Elem) : Elem × FlagSet :=
  let (m, x) := pick ty true a b
  let (n, y) := pick ty false m c
  (n, x ||| y)

/-- VABS and VNEG (R331, R332). -/
def signElem (ty : BitVec 3) (abs : Bool) (a : Elem) : Elem × FlagSet :=
  if ty.toNat ≤ 1 then
    let x := if ty = 1 then a &&& 0xFFFF0000 else a
    match readFloat (ty = 1) a with
    | .nan s => (nanElem, if s then flagNv else 0)
    | _ => plain (if abs then x &&& 0x7FFFFFFF else x ^^^ 0x80000000)
  else if abs then plain (if ty = 2 ∧ a.toInt < 0 then 0 - a else a)
  else plain (0 - a)

/-- VFCSA: c + a × 2^k rounded once; exponents far outside the range of FP32 are drawn in, which changes no rounding (R333). -/
def scaleAdd (mode : Rounding) (a k c : Elem) : Elem × FlagSet :=
  match readFloat false c with
  | .nan s => (nanElem, if s then flagNv else 0)
  | .inf _ => plain c
  | .fin s n d =>
    if a = 0 then plain c
    else
      let e := clampInt (-700) 400 k.toInt
      let (m, q) := scaled a.toInt.natAbs e
      sumElem false mode (.fin s n d) (.fin (decide (a.toInt < 0)) m q)

def execVadd (f : VFields) (s : State) : Result :=
  elementwise s f (Instr.vadd f).word [f.sa, f.sb] (fun c i => either f addFl (fun a b => a + b) (c.srcA i) (c.srcB i))
def execVsub (f : VFields) (s : State) : Result :=
  elementwise s f (Instr.vsub f).word [f.sa, f.sb] (fun c i => either f (fun b m x y => addFl b m x y.negate) (fun a b => a - b) (c.srcA i) (c.srcB i))
def execVmul (f : VFields) (s : State) : Result :=
  elementwise s f (Instr.vmul f).word [f.sa, f.sb] (fun c i => either f mulFl (fun a b => a * b) (c.srcA i) (c.srcB i))

/-- The sources of a fused form as values. -/
def fused (f : VFields) (c : Reading) (i : Nat) (g : Fl → Fl → Fl → Elem × FlagSet) : Elem × FlagSet :=
  g (readFloat (isB16 f) (c.srcA i)) (readFloat (isB16 f) (c.srcB i)) (readFloat (isB16 f) (c.srcC i))

def execVfma (f : VFields) (s : State) : Result :=
  elementwise s f (Instr.vfma f).word [f.sa, f.sb, f.sc] (fun c i => fused f c i (fun x y z => fmaFl (isB16 f) (modeOf f) x y z))
def execVfms (f : VFields) (s : State) : Result :=
  elementwise s f (Instr.vfms f).word [f.sa, f.sb, f.sc] (fun c i => fused f c i (fun x y z => fmaFl (isB16 f) (modeOf f) x y z.negate))
def execVfnma (f : VFields) (s : State) : Result :=
  elementwise s f (Instr.vfnma f).word [f.sa, f.sb, f.sc] (fun c i => fused f c i (fun x y z => fmaFl (isB16 f) (modeOf f) x.negate y z))
def execVdiv (f : VFields) (s : State) : Result :=
  elementwise s f (Instr.vdiv f).word [f.sa, f.sb] (fun c i => divFl (isB16 f) (modeOf f) (readFloat (isB16 f) (c.srcA i)) (readFloat (isB16 f) (c.srcB i)))
def execVsqrt (f : VFields) (s : State) : Result :=
  elementwise s f (Instr.vsqrt f).word [f.sa] (fun c i => sqrtFl (isB16 f) (modeOf f) (readFloat (isB16 f) (c.srcA i)))
def execVexp2 (f : VFields) (s : State) : Result :=
  elementwise s f (Instr.vexp2 f).word [f.sa] (fun c i => exp2Fl (isB16 f) (modeOf f) (readFloat (isB16 f) (c.srcA i)))
def execVlog2 (f : VFields) (s : State) : Result :=
  elementwise s f (Instr.vlog2 f).word [f.sa] (fun c i => log2Fl (isB16 f) (modeOf f) (readFloat (isB16 f) (c.srcA i)))
def execVmin (f : VFields) (s : State) : Result :=
  elementwise s f (Instr.vmin f).word [f.sa, f.sb] (fun c i => pick f.ty false (c.srcA i) (c.srcB i))
def execVmax (f : VFields) (s : State) : Result :=
  elementwise s f (Instr.vmax f).word [f.sa, f.sb] (fun c i => pick f.ty true (c.srcA i) (c.srcB i))
def execVabs (f : VFields) (s : State) : Result :=
  elementwise s f (Instr.vabs f).word [f.sa] (fun c i => signElem f.ty true (c.srcA i))
def execVneg (f : VFields) (s : State) : Result :=
  elementwise s f (Instr.vneg f).word [f.sa] (fun c i => signElem f.ty false (c.srcA i))
def execVclamp (f : VFields) (s : State) : Result :=
  elementwise s f (Instr.vclamp f).word [f.sa, f.sb, f.sc] (fun c i => clampElem f.ty (c.srcA i) (c.srcB i) (c.srcC i))
def execVfcsa (f : VFields) (s : State) : Result :=
  elementwise s f (Instr.vfcsa f).word [f.sa, f.sb, f.sc] (fun c i => scaleAdd (modeOf f) (c.srcA i) (c.srcB i) (c.srcC i))

/-- An integer instruction of two sources, and of one (R334). -/
def intBinary (s : State) (f : VFields) (word : Word) (g : Elem → Elem → Elem) : Result :=
  elementwise s f word [f.sa, f.sb] (fun c i => plain (g (c.srcA i) (c.srcB i)))
def intUnary (s : State) (f : VFields) (word : Word) (g : Elem → Elem) : Result :=
  elementwise s f word [f.sa] (fun c i => plain (g (c.srcA i)))

/-- The range of the type, i32 or n32 (R334). -/
def saturate (ty : BitVec 3) (x : Int) : Elem :=
  BitVec.ofInt 32 (if ty = 2 then clampInt (-(2 ^ 31)) (2 ^ 31 - 1) x else clampInt 0 (2 ^ 32 - 1) x)

def execVmulh (f : VFields) (s : State) : Result :=
  intBinary s f (Instr.vmulh f).word (fun a b => BitVec.ofInt 32 (intOf f.ty a * intOf f.ty b / 2 ^ 32))
def execVand (f : VFields) (s : State) : Result := intBinary s f (Instr.vand f).word (fun a b => a &&& b)
def execVor (f : VFields) (s : State) : Result := intBinary s f (Instr.vor f).word (fun a b => a ||| b)
def execVxor (f : VFields) (s : State) : Result := intBinary s f (Instr.vxor f).word (fun a b => a ^^^ b)
def execVnot (f : VFields) (s : State) : Result := intUnary s f (Instr.vnot f).word (fun a => ~~~a)
def execVshl (f : VFields) (s : State) : Result := intBinary s f (Instr.vshl f).word (fun a b => a <<< (b.toNat % 32))
def execVshr (f : VFields) (s : State) : Result := intBinary s f (Instr.vshr f).word (fun a b => a >>> (b.toNat % 32))
def execVsra (f : VFields) (s : State) : Result := intBinary s f (Instr.vsra f).word (fun a b => a.sshiftRight (b.toNat % 32))
def execVpopc (f : VFields) (s : State) : Result := intUnary s f (Instr.vpopc f).word (fun a => BitVec.ofNat 32 (oneBits a.toNat 32))
def execVclz (f : VFields) (s : State) : Result := intUnary s f (Instr.vclz f).word (fun a => BitVec.ofNat 32 (leadingZeros a.toNat 32))
def execVsadd (f : VFields) (s : State) : Result :=
  intBinary s f (Instr.vsadd f).word (fun a b => saturate f.ty (intOf f.ty a + intOf f.ty b))
def execVssub (f : VFields) (s : State) : Result :=
  intBinary s f (Instr.vssub f).word (fun a b => saturate f.ty (intOf f.ty a - intOf f.ty b))

/-- Whether the order −1, 0 or 1 of two numbers meets a condition of VCMP (R335). -/
def condHolds (cond : Nat) (o : Int) : Bool :=
  match cond with
  | 0 => o = 0
  | 1 => o ≠ 0
  | 2 => decide (o < 0)
  | 3 => decide (o ≤ 0)
  | 4 => decide (0 < o)
  | 5 => decide (0 ≤ o)
  | 6 => false
  | _ => true

/-- VCMP of two elements (R335). -/
def compareElem (ty : BitVec 3) (cond : Nat) (a b : Elem) : Elem × FlagSet :=
  let one := fun (x : Bool) => (if x then 1 else 0 : Elem)
  if ty.toNat ≤ 1 then
    let (x, y) := (readFloat (ty = 1) a, readFloat (ty = 1) b)
    if x.isNan || y.isNan then
      (one (cond = 1 || cond = 6),
        if x.signals || y.signals || (decide (2 ≤ cond) && decide (cond ≤ 5)) then flagNv else 0)
    else plain (one (condHolds cond (cmpFl x y)))
  else plain (one (condHolds cond (intOf ty a - intOf ty b)))

def execVcmp (f : VFields) (s : State) : Result :=
  elementwise s f (Instr.vcmp f).word [f.sa, f.sb] (fun c i => compareElem f.ty (f.ext.toNat % 8) (c.srcA i) (c.srcB i))
def execVsel (f : VFields) (s : State) : Result :=
  elementwise s f (Instr.vsel f).word [f.sa, f.sb, f.sc] (fun c i => plain (if (c.srcC i).getLsbD 0 then c.srcA i else c.srcB i))

def execVmov (f : VFields) (s : State) : Result := elementwise s f (Instr.vmov f).word [f.sa] (fun c i => plain (c.srcA i))
def execViota (f : VFields) (s : State) : Result :=
  elementwise s f (Instr.viota f).word [f.sa] (fun c i => plain (c.srcA i + BitVec.ofNat 32 i))

/-- A float element as another type, or rounded to an integral value of its own (R340). -/
def convertFloat (mode : Rounding) (src : Nat) (ty : BitVec 3) (x : Elem) : Elem × FlagSet :=
  let v := readFloat (src = 1) x
  if ty.toNat ≤ 1 then
    match v with
    | .nan s => (nanElem, if s then flagNv else 0)
    | .inf s => plain (infElem s)
    | .fin s n d =>
      if ty.toNat = src then
        let (m, inexact) := roundAt mode s n d 0
        ((roundElem (src = 1) .rtz s m 1).1, if inexact then flagNx else 0)
      else roundElem (ty = 1) mode s n d
  else
    let (lo, hi) : Int × Int := if ty = 2 then (-(2 ^ 31), 2 ^ 31 - 1) else (0, 2 ^ 32 - 1)
    match v with
    | .nan _ => (0, flagNv)
    | .inf s => (BitVec.ofInt 32 (if s then lo else hi), flagNv)
    | .fin s n d =>
      let (m, inexact) := roundAt mode s n d 0
      let y := signed s m
      if y < lo ∨ hi < y then (BitVec.ofInt 32 (clampInt lo hi y), flagNv) else (BitVec.ofInt 32 y, if inexact then flagNx else 0)

/-- VCVT of an element from a source type (R340). -/
def convertElem (mode : Rounding) (src : Nat) (ty : BitVec 3) (x : Elem) : Elem × FlagSet :=
  if src ≤ 1 then convertFloat mode src ty x
  else
    let v := intOf (BitVec.ofNat 3 src) x
    if ty.toNat ≤ 1 then roundElem (ty = 1) mode (decide (v < 0)) v.natAbs 1
    else plain (saturate ty v)

def execVcvt (f : VFields) (s : State) : Result :=
  elementwise s f (Instr.vcvt f).word [f.sa] (fun c i => convertElem (modeOf f) (f.ext.toNat % 4) f.ty (c.srcA i))
def execVkey (f : VFields) (s : State) : Result :=
  elementwise s f (Instr.vkey f).word [f.sa] (fun c i => plain (keyOf f.ty.toNat (c.srcA i)))

end Sys2Proof.Machine
end

