-- ==== Sys2Proof/Machine/VecCross.lean ====
section
/-! DEFINITION. Cross-lane instructions and the return-queue pushes: splat, gather, slides, compress, reductions, fold, scan and conflict detection (R337, R342 to R354). -/

namespace Sys2Proof.Machine

/-- sa at flat index j, or fill() at or beyond VR × VL (R342). -/
def Reading.at_ (c : Reading) (j : Nat) : Elem := if j < c.total then c.plainA (c.row j) (c.col j) else c.v.fill

/-- The selected flat indices in ascending order (R343). -/
def Reading.selected (c : Reading) : List Nat := (List.range c.total).filter c.active

/-- Begins a cross-lane instruction: its overlap check, then its operands (R342); `body` performs a step of it. -/
def crossDo (s : State) (f : VFields) (word : Word) (codes : List (BitVec 6)) (body : Nat → Reading → State → Except Stop State) : Result :=
  vectorDo s f (fun tid =>
    if overlaps f true then .error (.trap s causeOperandOverlap word none)
    else do
      let (c, s) ← s.begin_ tid f codes []
      body tid c s)

/-- The count operand of VSPLAT and the slides (R345). -/
def Reading.count (c : Reading) : Nat := (c.v.operand c.f c.f.sb Group.none 0 0).toNat

/-- A cross-lane instruction that goes by element groups of its destination (R344). -/
def crossParts (s : State) (f : VFields) (word : Word) (codes : List (BitVec 6)) (body : Nat → Reading → State → Except Stop State) : Result :=
  crossDo s f word codes (fun tid c s => body tid (s.partOf tid c) s)

def execVsplat (f : VFields) (s : State) : Result :=
  crossParts s f (Instr.vsplat f).word [f.sa] (fun tid c s => s.placeSweep tid c (fun _ => plain (c.at_ c.count)))
def execVgath (f : VFields) (s : State) : Result :=
  crossParts s f (Instr.vgath f).word [f.sa, f.sb] (fun tid c s => s.placeSweep tid c (fun i => plain (c.at_ (c.srcB i).toNat)))

/-- The value a slide by `k` places reads for flat index i (R345). -/
def Reading.slide (c : Reading) (k : Int) (i : Nat) : Elem :=
  if c.f.ext.getLsbD 0 then
    let j := (c.col i : Int) + k
    if 0 ≤ j ∧ j < c.v.vl then c.plainA (c.row i) j.toNat else c.v.fill
  else
    let j := (i : Int) + k
    if 0 ≤ j ∧ j < c.total then c.at_ j.toNat else c.v.fill

def execVslup (f : VFields) (s : State) : Result :=
  crossParts s f (Instr.vslup f).word [f.sa] (fun tid c s => s.placeSweep tid c (fun i => plain (c.slide (-(c.count : Int)) i)))
def execVsldn (f : VFields) (s : State) : Result :=
  crossParts s f (Instr.vsldn f).word [f.sa] (fun tid c s => s.placeSweep tid c (fun i => plain (c.slide c.count i)))

/-- What a one-step instruction leaves: results at places of vd, one push and flags at flat index 0 (R344). -/
structure OneStep where
  places : List (Nat × Elem)
  push : Option Word
  flags : FlagSet
  deriving DecidableEq, Repr

/-- A one-step instruction performs whole, or waits for room in the return queue; resumed behind its FP_TRAP it only completes (R344). -/
def oneStep (s : State) (f : VFields) (word : Word) (g : Reading → OneStep) : Result :=
  crossDo s f word [f.sa] (fun tid c s =>
    if 0 < c.v.work.vstart then .ok s
    else
      let o := g c
      if o.push.isSome && s.returnFull tid then .error (.wait s)
      else
        let s := (s.putElems tid f.vd.toNat (s.tailWrites tid c (fun r e => o.places.any (fun p => p.1 = r * 256 + e)))).putElems tid f.vd.toNat o.places
        let s := match o.push with
          | some x => s.pushReturn tid x
          | none => s
        let s := s.setVthread tid ((s.vthread tid).merge o.flags 0)
        if c.v.enabled o.flags then .error (.trap (s.setVstart tid c.total) causeFpTrap 0 none) else .ok s)

/-- An instruction that writes no register and pushes one entry in one step, so no overlap arises (R337, R344, R349). -/
def pushStep (s : State) (f : VFields) (g : Reading → Word × FlagSet) : Result :=
  vectorDo s f (fun tid => do
    let (c, s) ← s.begin_ tid f [f.sa] []
    if 0 < c.v.work.vstart then .ok s
    else if s.returnFull tid then .error (.wait s)
    else
      let (x, fl) := g c
      let s := s.pushReturn tid x
      let s := s.setVthread tid ((s.vthread tid).merge fl 0)
      if c.v.enabled fl then .error (.trap (s.setVstart tid c.total) causeFpTrap 0 none) else .ok s)

/-- The selected elements whose bit 0 of sa is 1; sa goes through the neighbour modifier of R280 (R337). -/
def Reading.counting (c : Reading) : List Nat := c.selected.filter (fun i => (c.srcA i).getLsbD 0)

def execVmpop (f : VFields) (s : State) : Result :=
  pushStep s f (fun c => (BitVec.ofNat 64 c.counting.length, 0))
def execVmfirst (f : VFields) (s : State) : Result :=
  pushStep s f (fun c => (match c.counting with | i :: _ => BitVec.ofNat 64 i | [] => BitVec.allOnes 64, 0))

/-- VCMPR (R346). -/
def execVcmpr (f : VFields) (s : State) : Result :=
  oneStep s f (Instr.vcmpr f).word (fun c =>
    let xs := c.selected
    { places := (List.range xs.length).zip xs |>.map (fun p => (c.place p.1, c.at_ p.2))
      push := if f.ext.getLsbD 0 then some (BitVec.ofNat 64 xs.length) else none, flags := 0 })

/-- The operations of reductions, folds and scans: 0 add, 1 min, 2 max, 3 xor (R347). -/
def combine (f : VFields) (op : Nat) (a b : Elem) : Elem × FlagSet :=
  match op with
  | 0 => either f addFl (fun a b => a + b) a b
  | 1 => pick f.ty false a b
  | 2 => pick f.ty true a b
  | _ => plain (a ^^^ b)

/-- The identities of R347. -/
def identity (ty : BitVec 3) (op : Nat) : Elem :=
  match op with
  | 0 => if ty.toNat ≤ 1 then 0x80000000 else 0
  | 1 => if ty.toNat ≤ 1 then posInf else if ty = 2 then 0x7FFFFFFF else 0xFFFFFFFF
  | 2 => if ty.toNat ≤ 1 then negInf else if ty = 2 then 0x80000000 else 0
  | _ => 0

/-- One level of the pairwise tree; beyond the tile every place holds the identity (R348). -/
def pairUp {α : Type} (g : α → α → α × FlagSet) (id : α) : List α → List α × FlagSet
  | [] => ([], 0)
  | [a] => let (x, fl) := g a id; ([x], fl)
  | a :: b :: t =>
    let (x, fl) := g a b
    let (xs, fs) := pairUp g id t
    (x :: xs, fl ||| fs)

/-- The tree of R348 over 2^n places. -/
def tree {α : Type} (g : α → α → α × FlagSet) (id : α) : Nat → List α → List α × FlagSet
  | 0, xs => (xs, 0)
  | n + 1, xs =>
    let (ys, fl) := pairUp g id xs
    let (zs, fs) := tree g id n ys
    (zs, fl ||| fs)

/-- VRSUM, VRMIN and VRMAX (R348). -/
def reduceStep (f : VFields) (op : Nat) (c : Reading) : OneStep :=
  let id := identity f.ty op
  let (xs, fl) := tree (combine f op) id 11 ((List.range c.total).map (fun i => if c.active i then c.at_ i else id))
  let x := xs.head?.getD id
  { places := [(0, x)]
    push := if f.ext.getLsbD 0 then some (if f.ty = 2 then x.signExtend 64 else x.setWidth 64) else none, flags := fl }

def execVrsum (f : VFields) (s : State) : Result := oneStep s f (Instr.vrsum f).word (reduceStep f 0)
def execVrmin (f : VFields) (s : State) : Result := oneStep s f (Instr.vrmin f).word (reduceStep f 1)
def execVrmax (f : VFields) (s : State) : Result := oneStep s f (Instr.vrmax f).word (reduceStep f 2)

/-- The winning pair of VRMINI or VRMAXI (R349). -/
def winnerOf (f : VFields) (high : Bool) (c : Reading) : Word × FlagSet :=
  let float := decide (f.ty.toNat ≤ 1)
  let val := fun i => if f.ty = 1 then c.at_ i &&& 0xFFFF0000 else c.at_ i
  let fl := fun i => readFloat (f.ty = 1) (c.at_ i)
  let better := fun (a b : Elem × Nat) =>
    let (x, y) := ((keyOf f.ty.toNat a.1).toNat, (keyOf f.ty.toNat b.1).toNat)
    (if high then decide (x < y) else decide (y < x)) || (x = y && decide (b.2 < a.2))
  let start : Elem × Nat := (identity f.ty (if high then 2 else 1), 0xFFFFFFFF)
  let w := (c.selected.filter (fun i => !(float && (fl i).isNan))).foldl (fun a i => if better a (val i, i) then (val i, i) else a) start
  (BitVec.ofNat 64 (w.2 * 2 ^ 32 + w.1.toNat), if float && c.selected.any (fun i => (fl i).signals) then flagNv else 0)

def execVrmini (f : VFields) (s : State) : Result := pushStep s f (winnerOf f false)
def execVrmaxi (f : VFields) (s : State) : Result := pushStep s f (winnerOf f true)

/-- a + b in RNE, and its exact error (R350). -/
def twoSum (a b : Elem) : Elem × Elem × FlagSet :=
  let (x, y) := (readFloat false a, readFloat false b)
  let (r, fl) := addFl false .rne x y
  match x, y, readFloat false r with
  | .fin s n d, .fin t m e, .fin u p q =>
    let z := (signed s n * e + signed t m * d) * q - signed u p * (d * e)
    (r, if z = 0 then 0 else (roundElem false .rne (decide (z < 0)) z.natAbs (d * e * q)).1, fl)
  | _, _, _ => (r, 0, fl)

/-- A node of VRTS (R350). -/
def twoSumNode (a b : Elem × Elem) : (Elem × Elem) × FlagSet :=
  let add := fun (x y : Elem) => addFl false .rne (readFloat false x) (readFloat false y)
  let (r, t, f1) := twoSum a.1 b.1
  let (l1, f2) := add a.2 b.2
  let (l2, f3) := add l1 t
  let (hi, lo, f4) := twoSum r l2
  ((hi, lo), f1 ||| f2 ||| f3 ||| f4)

def execVrts (f : VFields) (s : State) : Result :=
  oneStep s f (Instr.vrts f).word (fun c =>
    let z : Elem := 0x80000000
    let (xs, fl) := tree twoSumNode (z, z) 11 ((List.range c.total).map (fun i => (if c.active i then c.at_ i else z, z)))
    let x := xs.head?.getD (0, 0)
    { places := [(0, x.1), (1, x.2)]
      push := if f.ext.getLsbD 0 then some (BitVec.ofNat 64 (x.2.toNat * 2 ^ 32 + x.1.toNat)) else none, flags := fl })

/-- The fold of one column (R351). -/
def foldColumn (f : VFields) (c : Reading) (e : Nat) : Elem × FlagSet :=
  let op := f.ext.toNat % 4
  let id := identity f.ty op
  let (xs, fl) := tree (combine f op) id 3
    ((List.range maxr).map (fun r => if r < c.v.vr ∧ c.active (r * c.v.vl + e) then c.plainA r e else id))
  (xs.head?.getD id, fl)

/-- Results at index 0 onwards up to the first that raises an enabled flag. -/
def runUntil (c : Reading) (g : Nat → Elem × FlagSet) : List Nat → List (Nat × Elem) × List (Nat × FlagSet) × Option Nat
  | [] => ([], [], none)
  | i :: is =>
    let (x, fl) := g i
    if c.v.enabled fl then ([(i, x)], [(i, fl)], some i)
    else
      let r := runUntil c g is
      ((i, x) :: r.1, (if fl = 0 then r.2.1 else (i, fl) :: r.2.1), r.2.2)

def execVfold (f : VFields) (s : State) : Result :=
  crossDo s f (Instr.vfold f).word [f.sa] (fun tid c s =>
    let last := s.share.upto (groupOf (s.core (tid / 4)).split) c.v.work.vstart c.v.vl
    let (ws, fs, stop) := runUntil c (foldColumn f c) ((List.range last).drop c.v.work.vstart)
    let s := s.putElems tid f.vd.toNat ws
    let s := s.setVthread tid ((s.vthread tid).mergeAll fs)
    match stop with
    | some i => .error (.trap (s.setVstart tid (i + 1)) causeFpTrap (BitVec.ofNat 64 i) none)
    | none =>
      if last < c.v.vl then .error (.wait (s.setVstart tid last))
      else .ok (s.putElems tid f.vd.toNat (s.tailWrites tid c (fun r e => r = 0 && decide (e < c.v.vl)))))

/-- The outputs of a scan with the flags of each sum, in flat order (R352). -/
def scanFrom (f : VFields) (c : Reading) (op : Nat) (ex : Bool) (acc : Elem) : List Nat → List (Elem × FlagSet)
  | [] => []
  | i :: is =>
    let (y, fl) := combine f op acc (if c.active i then c.at_ i else identity f.ty op)
    (if ex then acc else y, fl) :: scanFrom f c op ex y is

/-- The places and flags of a scan from VSTART on, up to the first enabled flag (R268, R352). -/
def scanPlaces (c : Reading) : List (Nat × Elem × FlagSet) → List (Nat × Elem) × List (Nat × FlagSet) × Option Nat
  | [] => ([], [], none)
  | (i, x, fl) :: rest =>
    let w := if c.active i then [(c.place i, x)] else if c.f.mask = 2 then [(c.place i, c.v.fill)] else []
    if c.v.enabled fl && c.active i then (w, [(i, fl)], some i)
    else
      let r := scanPlaces c rest
      (w ++ r.1, (if fl = 0 then r.2.1 else (i, fl) :: r.2.1), r.2.2)

def execVscan (f : VFields) (s : State) : Result :=
  crossParts s f (Instr.vscan f).word [f.sa] (fun tid c s =>
    let op := f.ext.toNat % 4
    let outs := scanFrom f c op (f.ext.getLsbD 2) (identity f.ty op) (List.range c.total)
    let (ws, fs, stop) := scanPlaces c (((List.range c.stop).zip outs).drop c.v.work.vstart)
    let s := s.putElems tid f.vd.toNat ws
    let s := s.setVthread tid ((s.vthread tid).mergeAll fs)
    match stop with
    | some i => .error (.trap (s.setVstart tid (i + 1)) causeFpTrap (BitVec.ofNat 64 i) none)
    | none => s.goOn tid c (fun s => s.putElems tid f.vd.toNat (s.tailWrites tid c (State.inTile c))))

def execVconf (f : VFields) (s : State) : Result :=
  crossParts s f (Instr.vconf f).word [f.sa] (fun tid c s =>
    s.placeSweep tid c (fun i => plain (BitVec.ofNat 32 ((c.selected.filter (fun j => decide (j < i) && c.at_ j = c.at_ i)).length))))

end Sys2Proof.Machine
end

