-- ==== Sys2Proof/Machine/VecMem.lean ====
section
/-! DEFINITION. Vector loads, stores, the linked pair, scatter-add, stream bindings, and fetches performed ahead (R59, R60, R137 to R139, R145, R255 to R261, R355 to R370). -/

namespace Sys2Proof.Machine

/-- The base of a vector memory instruction (R355). -/
def Reading.base (c : Reading) : Word := c.v.word c.f c.f.sa + (c.f.off.signExtend 64 <<< 2)

/-- Bytes of an element in memory. -/
def Reading.wid (c : Reading) : Nat := formatBytes c.f.fmt c.f.ty

/-- A count of bytes as an address offset. -/
def bytesAt (i : Int) : Word := BitVec.ofInt 64 i

/-- Element addresses: contiguous, strided, indexed (R358). -/
def Reading.unitEa (c : Reading) (i : Nat) : Word := c.base + bytesAt (i * c.wid)
def Reading.stridedEa (c : Reading) (i : Nat) : Word :=
  let w := c.v.word c.f c.f.sb
  c.base + bytesAt ((w.extractLsb' 32 32).toInt * c.row i + (w.extractLsb' 0 32).toInt * c.col i)
def Reading.indexedEa (c : Reading) (i : Nat) : Word := c.base + bytesAt ((c.srcB i).toInt * c.wid)

/-- A plain access of one element. -/
def oneAcc (i : Nat) (ea : Word) (n : Nat) (data : Word) : VAcc :=
  { idx := i, at_ := ea, n := n, ea := ea, data := data, keep := 0, zeroEnds := false }

/-- The plan of a load of a plain format (R358). -/
def Reading.loadPlan (c : Reading) (ea : Nat → Word) : List VElem :=
  c.activeRest.map (fun i => { idx := i, accs := [oneAcc i (ea i) c.wid 0], flags := [], bad := false })

/-- The value width of a block floating-point format (R255, R257). -/
def bfpWidth (fmt : Nat) (geom : Word) : Nat := if fmt = 16 then geomV geom else if fmt = 15 then 16 else fmt - 6

/-- The geometry that a running block reads (R386). -/
def Reading.geom (c : Reading) : Word := (c.v.work.run).elim 0 (fun r => r.geom)
def Reading.width (c : Reading) : Nat := bfpWidth c.f.fmt c.geom

/-- The element number of a flat index (R359). -/
def Reading.number (c : Reading) (i : Nat) : Nat := ((c.v.word c.f c.f.sc).toNat % 2 ^ 32 + i) % 2 ^ 32

/-- The bytes of a mantissa, the bit it starts at, and the accesses to them with some data (R256). -/
def Reading.mantissaAccs (c : Reading) (i : Nat) (m : Int) : List VAcc :=
  let v := c.width
  let bit := c.number i * v
  let a := c.base + bytesAt (bit / 8)
  if v = 16 then [oneAcc i a 2 (BitVec.ofInt 64 (m % 2 ^ 16))]
  else
    let x := (m % 2 ^ v).toNat * 2 ^ (bit % 8)
    let k := (2 ^ v - 1) * 2 ^ (bit % 8)
    let lo : VAcc := { idx := i, at_ := a, n := 1, ea := a, data := BitVec.ofNat 64 (x % 256), keep := BitVec.ofNat 64 (255 - k % 256), zeroEnds := false }
    if 256 ≤ k then
      [lo, { idx := i + 4096, at_ := a + 1, n := 1, ea := a, data := BitVec.ofNat 64 (x / 256), keep := BitVec.ofNat 64 (255 - k / 256), zeroEnds := false }]
    else [lo]

/-- The access to the exponent byte of an element's block (R359). -/
def Reading.exponentAcc (c : Reading) (i : Nat) (e : Nat) : VAcc :=
  let a := c.v.word c.f c.f.sb + bytesAt (c.number i / 256)
  { idx := i + 8192, at_ := a, n := 1, ea := a, data := BitVec.ofNat 64 e, keep := 0, zeroEnds := true }

/-- The plan of a block floating-point load (R359). -/
def Reading.bfpLoadPlan (c : Reading) : List VElem :=
  c.activeRest.map (fun i =>
    { idx := i, accs := (if c.f.fmt = 16 then [] else [c.exponentAcc i 0]) ++ c.mantissaAccs i 0, flags := [], bad := false })

/-- The mantissa that some bytes hold (R255, R256). -/
def Reading.mantissa (c : Reading) (i : Nat) (vals : List (Nat × Word)) : Int :=
  let v := c.width
  let x := ((Tab.find i vals).getD 0).toNat + ((Tab.find (i + 4096) vals).getD 0).toNat * 256
  let m := if v = 16 then x % 2 ^ 16 else x / 2 ^ (c.number i * v % 8) % 2 ^ v
  if m / 2 ^ (v - 1) = 1 then (m : Int) - 2 ^ v else m

/-- The value of a loaded element, or none at a reserved code (R255, R257, R261). -/
def Reading.loaded (c : Reading) (i : Nat) (vals : List (Nat × Word)) : Option Elem :=
  if decide (c.f.fmt < 8) || c.f.fmt = 17 then some (widen c.f.fmt c.f.ty ((Tab.find i vals).getD 0))
  else
    let v := c.width
    let m := c.mantissa i vals
    if c.f.fmt = 16 then (if m = -(2 ^ (v - 1)) then none else some (BitVec.ofInt 32 m))
    else
      let e := ((Tab.find (i + 8192) vals).getD 0).toNat % 256
      if e = 0 then some 0
      else if e = 255 ∨ m = -(2 ^ (v - 1)) then none
      else
        let (n, d) := scaled m.natAbs ((e : Int) - 127 - (v - 2 : Nat))
        some (roundElem false .rne (decide (m < 0)) n d).1

namespace State

/-- Binds the elements of a load in ascending order, up to the first to which `value` gives nothing: a reserved code (R261). -/
def performLoads (s : State) (tid : Nat) (value : Nat → List (Nat × Word) → Option Elem) : List Checked → List (Nat × Elem) × Option (Nat × Word) × State
  | [] => ([], none, s)
  | (e, ps) :: gs =>
    let r := ps.foldl (fun (r : List (Nat × Word) × State) p =>
      let (x, s) := r.2.vectorRead tid p
      ((p.1.idx, x) :: r.1, s)) ([], s)
    match value e.idx r.1 with
    | none => ([], some (e.idx, ((ps.find? (fun p => p.1.idx = e.idx)).elim 0 (fun p => p.1.ea))), r.2)
    | some x =>
      let t := performLoads r.2 tid value gs
      ((e.idx, x) :: t.1, t.2)

/-- The group of a load with Q = 1 so far: what it has read, fill() elsewhere (R358). -/
def groupSoFar (c : Reading) (xs : List (Nat × Elem)) : Group :=
  let g := c.v.work.part.getD { vr := c.v.vr, vl := c.v.vl, data := List.replicate c.total c.v.fill, struck := false }
  { g with data := xs.foldl (fun d x => d.set x.1 x.2) g.data }

/-- Delivers a load's group unless it would raise the queued rows above 64 (R56). -/
def deliverLoad (s : State) (tid : Nat) (f : VFields) (g : Group) : State :=
  if decide (s.queuedRows tid + g.vr ≤ 64) then s.deliver tid f.queue g else s

/-- Places the elements a load has read below a flat index (R281, R358). -/
def placeLoads (s : State) (tid : Nat) (c : Reading) (xs : List (Nat × Elem)) (below : Nat) : State :=
  let s := if c.f.q then
      let v := s.vthread tid
      s.setVthread tid { v with work := { v.work with part := some (groupSoFar c xs) } }
    else s
  if c.f.q && !c.f.w then s
  else s.putElems tid c.f.vd.toNat (maskedWrites c (c.rest.filter (fun i => decide (i < below))) ++ xs.map (fun x => (c.place x.1, x.2)))

/-- Completes a load: the tail, and the group it delivers (R55, R281). -/
def completeLoad (s : State) (tid : Nat) (c : Reading) (g : Group) : State :=
  let s := if c.f.q && !c.f.w then s else s.putElems tid c.f.vd.toNat (s.tailWrites tid c (inTile c))
  if c.f.q then s.deliverLoad tid c.f g else s

/-- The sounding pass of an indexed access: every active element is checked before any commits, and what waits holds them all (R34). The
elements below the first that faults go on. -/
def soundAll (s : State) (tid : Nat) (k : Kind) (space : BitVec 2) (plan : List VElem) : Except Stop State :=
  if (s.vthread tid).work.packets ≠ [] then .ok s
  else match s.sound tid k space false (s.earlyOf tid) plan with
    | (_, some (_, .wait s), _) => .error (.wait s)
    | (_, _, s) => .ok s

/-- Runs this step of a load from its plan; `tags` links the lines it reads (R137, R358). -/
def runLoad (s : State) (tid : Nat) (c : Reading) (plan : List VElem) (value : Nat → List (Nat × Word) → Option Elem) (tags : State → List Checked → State) : Except Stop State :=
  let f := c.f
  let s := s.orderVector tid f.rs.toNat 0
  match s.access tid .read .load f.space false c.lim plan with
  | .wait s => .error (.wait s)
  | .ready s good stop again =>
    let (xs, bad, s) := s.performLoads tid value good
    let s := tags s (good.filter (fun g => xs.any (fun x => x.1 = g.1.idx)))
    match bad, stop, again with
    | some (i, ea), _, _ => .error (.trap ((s.placeLoads tid c xs i).setVstart tid i) causeReservedCode ea none)
    | none, some (i, cause, tval, info), _ => .error (.trap ((s.placeLoads tid c xs i).setVstart tid i) cause tval info)
    | none, none, some u => .error (.wait ((s.placeLoads tid c xs u).setVstart tid u))
    | none, none, none =>
      let s := s.placeLoads tid c xs c.total
      .ok (s.completeLoad tid c (groupSoFar c xs))

/-- A load performed ahead completes with the group it has read (R59, R60). -/
def takeAhead (s : State) (tid : Nat) (c : Reading) (key : Nat) (g : Group) : State :=
  let v := s.vthread tid
  let s := s.setVthread tid { v with ahead := Tab.del key v.ahead }
  let s := if c.f.w then
      s.putElems tid c.f.vd.toNat (maskedWrites c c.rest ++ c.activeRest.map (fun i => (c.place i, g.data.getD i 0)))
    else s
  s.completeLoad tid c g

end State

/-- Format 16 needs a geometry (R257). -/
def bfpReady (s : State) (tid : Nat) (f : VFields) (word : Word) : Except Stop Unit :=
  if f.fmt = 16 && ((s.vthread tid).work.run).all (fun r => bits r.geom 61 58 = 0) then .error (.trap s causeIllegal word none) else .ok ()

/-- A load of an addressing form (R358, R359); `indexed` gives it a sounding pass (R34). -/
def vectorLoad (s : State) (f : VFields) (word : Word) (codes : List (BitVec 6)) (indexed : Bool) (plan : Reading → List VElem) : Result :=
  vectorDo s f (fun tid => do
    let _ ← bfpReady s tid f word
    let (c, s) ← s.begin_ tid f codes []
    match c.v.work.run, s.aheadOf tid 0 with
    | some r, some g => .ok (s.takeAhead tid c (State.aheadKey r.seq r.word 0) g)
    | _, _ => do
      let s ← (if indexed then s.soundAll tid .read f.space (plan c) else .ok s)
      let c := s.partOf tid c
      s.runLoad tid c (plan c) c.loaded (fun s _ => s))

/-- The plan of VLD, VLDS and VLDX. -/
def vldPlan (c : Reading) : List VElem := if decide (c.f.fmt < 8) || c.f.fmt = 17 then c.loadPlan c.unitEa else c.bfpLoadPlan

def execVld (f : VFields) (s : State) : Result := vectorLoad s f (Instr.vld f).word [] false vldPlan
def execVlds (f : VFields) (s : State) : Result := vectorLoad s f (Instr.vlds f).word [] false (fun c => c.loadPlan c.stridedEa)
def execVldx (f : VFields) (s : State) : Result := vectorLoad s f (Instr.vldx f).word [f.sb] true (fun c => c.loadPlan c.indexedEa)

/-- The plan of a store of a plain format; `scaled_` says that sc is its scale (R361). -/
def Reading.storePlan (c : Reading) (ea : Nat → Word) (scaled_ : Bool) : List VElem :=
  c.activeRest.map (fun i =>
    let (x, fl) := narrow c.f.fmt c.f.ty (c.dest i) (if scaled_ then c.srcC i else 0x3F800000)
    { idx := i, accs := [oneAcc i (ea i) c.wid x], flags := if fl = 0 then [] else [(i, fl)], bad := false })

/-- The plan of a raw-mantissa store (R257). -/
def Reading.rawStorePlan (c : Reading) : List VElem :=
  c.activeRest.map (fun i =>
    let x := (c.dest i).toInt
    { idx := i, accs := c.mantissaAccs i x, flags := [], bad := decide (2 ^ (c.width - 1) - 1 < x.natAbs) })

/-- The mantissas of a block under an exponent: flat index, integer, exactness (R260). -/
def blockMantissas (v : Nat) (e : Int) (xs : List (Nat × Bool × Nat × Nat)) : List (Nat × Int × Bool) :=
  xs.map (fun x =>
    let (m, inexact) := roundAt .rne x.2.1 x.2.2.1 x.2.2.2 (e - 127 - (v - 2 : Nat))
    (x.1, signed x.2.1 m, inexact))

/-- Narrows one block: its exponent byte, mantissas and flags by flat index (R260). -/
def narrowBlock (v : Nat) (xs : List (Nat × Elem)) : Nat × List (Nat × Int) × List (Nat × FlagSet) :=
  let fl := fun (x : Nat × Elem) => readFloat false x.2
  let odd := fun (x : Nat × Elem) => match fl x with | .fin _ _ _ => false | _ => true
  if xs.any odd then (255, xs.map (fun x => (x.1, 0)), (xs.filter odd).map (fun x => (x.1, flagNv)))
  else
    let fs := xs.map (fun x => match fl x with | .fin s n d => (x.1, s, n, d) | _ => (x.1, false, 0, 1))
    let nz := fs.filter (fun x => x.2.2.1 ≠ 0)
    match nz with
    | [] => (0, xs.map (fun x => (x.1, 0)), [])
    | y :: ys =>
      let top := ys.foldl (fun m x => let k := ilog2 x.2.2.1 x.2.2.2; if m < k then k else m) (ilog2 y.2.2.1 y.2.2.2)
      let e := clampInt 1 254 (top + 127)
      let big : Nat := 2 ^ (v - 1)
      let ms := blockMantissas v e fs
      let (e, ms) := if ms.any (fun m => m.2.1.natAbs = big) && decide (e < 254) then (e + 1, blockMantissas v (e + 1) fs) else (e, ms)
      let tooBig := fun (m : Nat × Int × Bool) => decide (big ≤ m.2.1.natAbs)
      (e.toNat, ms.map (fun m => (m.1, clampInt (-((big : Int) - 1)) ((big : Int) - 1) m.2.1)),
        (ms.map (fun m =>
          let ix := m.2.2 || tooBig m
          (m.1, (if tooBig m then flagOf else 0) ||| (if ix then flagNx else 0) ||| (if ix && e = 1 then flagUf else 0)))).filter (fun m => m.2 ≠ 0))

/-- The active elements from VSTART on, grouped by block in ascending order (R360). -/
def groupBlocks (number : Nat → Nat) : List Nat → List (List Nat)
  | [] => []
  | i :: is =>
    match groupBlocks number is with
    | (j :: js) :: rest => if number i / 256 = number j / 256 then (i :: j :: js) :: rest else [i] :: (j :: js) :: rest
    | rest => [i] :: rest

/-- The plan of a block floating-point store: one step for each block (R360). -/
def Reading.bfpStorePlan (c : Reading) : List VElem :=
  (groupBlocks c.number c.activeRest).filterMap (fun is => match is with
    | [] => none
    | i :: _ =>
      let (e, ms, fs) := narrowBlock c.width (is.map (fun j => (j, c.dest j)))
      some { idx := i, accs := c.exponentAcc i e :: (ms.map (fun m => c.mantissaAccs m.1 m.2)).flatten, flags := fs, bad := false })

/-- The flat index behind an element or block. -/
def VElem.next (e : VElem) : Nat := e.accs.foldl (fun m a => Nat.max m (a.idx % 4096)) e.idx + 1

/-- A plan up to its first element that raises an enabled flag, with that flag's index (R268, R360). -/
def cutPlan (v : VThread) : List VElem → List VElem × Option (Nat × Nat)
  | [] => ([], none)
  | e :: es =>
    match v.firstEnabled e.flags with
    | some i => ([e], some (i, e.next))
    | none => let r := cutPlan v es; (e :: r.1, r.2)

namespace State

/-- A store of a format that narrows block by block (R360). -/
def byBlock (f : VFields) : Bool := decide (8 ≤ f.fmt) && decide (f.fmt ≤ 15)

/-- Gives the elements that write one location here the value of one of them, a free choice, where they take effect at once (R135, R362;
log 3); those that are deferred may take effect one by one in any order (`mayPass`). -/
def chooseWinners (s : State) (good : List Checked) : List Checked × State :=
  let at_ := fun (g : Checked) => g.2.filterMap (fun p => match p.2 with | .here l _ => some l | _ => none)
  let data := fun (g : Checked) => ((g.2.head?).elim 0 (fun p => p.1.data))
  let lines := ((good.map at_).eraseDups).filter (fun l => l ≠ [])
  lines.foldl (fun (r : List Checked × State) l =>
    let same := (good.filter (fun g => at_ g = l)).map data
    if same.length ≤ 1 then r
    else
      let (n, s) := r.2.draw same.length
      (r.1.map (fun g => if at_ g = l then (g.1, g.2.map (fun p => ({ p.1 with data := same.getD n 0 }, p.2))) else g), s)) (good, s)

/-- Runs this step of a store from its plan (R361); `free` leaves the order of elements of one location open (R362). -/
def runStore (s : State) (tid : Nat) (c : Reading) (free : Bool) (plan : List VElem) : Except Stop State :=
  let (plan, cut) := cutPlan c.v plan
  match s.access tid .write .store c.f.space false (if cut.isSome then none else c.lim) plan with
  | .wait s => .error (.wait s)
  | .ready s good stop again =>
    let (good, s) := if free && !s.defer then s.chooseWinners good else (good, s)
    let s := s.performStores tid c.f.rs.toNat (byBlock c.f) free good
    let s := s.setVthread tid ((s.vthread tid).mergeAll ((good.map (fun g => g.1.flags)).flatten))
    match stop, again, cut with
    | some (i, cause, tval, info), _, _ => .error (.trap (s.setVstart tid i) cause tval info)
    | none, some u, _ => .error (.wait (s.setVstart tid u))
    | none, none, some (i, n) => .error (.trap (s.setVstart tid n) causeFpTrap (BitVec.ofNat 64 i) none)
    | none, none, none => .ok s

end State

/-- A step of a store ends at a flat index; one that narrows by blocks goes on to the next block's start or the end (R360, R370). -/
def Reading.toBlock (c : Reading) (stop : Nat) : Reading :=
  { c with stop := if State.byBlock c.f then ((List.range c.total).find? (fun i => decide (stop ≤ i) && c.number i % 256 = 0)).getD c.total else stop }

/-- A store of an addressing form; `indexed` gives it a sounding pass (R34), `free` leaves the order of its elements open (R362). -/
def vectorStoreOp (s : State) (f : VFields) (word : Word) (codes : List (BitVec 6)) (indexed free : Bool) (plan : Reading → List VElem) : Result :=
  vectorDo s f (fun tid => do
    let _ ← bfpReady s tid f word
    let (c, s) ← s.begin_ tid f codes [f.vd.toNat]
    let s ← (if indexed then s.soundAll tid .write f.space (plan c) else .ok s)
    let c := c.toBlock (s.partOf tid c).stop
    s.runStore tid c free (plan c))

/-- The plan of VST by its format class. -/
def vstPlan (c : Reading) : List VElem :=
  if decide (c.f.fmt < 8) || c.f.fmt = 17 then c.storePlan c.unitEa (c.f.sc ≠ 0)
  else if c.f.fmt = 16 then c.rawStorePlan else c.bfpStorePlan

/-- The scale operand, when a store of a plain format names one. -/
def scaleCodes (f : VFields) : List (BitVec 6) := if f.sc ≠ 0 && (decide (f.fmt < 8) || f.fmt = 17) then [f.sc] else []

def execVst (f : VFields) (s : State) : Result := vectorStoreOp s f (Instr.vst f).word (scaleCodes f) false false vstPlan
def execVsts (f : VFields) (s : State) : Result :=
  vectorStoreOp s f (Instr.vsts f).word (scaleCodes f) false false (fun c => c.storePlan c.stridedEa (f.sc ≠ 0))
def execVstxO (f : VFields) (s : State) : Result := vectorStoreOp s f (Instr.vstxO f).word [f.sb] true false (fun c => c.storePlan c.indexedEa false)

/-- The datum of an element of a plain plan. -/
def VElem.datum (e : VElem) : Word := (e.accs.head?).elim 0 (fun a => a.data)

/-- VSTX.u (R135, R362). -/
def execVstxU (f : VFields) (s : State) : Result :=
  vectorStoreOp s f (Instr.vstxU f).word [f.sb] true true (fun c => c.storePlan c.indexedEa false)

namespace State

/-- Writes a waypoint value as a release of the elements below it (R145, R363): done, or a wait. -/
def writeWaypoint (s : State) (tid : Nat) (c : Reading) (p : Nat) : Except Stop State :=
  let w := c.v.word c.f c.f.sb
  let a := w &&& ~~~7#64
  let scope := w.toNat % 8
  let s := s.flushVector tid (fun k => k = c.f.rs.toNat)
  let clear := fun (s : State) =>
    let v := s.vthread tid
    s.setVthread tid { v with work := { v.work with wayp := none } }
  if decide (3 ≤ scope) && s.unperformed (s.thread tid).uid (scope = 4) then .error (.wait s)
  else match s.access tid .write .store c.f.space false none [{ idx := p, accs := [oneAcc p a 8 (BitVec.ofNat 64 p)], flags := [], bad := false }] with
    | .wait s => .error (.wait s)
    | .ready s good none none => .ok (clear (s.performStores tid c.f.rs.toNat false false good))
    | .ready s _ (some (_, cause, tval, info)) _ => .error (.trap s cause tval info)
    | .ready s _ none (some _) => .error (.wait s)

/-- Sets the waypoint value to be written next. -/
def setWayp (s : State) (tid p : Nat) : State :=
  let v := s.vthread tid
  s.setVthread tid { v with work := { v.work with wayp := some p } }

/-- The elements of VSTN up to the next set of 64 (R363). -/
def runSet (s : State) (tid : Nat) (c : Reading) : Except Stop State :=
  let total := c.total
  let v0 := c.v.work.vstart
  let next := Nat.min (s.partOf tid c).stop (Nat.min total ((v0 / 64 + 1) * 64))
  let c := { c with stop := next }
  let reached := fun (s : State) (i : Nat) => let s := s.setVstart tid i; if i = total ∨ i % 64 = 0 then s.setWayp tid i else s
  match s.runStore tid c false (c.storePlan c.unitEa (c.f.sc ≠ 0)) with
  | .ok s => .ok (reached s next)
  | .error (.trap s cause tval info) =>
    let i := (s.vthread tid).work.vstart
    .error (.trap (if cause = causeFpTrap then reached s i else s) cause tval info)
  | .error (.wait s) => .error (.wait (if (s.vthread tid).work.vstart = next && (s.vthread tid).work.packets = [] then reached s next else s))

end State

/-- VSTN: the waypoint's address first, then set by set, each with its waypoint write (R363). -/
def execVstn (f : VFields) (s : State) : Result :=
  vectorDo s f (fun tid => do
    let word := (Instr.vstn f).word
    let (c, s) ← s.begin_ tid f (scaleCodes f) [f.vd.toNat]
    let w := c.v.word f f.sb
    if 5 ≤ w.toNat % 8 then .error (.trap s causeIllegal word none)
    else
      let a := w &&& ~~~7#64
      let start := c.v.work.packets = [] && c.v.work.wayp.isNone
      let s ← (if !start then .ok s
        else match s.sound tid .write f.space false (fun _ => none) [{ idx := c.v.work.vstart, accs := [oneAcc c.v.work.vstart a 8 0], flags := [], bad := false }] with
          | (_, some (_, e), _) => .error e
          | (_, none, s) => .ok s)
      match c.v.work.wayp with
      | some p => do
        let s ← s.writeWaypoint tid c p
        if p = c.total then .ok s else .error (.wait s)
      | none => do
        let s ← s.runSet tid c
        match (s.vthread tid).work.wayp with
        | none => .error (.wait s)
        | some p => do
          let s ← s.writeWaypoint tid c p
          if p = c.total then .ok s else .error (.wait s))

namespace State

/-- The link tag of the line of a location: its holder (R137). -/
def linkOf (s : State) (l : Loc) : Option (Nat × Nat) :=
  match l with
  | .hbm a => Tab.find (a / 64) s.links
  | .scratch c o => Tab.find (o / 64) (s.core c).links
  | _ => none

/-- Sets or clears the link tag of the line of a location (R137, R139). -/
def setLink (s : State) (l : Loc) (t : Option (Nat × Nat)) : State :=
  let upd := fun (k : Nat) (m : Tab (Nat × Nat)) => match t with
    | some x => Tab.put k x m
    | none => Tab.del k m
  match l with
  | .hbm a => { s with links := upd (a / 64) s.links }
  | .scratch c o => s.setCore c { s.core c with links := upd (o / 64) (s.core c).links }
  | _ => s

end State

/-- The local places of some checked elements. -/
def localSpots (good : List Checked) : List (VAcc × Loc × BitVec 256) :=
  (good.map (fun g => g.2)).flatten.filterMap (fun p => match p.2 with
    | .here l key => some (p.1, l, key)
    | _ => none)

/-- VGLL: a gather that links every line it reads (R137, R364). -/
def execVgll (f : VFields) (s : State) : Result :=
  vectorDo s f (fun tid => do
    let (c, s) ← s.begin_ tid f [f.sb] []
    let s ← s.soundAll tid .read f.space (c.loadPlan c.indexedEa)
    let c := s.partOf tid c
    s.runLoad tid c (c.loadPlan c.indexedEa) c.loaded (fun s good =>
      (localSpots good).foldl (fun s p => s.setLink p.2.1 (some (tid, f.rs.toNat))) s))

/-- The line of a location, as a location. -/
def lineOf : Loc → Loc
  | .hbm a => .hbm (a / 64)
  | .scratch c o => .scratch c (o / 64)
  | l => l

/-- The elements of an instruction that acts on words of 4 bytes. -/
def Reading.wordPlan (c : Reading) : List VElem :=
  c.activeRest.map (fun i => { idx := i, accs := [oneAcc i (c.indexedEa i) 4 ((c.dest i).setWidth 64)], flags := [], bad := false })

/-- The steps of a VSCC: the lines that its elements touch here, with the first element of each location in a line (R139). -/
def lineSteps (good : List Checked) : List AtomicStep :=
  let ls := (localSpots good).map (fun p => (p.1.idx, p.2.1, p.2.2, p.1.data))
  let firsts := fun (line : Loc) => (ls.filter (fun p => lineOf p.2.1 = line)).foldl
    (fun (r : List (Nat × Loc × BitVec 256 × Word)) p => if r.any (fun q => q.2.1 = p.2.1) then r else r ++ [p]) []
  ((ls.map (fun p => lineOf p.2.1)).eraseDups).map (fun line => ⟨firsts line⟩)

/-- What one element of a scatter-add names: the word here, or one that a packet has added to, with its value before when the element
is the first of its word in the packet. -/
def scatterAt (e : Checked) : Option (VElem × Loc × BitVec 256 × Option Word) :=
  match e.2 with
  | [(_, .here l key)] => some (e.1, l, key, none)
  | [(a, .got old)] => some (e.1, .remote 0 0 a.at_.toNat, 0, some old)
  | _ => none

/-- The flags of a word of a scatter-add with its value before (R366). -/
def scatterFlags (float : Bool) (old : Word) (a : Elem) (fl : FlagSet) : FlagSet :=
  if float then fl ||| (addFl false .rne (readFloat false (old.setWidth 32)) (readFloat false a)).2 else 0

/-- The steps of a scatter-add, one for each word here with its combined addend, and the flags that the words know so far (R136, R366):
those of the additions among the addends, and all those of a word that a packet has added to. -/
def scatterWork (float : Bool) (good : List Checked) : List AtomicStep × List (Nat × FlagSet) :=
  (byWord (fun x => x.2.1) (good.filterMap scatterAt)).foldl (fun (r : List AtomicStep × List (Nat × FlagSet)) w =>
    let (e, l, key, got) := w.1
    let (a, fl) := combineAddends float ((e :: w.2.map (fun x => x.1)).map (fun x => x.datum.setWidth 32))
    let fl := match got with | some old => scatterFlags float old a fl | none => if float then fl else 0
    let step : List AtomicStep := match got with | some _ => [] | none => [⟨[(e.idx, l, key, a.setWidth 64)]⟩]
    (r.1 ++ step, if fl = 0 then r.2 else r.2 ++ [(e.idx, fl)])) ([], [])

namespace State

/-- Acts on one line of a VSCC: it stores where the line is linked by the thread with the stream (R139). -/
def lineStep (s : State) (tid stream : Nat) (w : AtomicWork) (x : AtomicStep) : AtomicWork × State :=
  match x.accs with
  | [] => (w, s)
  | h :: _ =>
    let linked := s.linkOf h.2.1 = some (tid, stream)
    let s := s.setLink h.2.1 none
    if !linked then (w, s)
    else ({ w with won := w.won ++ x.accs.map (fun p => p.1) },
      x.accs.foldl (fun (s : State) p => s.perform p.2.2.1 p.2.1 (bytesOf p.2.2.2 4) (some (tid, stream))) s)

/-- Adds to one word of a VSCTADD (R136, R366). -/
def wordStep (s : State) (tid stream : Nat) (float : Bool) (w : AtomicWork) (x : AtomicStep) : AtomicWork × State :=
  x.accs.foldl (fun (r : AtomicWork × State) p =>
    let (i, l, key, a) := p
    let old := wordOf ((List.range 4).map (fun k => r.2.homeByte key (l.plus k)))
    let fl := scatterFlags float old (a.setWidth 32) 0
    ({ r.1 with flags := if fl = 0 then r.1.flags else r.1.flags ++ [(i, fl)] }, r.2.perform key l (bytesOf (scatterSum float old a) 4) (some (tid, stream)))) (w, s)

/-- Keeps the steps of an instruction that has begun to act. -/
def setAtomic (s : State) (tid : Nat) (w : Option AtomicWork) : State :=
  let v := s.vthread tid
  s.setVthread tid { v with work := { v.work with atomic := w } }

/-- Performs steps of a VSCC or VSCTADD in this turn, all that are left or one of any place among them (R122, R136), where no store of the
die to their bytes waits (R115): the work behind them. -/
def atomicTurn (s : State) (tid : Nat) (one : State → AtomicWork → AtomicStep → AtomicWork × State) (w : AtomicWork) : AtomicWork × State :=
  let pick := match s.share with
    | .whole => w.steps
    | .groups n => ((w.steps[n % w.steps.length]?).map (fun x => [x])).getD []
    | .upTo n => ((w.steps[n % w.steps.length]?).map (fun x => [x])).getD []
    | .place _ n => ((w.steps[n % w.steps.length]?).map (fun x => [x])).getD []
  let free := pick.filter (fun x => !x.accs.any (fun p => s.egressHolds (tid / 64) p.2.1 4))
  let r := free.foldl (fun (r : AtomicWork × State) x => one r.2 r.1 x) (w, s)
  ({ r.1 with steps := w.steps.filter (fun x => !free.contains x) }, r.2)

end State

/-- VSCC: each line its elements touch is acted on in one step at its home, the lines in any order (R122, R139, R365). -/
def execVscc (f : VFields) (s : State) : Result :=
  vectorDo s f (fun tid => do
    let (c, s) ← s.begin_ tid f [f.sb] [f.vd.toNat]
    let s := s.orderVector tid f.rs.toNat 0
    let (w, s) ← (match c.v.work.atomic with
      | some w => .ok (w, s)
      | none => match s.access tid .write .store f.space true none c.wordPlan with
        | .wait s => .error (.wait s)
        | .ready s good stop _ =>
          if (localSpots good).any (fun p => s.egressHolds (tid / 64) p.2.1 4) then .error (.wait s)
          else .ok ({ steps := lineSteps good, won := [], flags := [], stop := stop, again := none }, s))
    let (w, s) := s.atomicTurn tid (fun s w x => s.lineStep tid f.rs.toNat w x) w
    if w.steps ≠ [] then .error (.wait (s.setAtomic tid (some w)))
    else
      let s := s.setAtomic tid none
      let below := w.stop.elim c.total (fun x => x.1)
      let s := s.putElems tid f.vd.toNat (State.maskedWrites c (c.rest.filter (fun i => decide (i < below)))
        ++ ((c.activeRest.filter (fun i => decide (i < below))).map (fun i => (c.place i, (if w.won.contains i then 1 else 0 : Elem)))))
      match w.stop with
      | some (i, cause, tval, info) => .error (.trap (s.setVstart tid i) cause tval info)
      | none => .ok (s.putElems tid f.vd.toNat (s.tailWrites tid c (State.inTile c))))

/-- VSCTADD (R366): every element is checked, and what goes to other modules sent, before any word is added to; the words here take the
elements below the first that stops, in any order. -/
def execVsctadd (f : VFields) (s : State) : Result :=
  vectorDo s f (fun tid => do
    let (c, s) ← s.begin_ tid f [f.sb] [f.vd.toNat]
    let float := f.ty = 0
    let s := s.orderVector tid f.rs.toNat 0
    let (w, s) ← (match c.v.work.atomic with
      | some w => .ok (w, s)
      | none => match s.access tid .atomic (if float then .addF32 else .addI32) f.space false none c.wordPlan with
        | .wait s => .error (.wait s)
        | .ready s good stop again =>
          let (steps, flags) := scatterWork float good
          .ok ({ steps := steps, won := [], flags := flags, stop := stop, again := again }, s))
    let (w, s) := s.atomicTurn tid (fun s w x => s.wordStep tid f.rs.toNat float w x) w
    if w.steps ≠ [] then .error (.wait (s.setAtomic tid (some w)))
    else
      let s := s.setAtomic tid none
      let fs := sortBy (fun a b => decide (a.1 ≤ b.1)) w.flags
      let s := s.setVthread tid ((s.vthread tid).mergeAll fs)
      match w.stop, w.again with
      | some (i, cause, tval, info), _ => .error (.trap (s.setVstart tid i) cause tval info)
      | none, some u => match s.sound tid .atomic f.space false (fun _ => none) (c.wordPlan.filter (fun e => decide (u ≤ e.idx))) with
        | ([], some (_, .trap s cause tval info), _) => .error (.trap (s.setVstart tid u) cause tval info)
        | _ => .error (.wait (s.setVstart tid u))
      | none, none => match (s.vthread tid).firstEnabled fs with
        | some i => .error (.trap (s.setVstart tid c.total) causeFpTrap (BitVec.ofNat 64 i) none)
        | none => .ok s)

/-- VSTRM binds a queue to a stream of addresses, or unbinds it (R367). -/
def execVstrm (f : VFields) (s : State) : Result :=
  vectorDo s f (fun tid => do
    let (c, s) ← s.begin_ tid f [] []
    let n := (c.v.word f f.sb).toNat % 2 ^ 32
    let v := s.vthread tid
    let b : Binding := { cursor := c.base, left := n, stream := f.rs.toNat, space := f.space, fmt := f.fmt, ty := f.ty }
    .ok (s.setVthread tid { v with binds := if n = 0 then Tab.del f.queue v.binds else Tab.put f.queue b v.binds }))

/-- Where the access unit has come to as it takes the instructions of a vector thread in program order (R59): an instruction of a block,
the VCQ entries behind that block, the vector thread as the instructions before leave what addresses and shapes depend on, the registers
that they have yet to write and the streams of the accesses that they have yet to make. -/
structure Walk where
  v : VThread
  seq : BitVec 16
  addr : Word
  word : Nat
  geom : Word
  rest : List VcqEntry
  wrote : List Nat
  streams : List Nat
  deriving DecidableEq, Repr

/-- The walk goes on at the next block; a fence or a WMACS holds it (R60). -/
def Walk.nextBlock (w : Walk) : List VcqEntry → Option Walk
  | [] => none
  | e :: es => match e.op with
    | .block a g => some { w with seq := e.seq, addr := a, word := 0, geom := g, rest := es }
    | .varg k x => Walk.nextBlock { w with v := { w.v with bargs := Tab.write 0 k x w.v.bargs } } es
    | .setlen vl vr => Walk.nextBlock { w with v := { w.v with vl := vl, vr := vr } } es
    | .csr f mode x => Walk.nextBlock { w with v := w.v.putCsr f mode x } es
    | .rcfg _ _ => Walk.nextBlock w es
    | _ => none

/-- The instruction that the walk has come to, as it executes. -/
def Walk.reading (w : Walk) (f : VFields) : Reading :=
  let r : BlockRun := { addr := w.addr, word := w.word, geom := w.geom, seq := w.seq, nested := false, drain := none }
  let c : Reading := { v := { w.v with work := { VectorWork.idle with run := some r } }, f := f, groups := [], stop := 0 }
  { c with stop := c.total }

/-- What the walk finds of a pop of a queue: a delivered group, the fetch of a bound queue, or nothing (R58, R368). -/
inductive PopOf where
  | group
  | bound (b : Binding)
  | nothing
  deriving DecidableEq, Repr

def Walk.pop (w : Walk) (q : Nat) : PopOf :=
  match Tab.get [] q w.v.queues, Tab.find q w.v.binds with
  | _ :: _, _ => .group
  | [], some b => .bound b
  | [], none => .nothing

/-- The walk behind a pop: `fetched` says that the fetch of a bound queue has been made; one that has not is an access of its stream. -/
def Walk.popped (w : Walk) (q : Nat) (fetched : Bool) : Walk :=
  match w.pop q with
  | .group => { w with v := { w.v with queues := Tab.put q ((Tab.get [] q w.v.queues).drop 1) w.v.queues } }
  | .bound b =>
    let b' := State.Binding.after b (Nat.min (w.v.vr * w.v.vl) b.left)
    { w with v := { w.v with binds := if b'.left = 0 then Tab.del q w.v.binds else Tab.put q b' w.v.binds }
             streams := if fetched then w.streams else b.stream :: w.streams }
  | .nothing => w

/-- A vector load, and one that delivers a group. -/
def isLoad (op : Nat) : Bool := decide (0x80 ≤ op) && decide (op ≤ 0x82)
def isQueueLoad (op : Nat) (f : VFields) : Bool := isLoad op && f.q

/-- The walk behind an instruction with its opcode and fields, `n` places from the oldest unfinished one. The access unit does not pass
an instruction whose fetch ahead it has yet to make, nor one whose index register is not yet produced (R59), unless it is the oldest,
which executes. -/
def Walk.pass (w : Walk) (first : Bool) (op : Nat) (f : VFields) (popped : Bool) : Option Walk :=
  if op = 0x01 then w.nextBlock w.rest
  else
    let fetched := fun (j : Nat) => (Tab.find (State.aheadKey w.seq w.word j) w.v.ahead).isSome
    let pops := if popped then [] else (popQueues f).zip (List.range 3)
    let held := fun (w : Walk) (p : Nat × Nat) => match w.pop p.1 with | .bound _ => !fetched (p.2 + 1) | _ => false
    let r := pops.foldl (fun (r : Bool × Walk) p => (r.1 || held r.2 p, r.2.popped p.1 (fetched (p.2 + 1)))) (false, w)
    let index := (op = 0x82 || op = 0x85 || decide (0x87 ≤ op) && decide (op ≤ 0x89) || op = 0xB3) && decide (f.sb.toNat < 32) && w.wrote.contains f.sb.toNat
    let waits := r.1 || (isQueueLoad op f && !fetched 0) || index
    let w := r.2
    if waits && !first then none
    else
      let access := (decide (0x80 ≤ op) && decide (op ≤ 0x89) || decide (0xB0 ≤ op) && decide (op ≤ 0xBF)) && !(isQueueLoad op f && fetched 0)
      let named := if op = 0x03 then (List.range 8).filter (fun k => f.ext.getLsbD k) else if access then [f.rs.toNat] else []
      let stores := decide (0x83 ≤ op) && decide (op ≤ 0x86) || op = 0x89 || op = 0x8A
      let w := { w with word := w.word + (if f.l = 1 then 2 else 1), streams := named ++ w.streams
                        wrote := if stores || (isQueueLoad op f && !f.w) then w.wrote else f.vd.toNat :: w.wrote }
      if op = 0x8A then
        let c := w.reading f
        let n := (c.v.word f f.sb).toNat % 2 ^ 32
        let b : Binding := { cursor := c.base, left := n, stream := f.rs.toNat, space := f.space, fmt := f.fmt, ty := f.ty }
        some { w with v := { w.v with binds := if n = 0 then Tab.del f.queue w.v.binds else Tab.put f.queue b w.v.binds } }
      else if isQueueLoad op f then
        let g : Group := { vr := w.v.vr, vl := w.v.vl, data := [], struck := false }
        some { w with v := { w.v with queues := Tab.put f.queue (Tab.get [] f.queue w.v.queues ++ [g]) w.v.queues } }
      else some w

namespace State

/-- The oldest unfinished vector instruction of a thread. -/
def walkStart (s : State) (tid : Nat) : Option Walk :=
  let v := s.vthread tid
  let w : Walk := { v := v, seq := 0, addr := 0, word := 0, geom := 0, rest := [], wrote := [], streams := [] }
  match v.work.run with
  | none => w.nextBlock v.work.vcq
  | some r => some { w with seq := r.seq, addr := r.addr, word := r.word, geom := r.geom, rest := if r.drain.isSome then [] else v.work.vcq.drop 1 }

/-- The walk to the instruction `n` places beyond the oldest unfinished one. -/
def walkTo (s : State) (tid : Nat) : Nat → Option Walk
  | 0 => s.walkStart tid
  | n + 1 => match walkTo s tid n with
    | none => none
    | some w => match s.instrAt tid w.addr w.word with
      | none => none
      | some (i, _, _) => i.vectorParts.bind (fun p => w.pass (n = 0) p.1 p.2 (n = 0 && (s.vthread tid).work.popped.isSome))

/-- The rows of a thread that delivered groups and groups fetched ahead hold (R56, R59). -/
def heldRows (s : State) (tid : Nat) : Nat :=
  s.queuedRows tid + ((s.vthread tid).ahead.map (fun g => g.2.1.vr)).foldl (· + ·) 0

/-- Keeps a group fetched ahead. -/
def putAhead (s : State) (tid key code : Nat) (g : Group) : State :=
  let v := s.vthread tid
  s.setVthread tid { v with ahead := Tab.put key (g, code) v.ahead }

/-- Every access of some elements lies here. -/
def allHere (good : List Checked) : Bool :=
  good.all (fun g => g.2.all (fun p => match p.2 with | .here _ _ => true | _ => false))

/-- Performs a load with Q = 1 ahead (R59, R60): none where it would fault, wait or leave the module. -/
def loadAhead (s : State) (tid n : Nat) (w : Walk) (f : VFields) (code : Nat) (index : List (BitVec 6)) (plan : Reading → List VElem) : Option State :=
  let c := w.reading f
  let reads := (if f.mask = 0 then [] else [0]) ++ (index.filter (fun c => decide (c.toNat < 32))).map (fun c => c.toNat)
  if !f.q || index.any isQueue || reads.any (fun r => w.wrote.contains r) || w.streams.contains f.rs.toNat
    || (f.fmt = 16 && bits w.geom 61 58 = 0) || (s.readsStruck tid f index []).isSome then none
  else match (s.orderVector tid f.rs.toNat n).sound tid .read f.space false (fun _ => none) (plan c) with
    | (good, none, s) =>
      if !allHere good then none
      else match s.performLoads tid c.loaded good with
        | (xs, none, s) => some (s.putAhead tid (aheadKey w.seq w.word 0) code (groupSoFar c xs))
        | _ => none
    | _ => none

/-- Fetches ahead for the first pop of a bound queue that has not been fetched for (R59, R368): none where it would fault, wait or leave
the module. -/
def popAhead (s : State) (tid n : Nat) (w : Walk) (code j : Nat) : List Nat → Option State
  | [] => none
  | q :: qs =>
    let key := aheadKey w.seq w.word (j + 1)
    let fetched := (Tab.find key w.v.ahead).isSome
    match w.pop q, fetched with
    | .bound b, false =>
      if w.streams.contains b.stream then none
      else match (s.orderVector tid b.stream n).sound tid .read b.space false (fun _ => none) (fetchPlan b (Nat.min (w.v.vr * w.v.vl) b.left)) with
        | (good, none, s) =>
          if !allHere good then none
          else let (xs, s) := s.readBound tid b good; some (s.putAhead tid key code (boundGroup w.v xs))
        | _ => none
    | _, _ => popAhead s tid n (w.popped q fetched) code (j + 1) qs

end State

/-- The access unit fetches for the instruction `n` places beyond the oldest unfinished one, a load with Q = 1 or a pop of a bound queue,
within DIST as the entries before it set it (R53) and while VR row places are free (R59, R60); what would fault, wait or leave the module is left for its turn. -/
def execRunaheadLoad (tid n : Nat) (s : State) : Result :=
  let v := s.vthread tid
  if !(s.thread tid).live || !s.hasVector tid || v.work.faulted || n = 0 then done s
  else match s.walkTo tid n with
    | none => done s
    | some w =>
      if decide (w.v.rad ≤ n) || decide (64 < s.heldRows tid + w.v.vr) then done s
      else match s.instrAt tid w.addr w.word with
        | none => done s
        | some (i, x, lit) =>
          let code := State.insnCode (x, lit)
          let load := fun (f : VFields) (index : List (BitVec 6)) (plan : Reading → List VElem) =>
            if (Tab.find (State.aheadKey w.seq w.word 0) v.ahead).isSome then none
            else (s.loadAhead tid n w f code index plan).orElse (fun _ => s.popAhead tid n w code 0 (popQueues f))
          let r := match i with
            | .vld f => load f [] vldPlan
            | .vlds f => load f [] (fun c => c.loadPlan c.stridedEa)
            | .vldx f => load f [f.sb] (fun c => c.loadPlan c.indexedEa)
            | i => i.vectorParts.bind (fun p => s.popAhead tid n w code 0 (popQueues p.2))
          match r with
          | some s => done s
          | none => done s

/-- How an instruction accesses its elements, when one of them may perform before those below it: its fields, the operand fields that it
pops, whether it stores, its plan, the accesses that must pass their checks first (R34, R363), whether its elements may pass one another at
one location (R362), and whether it links the lines that it reads (R137) (R122, R374). -/
structure Accesses where
  f : VFields
  codes : List (BitVec 6)
  store : Bool
  plan : Reading → List VElem
  first : Reading → List VElem
  free : Bool
  link : Bool

/-- The accesses of a load or of a store (log 47). -/
def Accesses.of (i : Instr) : Option Accesses :=
  let none_ := fun (_ : Reading) => ([] : List VElem)
  match i with
  | .vld f => some ⟨f, [], false, vldPlan, none_, false, false⟩
  | .vlds f => some ⟨f, [], false, fun c => c.loadPlan c.stridedEa, none_, false, false⟩
  | .vldx f => some ⟨f, [f.sb], false, fun c => c.loadPlan c.indexedEa, fun c => c.loadPlan c.indexedEa, false, false⟩
  | .vgll f => some ⟨f, [f.sb], false, fun c => c.loadPlan c.indexedEa, fun c => c.loadPlan c.indexedEa, false, true⟩
  | .vst f => some ⟨f, scaleCodes f, true, vstPlan, none_, false, false⟩
  | .vsts f => some ⟨f, scaleCodes f, true, fun c => c.storePlan c.stridedEa (f.sc ≠ 0), none_, false, false⟩
  | .vstxO f => some ⟨f, [f.sb], true, fun c => c.storePlan c.indexedEa false, fun c => c.storePlan c.indexedEa false, false, false⟩
  | .vstxU f => some ⟨f, [f.sb], true, fun c => c.storePlan c.indexedEa false, fun c => c.storePlan c.indexedEa false, true, false⟩
  | .vstn f => some ⟨f, scaleCodes f, true, fun c => (c.storePlan c.unitEa (f.sc ≠ 0)).filter (fun e => decide (e.idx < 64)),
      fun c => [{ idx := 0, accs := [oneAcc 0 (c.v.word f f.sb &&& ~~~7#64) 8 0], flags := [], bad := false }], false, false⟩
  | _ => none

namespace State

/-- Two lists of bytes here meet. -/
def spotsMeet (a b : VAcc × Spot) : Bool :=
  match a.2, b.2 with
  | .here l _, .here l' _ => (List.range b.1.n).any (fun i => l.covers a.1.n (l'.plus i))
  | _, _ => false

/-- Performs element `i` of an instruction at a word, `n` beyond the one in execution, or the block that ends with it, before VSTART comes
to it (R122, R360, R374), when the elements below it pass their checks (R35) and none of them has yet to reach its bytes; none where it may
not, or leaves the module. -/
def performEarly (s : State) (tid n word i : Nat) (x : Nat × Nat) (a : Accesses) (c : Reading) : Option State :=
  let plan := (cutPlan c.v (a.plan c)).1.filter (fun e => decide (e.next ≤ i + 1))
  let done_ := Tab.get [] word (s.vthread tid).work.early
  let k : Kind := if a.store then .write else .read
  if (s.readsStruck tid a.f a.codes [a.f.vd.toNat]).isSome then none
  else match s.sound tid k a.f.space false (fun k => Tab.find k done_) (a.first c) with
    | (_, some (e, stop), _) => if (match stop with | .wait _ => true | _ => decide (e.idx ≤ i)) then none else go s k plan done_
    | (_, none, s) => go s k plan done_
where
  go (s : State) (k : Kind) (plan : List VElem) (done_ : Tab Word) : Option State :=
    match (s.orderVector tid a.f.rs.toNat n).sound tid k a.f.space false (fun k => Tab.find k done_) plan with
    | (good, none, s) => match good.reverse with
      | [] => none
      | (e, ps) :: below =>
        let waits := !a.free && below.any (fun g => g.2.any (fun p => ps.any (fun q => spotsMeet p q)))
        if e.next ≠ i + 1 || waits || !allHere [(e, ps)] then none
        else some (ps.foldl (fun (s : State) p => match p.2 with
          | .here l key =>
            if a.store then (s.taskStore tid (s.storeOf tid a.f.rs.toNat n none false p.1 l key)).keepEarly tid word x p.1.idx 0
            else
              let (v, s) := s.vectorRead tid p
              let s := if a.link then s.setLink l (some (tid, a.f.rs.toNat)) else s
              s.keepEarly tid word x p.1.idx v
          | _ => s) s)
    | _ => none

/-- A load in execution binds element `i` before those below it (R122). -/
def earlyLoad (s : State) (tid i : Nat) (instr : Instr) (x : Nat × Nat) : Option State :=
  let v := s.vthread tid
  match Accesses.of instr with
  | none => none
  | some a =>
    let c : Reading := { v := v, f := a.f, groups := v.work.popped.getD [], stop := 0 }
    if a.store || v.work.packets ≠ [] || decide (i < v.work.vstart) || (a.codes.any isQueue && v.work.popped.isNone)
      || (v.work.run.any (fun r => (Tab.find (aheadKey r.seq r.word 0) v.ahead).isSome)) || (a.f.fmt = 16 && bits c.geom 61 58 = 0) then none
    else s.performEarly tid 0 (s.wordNo tid) i x a { c with stop := c.total }

end State

/-- A register partition of an idle vector thread enters retention after 8192 cycles; its contents stay (R79). -/
def execRegisterRetention (tid : Nat) (s : State) : Result :=
  let v := s.vthread tid
  if s.hasVector tid && s.vectorQuiet tid && !v.retained && decide (8192 ≤ (s.core (tid / 4)).cycle - v.idleFrom) then
    done (s.setVthread tid { v with retained := true })
  else done s

end Sys2Proof.Machine
end

