-- ==== Sys2Proof/Machine/Wmu.lean ====
section
/-! DEFINITION. The wide multiplier instructions: tiles, geometry, WMAC, WMACS, WNORM, PACK and WEXT, and the steps of the units and the sequencer (R65 to R72, R378 to R400). -/

namespace Sys2Proof.Machine

/-- A tile trap with the slot or accumulator number in TVAL (R246). -/
def tileTrap {α : Type} (s : State) (cause : BitVec 6) (n : Nat) : Except Stop α := .error (.trap s cause (BitVec.ofNat 64 n) none)

/-- All ones: a claim that found nothing (R68). -/
def claimNone : Word := BitVec.allOnes 64

/-- The first run of `c` EMPTY slots from slot `n` on (R68). -/
def findRun (s : State) (core c : Nat) (even : Bool) : Option Nat :=
  (upto 64).find? (fun n => (!even || n % 2 = 0) && decide (n + c ≤ 64) && (upto c).all (fun i => (s.slot core (n + i)).st = .empty))

/-- Claims operand slots (R68, R383); their lanes start at zero (log 53). -/
def claimSlots (d a : Reg) (c : Nat) (pair : Bool) (s : State) : Result :=
  let tid := s.cur
  let core := tid / 4
  finishWrite tid d (match findRun s core c pair with
    | none => .ok (claimNone, s)
    | some n =>
      .ok (BitVec.ofNat 64 n, (upto c).foldl (fun (s : State) i => s.setSlot core (n + i)
        { Slot.empty with st := .filling, ext := bits (s.reg tid a) 7 0, own := tid % 4, paired := pair, odd := pair && i % 2 = 1 }) s))

def execTclaim (d a : Reg) (c : BitVec 7) (s : State) : Result := claimSlots d a c.toNat false s
def execTclaimP (d a : Reg) (c : BitVec 7) (s : State) : Result := claimSlots d a c.toNat true s

/-- Every slot of an accumulator has been rewritten: it is no longer poisoned (R248). -/
def mendAcc (s : State) (core n : Nat) : State := { s with poison := s.poison.filter (· ≠ .accumulator core n) }

def execTclaimA (d : Reg) (s : State) : Result :=
  let tid := s.cur
  let core := tid / 4
  let g := (s.thread tid).geom
  finishWrite tid d (
    if bits g 61 58 = 0 then trapNow s causeWmuGeometry (Instr.tclaimA d).word
    else match (upto 12).find? (fun n => (s.acc core n).st = .empty && s.accFits core n (geomW g)) with
      | none => .ok (claimNone, s)
      | some n => .ok (BitVec.ofNat 64 n, mendAcc (s.setAcc core n { Acc.empty with st := .ready, w := geomW g, own := tid % 4 }) core n))

/-- What the tiles of a thread's vector work depend on: its block arguments, and the values that b7 may have once a tiled product has
left a drain word in it (R392). -/
structure TileArgs where
  v : VThread
  drains : Option (List Nat)

/-- The numbers that an operand may give, as far as the low 14 bits. -/
def TileArgs.numbers (a : TileArgs) (f : VFields) (c : BitVec 6) : List Nat :=
  match (if c = 43 then a.drains else none) with
  | some l => l
  | none => [bits (a.v.word f c) 13 0]

/-- A tile that an instruction of a block may name: the slot of a PACK, or the accumulator of a WEXT. -/
inductive TileName where
  | slot (n : Nat)
  | acc (n : Nat)
  deriving DecidableEq, Repr

/-- An instruction names a tile. -/
def TileArgs.names (a : TileArgs) (x : TileName) (i : Instr) : Bool :=
  match i, x with
  | .pack f, .slot n => (a.numbers f f.sb).any (fun k => k % 64 = n)
  | .wext f, .acc n => (a.numbers f f.sb).any (fun k => k % 16 = n)
  | _, _ => false

/-- The low bits of the drain word of a run (R392). -/
def drainBits (r : Nat × Nat) : Nat := r.1 * 256 + r.2

/-- The last drain words that a tiled product may leave in b7, by their accumulator (R391, R392). -/
def lastDrains (m : Wmacs) : List Nat :=
  if m.ordered then
    match m.jobs.getLast? with
    | some j => [drainBits (m.jobs.length - 1, m.accAt j (m.nkb - 1))]
    | none => []
  else (((List.range m.jobs.length).zip m.jobs).map (fun j => [drainBits (j.1, j.2.1), drainBits (j.1, j.2.2)])).flatten

/-- Entries of a queue, those that `sel` selects, name a tile or cannot be read yet; `run` is the drain run in execution of the first. -/
def entryNames (s : State) (tid : Nat) (sel : VcqEntry → Bool) (x : TileName) : TileArgs → Option (Nat × Nat) → List VcqEntry → Bool
  | _, _, [] => false
  | a, run, e :: es => match e.op with
    | .block y _ => (sel e && s.blockAny tid (a.names x) y 0 256) || entryNames s tid sel x a none es
    | .varg k y =>
      entryNames s tid sel x { v := { a.v with bargs := Tab.write 0 k y a.v.bargs }, drains := if k = 7 then none else a.drains } none es
    | .wmacs i => match s.wmacsOf tid i with
      | some m =>
        if m.drain = 0 then entryNames s tid sel x a none es
        else
          let gone := m.drained ++ m.started.filter (fun y => run = some (y.1, y.2.1))
          (sel e && (m.left gone).any (fun r => s.blockAny tid (({ a with drains := some [drainBits r] } : TileArgs).names x) m.drain 0 256))
            || entryNames s tid sel x { a with drains := some (lastDrains m) } none es
      | none => entryNames s tid sel x a none es
    | _ => entryNames s tid sel x a none es

/-- Some vector work of a thread has yet to use a tile, in entries that `sel` selects (R71). -/
def workNames (s : State) (tid : Nat) (w : VectorWork) (sel : VcqEntry → Bool) (x : TileName) : Bool :=
  let a : TileArgs := { v := s.vthread tid, drains := none }
  match w.run with
  | none => entryNames s tid sel x a none w.vcq
  | some r => (w.vcq.head?.any sel && s.blockAny tid (a.names x) r.addr r.word 256)
    || entryNames s tid sel x a r.drain (if r.drain.isSome then w.vcq else w.vcq.drop 1)

/-- Vector work before a scalar tile instruction has yet to use a tile (R71). Work enqueued before a held WMU trap does not count in its
handler, since it may wait for the operation that is held (R395). -/
def tileWaits (s : State) (tid : Nat) (x : TileName) : Bool :=
  let t := s.thread tid
  workNames s tid (s.vthread tid).work (fun e => !t.wh || e.aside) x || (!t.wh && t.behind.any (fun w => workNames s tid w (fun _ => true) x))

/-- A tiled product of a task, accepted before this instruction, has something yet to do with a tile (R70, R71). -/
def wmacsOn (s : State) (tid : Nat) (p : Wmacs → Bool) : Bool :=
  let t := s.thread tid
  (s.core (tid / 4)).wmacs.any (fun m => m.uid = t.uid && (!t.wh || m.nested) && p m)

/-- The accumulator of an instruction once it is owned and READY (R69 to R71). -/
def readyAcc (s : State) (tid n : Nat) : Except Stop Unit :=
  if !s.ownsAcc tid n then tileTrap s causeTileNone n
  else if (s.acc (tid / 4) n).st ≠ .ready || wmacsOn s tid (fun m => m.blocksOn n) || tileWaits s tid (.acc n) then .error (.wait s)
  else .ok ()

def execTrel (a : Reg) (s : State) : Result :=
  let tid := s.cur
  let core := tid / 4
  let n := bits (s.reg tid a) 5 0
  let x := s.slot core n
  finish tid (
    if !s.ownsSlot tid n then tileTrap s causeTileNone n
    else if x.odd then tileTrap s causeTileState n
    else if x.rdrs ≠ 0 || x.fills ≠ 0 || wmacsOn s tid (fun m => m.names n) || tileWaits s tid (.slot n) then .error (.wait s)
    else
      let s := s.setSlot core n Slot.empty
      .ok ((if x.paired then s.setSlot core (n + 1) Slot.empty else s).retire tid))

def execTrelA (a : Reg) (s : State) : Result :=
  let tid := s.cur
  let n := bits (s.reg tid a) 3 0
  finish tid ((readyAcc s tid n).map (fun _ => (s.setAcc (tid / 4) n Acc.empty).retire tid))

/-- The status word of an operand slot (R67); what an EMPTY one reports beside its state, and more than 255 readers, are log 53. -/
def slotStatus (s : State) (tid n : Nat) : Word :=
  let me := s.slot (tid / 4) n
  let x := if me.odd then s.slot (tid / 4) (n - 1) else me
  if x.st = .empty then 0
  else BitVec.ofNat 64 (x.ext * 2 ^ 44 + x.written.length * 2 ^ 35 + widthCode x.vw * 2 ^ 31 + Nat.min x.rdrs 255 * 2 ^ 23
    + (if me.odd then 128 else 0) + x.own * 32 + (if x.own = tid % 4 then 16 else 0) + (if x.st = .filling then 1 else 2))

/-- The code of a slot width (R67). -/
def wCode (w : Nat) : Nat := if w = 16 then 0 else if w = 24 then 1 else if w = 32 then 2 else 3

/-- The status word of an accumulator (R67). -/
def accStatus (s : State) (tid n : Nat) : Word :=
  let x := s.acc (tid / 4) n
  if x.st = .empty then 8
  else BitVec.ofNat 64 (wCode x.w * 2 ^ 14 + x.own * 32 + (if x.own = tid % 4 then 16 else 0) + 8
    + (match x.st with | .filling => 1 | .ready => 2 | _ => 3))

def execTstat (d a : Reg) (s : State) : Result := writeRetire s d (slotStatus s s.cur (bits (s.reg s.cur a) 5 0))
def execTstatA (d a : Reg) (s : State) : Result :=
  let n := bits (s.reg s.cur a) 3 0
  if 12 ≤ n then finish s.cur (tileTrap s causeTileNone n) else writeRetire s d (accStatus s s.cur n)

def execWcfg (d a : Reg) (s : State) : Result :=
  let tid := s.cur
  let t := s.thread tid
  let g := t.reg a
  finishWrite tid d (if geomInvalid g false then trapNow s causeWmuGeometry (Instr.wcfg d a).word
    else .ok (t.geom, s.setThread tid { t with geom := g }))

/-- WCFG.w sets the geometry and widens an accumulator (R386). -/
def execWcfgW (d a : Reg) (s : State) : Result :=
  let tid := s.cur
  let core := tid / 4
  let t := s.thread tid
  let g := t.reg a
  let n := bits g 3 0
  let word := (Instr.wcfgW d a).word
  finishWrite tid d do
    if geomInvalid g true then trapNow s causeWmuGeometry word
    else do
      readyAcc s tid n
      let x := s.acc core n
      if x.normal then tileTrap s causeTileState n
      else if geomW g < x.w then trapNow s causeWmuGeometry word
      else if !s.accFits core n (geomW g) then tileTrap s causeAccCapacity n
      else .ok (t.geom, (s.setAcc core n { x with w := geomW g }).setThread tid { t with geom := g &&& ~~~15#64 })

def execWcfgR (d : Reg) (s : State) : Result := writeRetire s d (s.thread s.cur).geom

def execWzero (a : Reg) (s : State) : Result :=
  let tid := s.cur
  let core := tid / 4
  let n := bits (s.reg tid a) 3 0
  finish tid ((readyAcc s tid n).map (fun _ =>
    (mendAcc (s.setAcc core n { s.acc core n with slots := [], normal := false }) core n).retire tid))

def execWnorm (a : Reg) (s : State) : Result :=
  let tid := s.cur
  let core := tid / 4
  let n := bits (s.reg tid a) 3 0
  finish tid do
    readyAcc s tid n
    let x := s.acc core n
    if s.poison.contains (.accumulator core n) then .error (s.structureCheck 4 n)
    else .ok ((s.setAcc core n (if x.normal then x else normalForm x)).retire tid)

def execWwait (a : Reg) (s : State) : Result :=
  let tid := s.cur
  let n := bits (s.reg tid a) 3 0
  finish tid (
    if !s.ownsAcc tid n then tileTrap s causeTileNone n
    else if (s.core (tid / 4)).wops.any (fun o => o.acc = n && o.uid = (s.thread tid).uid)
      || (s.core (tid / 4)).wmacs.any (fun m => m.uid = (s.thread tid).uid && m.blocksOn n) then .error (.wait s)
    else .ok (s.retire tid))

def execWwaitAll (s : State) : Result :=
  let tid := s.cur
  let k := s.core (tid / 4)
  let uid := (s.thread tid).uid
  finish tid (
    if k.wops.any (fun o => o.uid = uid) || k.wmacs.any (fun m => m.uid = uid && decide (m.ended.length < m.blocks.length)) then .error (.wait s)
    else .ok (s.retire tid))

/-- Checks 2 to 4 of R389 on accumulators and slots in their order; `last` is the extent a slot needs. -/
def operandChecks (s : State) (tid : Nat) (g : Word) (accs slots : List Nat) (last : Nat) : Except Stop Unit :=
  let core := tid / 4
  let slotBad := fun (n : Nat) => (s.slot core n).odd || (geomV g = 16 && !(s.slot core n).paired)
  let accBad := fun (n : Nat) => (s.acc core n).w ≠ geomW g || (s.acc core n).normal
  match accs.find? (fun n => !s.ownsAcc tid n), slots.find? (fun n => !s.ownsSlot tid n) with
  | some n, _ => tileTrap s causeTileNone n
  | none, some n => tileTrap s causeTileNone n
  | none, none => match slots.find? slotBad, accs.find? accBad with
    | some n, _ => tileTrap s causeTileState n
    | none, some n => tileTrap s causeTileState n
    | none, none => match slots.find? (fun n => decide ((s.slot core n).ext < last)) with
      | some n => tileTrap s causeTileState n
      | none => .ok ()

/-- The slots of a tile: its own, and the next one too at a value width of 16 (R65). -/
def tileSlots (v n : Nat) : List Nat := if v = 16 then [n, n + 1] else [n]

/-- A struck operand slot or accumulator is read by an operation of value width `v` (R248). -/
def struckTile (s : State) (core v acc aslot bslot : Nat) : Option Word :=
  if s.poison = [] then none
  else match (tileSlots v aslot ++ tileSlots v bslot).find? (fun n => s.poison.contains (.operandSlot core n)) with
    | some n => some (BitVec.ofNat 64 (2 ^ 63 + n * 256 + 3))
    | none => if s.poison.contains (.accumulator core acc) then some (BitVec.ofNat 64 (2 ^ 63 + acc * 256 + 4)) else none

/-- Accepts an operation: its readers rise and its accumulator fills (R69, R70, R389). -/
def acceptOp (s : State) (core : Nat) (o : WmuOp) : State :=
  let s := s.addReader core o
  let s := s.setAcc core o.acc { s.acc core o.acc with st := .filling }
  s.setCore core { s.core core with wops := (s.core core).wops ++ [o] }

def execWmac (a : Reg) (s : State) : Result :=
  let tid := s.cur
  let core := tid / 4
  let t := s.thread tid
  let x := t.reg a
  let g := t.geom
  let (acc, aslot, bslot) := (bits x 3 0, bits x 13 8, bits x 21 16)
  let (k0, cnt) := (bits x 31 24, bits x 39 32)
  finish tid do
    if bits g 61 58 = 0 then trapNow s causeWmuGeometry (Instr.wmac a).word
    else do
      operandChecks s tid g [acc] [aslot, bslot] (k0 + cnt)
      let (sa, sb, ac) := (s.slot core aslot, s.slot core bslot, s.acc core acc)
      let busy := [TileName.slot aslot, .slot bslot, .acc acc].any (fun x => tileWaits s tid x)
      if sa.st ≠ .ready || sb.st ≠ .ready || (ac.st ≠ .ready && ac.st ≠ .filling) || busy then .error (.wait s)
      else if sa.vw ≠ geomV g then tileTrap s causeTileState aslot
      else if sb.vw ≠ geomV g then tileTrap s causeTileState bslot
      else
        let (i, s) := s.freshId
        .ok ((acceptOp s core { id := i, uid := t.uid, acc := acc, aslot := aslot, bslot := bslot, k0 := k0, cnt := cnt + 1, done := 0
                                geom := g, pc := t.pc, nested := t.nest || t.wh, halted := false, block := none }).retire tid)

/-- Jobs and k-blocks of a WMACS descriptor (R390). -/
def wmacsJobs (head : Word) : Nat := bits head 11 8 + 1
def wmacsBlocks (head : Word) : Nat := bits head 20 16 + 1

/-- HEAD is malformed (R390). -/
def headBad (head : Word) : Bool :=
  bits head 63 40 ≠ 0 || bits head 31 21 ≠ 0 || bits head 15 12 ≠ 0 || bits head 7 0 ≠ 0 || decide (11 < bits head 11 8)

/-- The words a descriptor takes, as far as the words read say. -/
def wmacsLength (words : List Word) : Nat :=
  match words with
  | [] => 1
  | h :: _ => if headBad h then 1 else 2 + wmacsJobs h * (wmacsBlocks h + 1)

/-- Some entry of a list shares something with a later one. -/
def anyShared : List (List Nat) → Bool
  | [] => false
  | x :: xs => x.any (fun a => xs.any (fun y => y.contains a)) || anyShared xs

/-- A descriptor that has been read whole: its jobs and blocks, or none when it is malformed (R390). -/
def wmacsParse (words : List Word) : Option (Word × List (Nat × Nat) × Nat × List (Nat × Nat)) :=
  match words with
  | head :: drain :: rest =>
    let (j, b) := (wmacsJobs head, wmacsBlocks head)
    let jw := rest.take j
    let bw := (rest.drop j).take (j * b)
    let jobs := jw.map (fun w => (bits w 3 0, bits w 11 8))
    let blocks := bw.map (fun w => (bits w 13 8, bits w 5 0))
    let atB := (List.range b).map (fun n => ((List.range j).map (fun i => let p := blocks.getD (i * b + n) (0, 0); [p.1, p.2])).flatten)
    if headBad head || jw.any (fun w => bits w 63 12 ≠ 0 || bits w 7 4 ≠ 0) || bw.any (fun w => bits w 63 14 ≠ 0 || bits w 7 6 ≠ 0)
        || drain.toNat % 8 ≠ 0 || anyShared (jobs.map (jobAccs drain)) || anyShared atB then none
    else some (drain, jobs, b, blocks)
  | _ => none

/-- Reads the words of a record that are missing, each once; `len` tells its length from the words read (R390, R408). -/
def readMissing (s : State) (tid : Nat) (ga : Word) (len : List Word → Nat) (words : List Word) : Nat → Except Stop (List Word × State)
  | 0 => .ok (words, s)
  | n + 1 =>
    if len words ≤ words.length then .ok (words, s)
    else
      let ea := ga + BitVec.ofNat 64 (8 * words.length)
      let hold := fun (s : State) (r : Option Nat) => s.setThread tid { s.thread tid with wait := .words words r }
      match s.loadScalar tid false spaceGlobal ea 8 with
      | .ok (w, s) => readMissing s tid ga len (words ++ [w]) n
      | .error (.wait s) => match (s.thread tid).wait with
        | .request i => .error (.wait (hold s (some i)))
        | _ => .error (.wait (hold s none))
      | .error e => .error e

/-- Reads a record at an address, going on from the words that the waiting thread has (R390, R408). -/
def readRecord (s : State) (tid : Nat) (ga : Word) (len : List Word → Nat) : Except Stop (List Word × State) :=
  let t := s.thread tid
  match t.wait with
  | .words ws (some i) => readMissing (s.setThread tid { t with wait := .request i }) tid ga len ws 400
  | .words ws none => readMissing (s.setThread tid { t with wait := .none }) tid ga len ws 400
  | _ => readMissing s tid ga len [] 400

/-- WMACS: the descriptor, its checks at issue, and its VCQ entry (R390). -/
def wmacs (ordered : Bool) (a : Reg) (word : Word) (s : State) : Result :=
  let tid := s.cur
  let t := s.thread tid
  let ga := t.reg a
  finish tid (
    if !s.hasVector tid then trapNow s causeBadSplit word
    else do
      let (words, s) ← readRecord s tid ga wmacsLength
      match wmacsParse words with
      | none => .error (.trap s causeWmuGeometry word none)
      | some (drain, jobs, b, blocks) => do
        let g := t.geom
        let steps := bits (words.head?.getD 0) 39 32
        if bits g 61 58 = 0 then .error (.trap s causeWmuGeometry word none)
        else do
          operandChecks s tid g ((jobs.map (jobAccs drain)).flatten) ((blocks.map (fun p => [p.1, p.2])).flatten) steps
          let (i, s) := s.freshId
          match s.enqueue tid (.wmacs i) with
          | .error (.wait s) => .error (.wait (s.setThread tid { s.thread tid with wait := .words words none }))
          | .error e => .error e
          | .ok s =>
            let k := s.core (tid / 4)
            let m : Wmacs := { id := i, uid := t.uid, ordered := ordered, ksteps := steps + 1, jobs := jobs, nkb := b, blocks := blocks
                               drain := drain, geom := g, pc := t.pc, nested := t.nest || t.wh, started := [], ended := [], drained := [] }
            .ok ((s.setCore (tid / 4) { k with wmacs := k.wmacs ++ [m] }).retire tid))

def execWmacsO (a : Reg) (s : State) : Result := wmacs true a (Instr.wmacsO a).word s
def execWmacsF (a : Reg) (s : State) : Result := wmacs false a (Instr.wmacsF a).word s

/-- One of the four units adds a step of its next operation (R381, R389); a block operation checks its slots' widths as it starts (R390). -/
def execWmuStep (core wmu : Nat) (s : State) : Result :=
  match s.nextOp core wmu with
  | none => done s
  | some o =>
    let halt := fun (cause : BitVec 6) (v : Word) =>
      let k := s.core core
      let s := s.setCore core { k with wops := k.wops.map (fun y => if y.id = o.id then { y with halted := true } else y) }
      let s := s.setAcc core o.acc { s.acc core o.acc with st := .ready }
      match s.tidOf o.uid with
      | some tid => done (s.raiseHeld tid { kind := .wmu o.id, cause := cause, tval := v, tvaddr := o.pc, tseq := 0, tblk := 0, nested := o.nested, xinfo := none })
      | none => done s
    let narrow_ := fun (n : Nat) => o.block.isSome && o.done = 0 && (s.slot core n).vw ≠ geomV o.geom
    if narrow_ o.aslot then halt causeTileState (BitVec.ofNat 64 o.aslot)
    else if narrow_ o.bslot then halt causeTileState (BitVec.ofNat 64 o.bslot)
    else match struckTile s core (geomV o.geom) o.acc o.aslot o.bslot with
      | some v => halt causeMachineCheck v
      | none => done (s.runStep core o)

/-- Vector work that stands before the entry of a tiled product has yet to use a tile of a block of it (R71). -/
def blockWaits (s : State) (m : Wmacs) (tiles : List TileName) : Bool :=
  match s.tidOf m.uid with
  | none => true
  | some tid =>
    let mine := fun (e : VcqEntry) => e.op = .wmacs m.id
    let before := fun (w : VectorWork) => { w with vcq := w.vcq.takeWhile (fun e => !mine e), run := if w.vcq.head?.any mine then none else w.run }
    let t := s.thread tid
    let w := ([t.heldV, t.behind].filterMap id).find? (fun w => w.vcq.any mine)
    tiles.any (workNames s tid (before (w.getD (s.vthread tid).work)) (fun _ => true))

/-- The accumulator takes a block of a tiled product: it is READY, or filled only by operations accepted later, and no earlier product
has blocks or drain runs to come on it (R70, R71, R391). -/
def accTakes (s : State) (core : Nat) (m : Wmacs) (acc : Nat) : Bool :=
  let k := s.core core
  ((s.acc core acc).st = .ready || ((s.acc core acc).st = .filling && k.wops.all (fun o => o.acc ≠ acc || decide (m.id < o.place))))
    && !k.wmacs.any (fun x => x.uid = m.uid && decide (x.id < m.id) && (x.blocksOn acc || x.drainsOn acc))

/-- The sequencer starts block operation (job, k-block) of a tiled product when its conditions hold (R391). -/
def execWmacsBlockStart (core op job kblk : Nat) (s : State) : Result :=
  let k := s.core core
  match k.wmacs.find? (fun m => m.id = op) with
  | none => done s
  | some m =>
    let mine := m.started.filter (fun x => x.1 = job)
    match m.jobs[job]?, m.blocks[job * m.nkb + kblk]? with
    | some j, some b =>
      let acc := m.accAt j mine.length
      let drained := m.drain = 0 || (m.started.filter (fun x => x.2.2 = acc)).all (fun x => m.drained.contains x)
      let lower := !m.ordered || (List.range kblk).all (fun n => mine.any (fun x => x.2.1 = n))
      let stopped := k.wops.any (fun o => o.uid = m.uid && o.halted && decide (o.place ≤ m.id))
      if decide (kblk < m.nkb) && !mine.any (fun x => x.2.1 = kblk) && drained && lower && !stopped
          && (s.slot core b.1).st = .ready && (s.slot core b.2).st = .ready && accTakes s core m acc
          && !blockWaits s m [.slot b.1, .slot b.2, .acc acc] then
        let (i, s) := s.freshId
        let s := s.setCore core { s.core core with wmacs := k.wmacs.map (fun x => if x.id = op then { x with started := x.started ++ [(job, kblk, acc)] } else x) }
        done (acceptOp s core { id := i, uid := m.uid, acc := acc, aslot := b.1, bslot := b.2, k0 := 0, cnt := m.ksteps, done := 0
                                geom := m.geom, pc := m.pc, nested := m.nested, halted := false, block := some (op, job, kblk) })
      else done s
    | _, _ => done s

/-- The drain run that follows (R392): k-block and job ascending under .O, in the order of the ends under .F. -/
def Wmacs.nextDrain (m : Wmacs) : Option (Nat × Nat × Nat) :=
  if m.ordered then
    let n := m.drained.length
    let j := m.jobs.length
    if j = 0 || decide (m.blocks.length ≤ n) then none else m.ended.find? (fun x => x.1 = n % j && x.2.1 = n / j)
  else m.ended.find? (fun x => !m.drained.contains x)

/-- The current vector thread starts the next drain run of the WMACS at the head of its queue (R392). -/
def execWmacsDrainRun (s : State) : Result :=
  let tid := s.cur
  let v := s.vthread tid
  match v.work.vcq, v.work.run, v.work.faulted with
  | e :: _, none, false => match e.op with
    | .wmacs i => match (s.core (tid / 4)).wmacs.find? (fun m => m.id = i) with
      | none => done s
      | some m => match (if m.drain = 0 then none else m.nextDrain) with
        | none => done s
        | some (j, b, acc) =>
          done (s.setVthread tid { v with
            bargs := Tab.write 0 7 (BitVec.ofNat 64 (b * 2 ^ 16 + j * 2 ^ 8 + acc)) v.bargs
            ahead := v.ahead.filter (fun x => x.1 / 1024 ≠ e.seq.toNat)
            work := { v.work with run := some { addr := m.drain, word := 0, geom := m.geom, seq := e.seq, nested := e.nested, drain := some (j, b) }, vstart := 0 } })
    | _ => done s
  | _, _, _ => done s

/-- Writes lanes of an operand slot: flat numbers 128 k + i with their coefficients (R65). A struck slot of the tile is mended once every
lane has been rewritten (R248). -/
def writeLanes (s : State) (core n : Nat) (xs : List (Nat × BitVec 16)) : State :=
  let x := s.slot core n
  let s := s.setSlot core n { x with data := xs.foldl (fun d e => Tab.write 0 e.1 e.2 d) x.data }
  ((tileSlots x.vw n).filter (fun k => s.poison.contains (.operandSlot core k))).foldl
    (fun s k => xs.foldl (fun s e => s.mend (.operandSlot core k) 32768 e.1) s) s

/-- A fill of a slot begins: a READY slot re-enters FILLING, and the first fill sets its width (R69). -/
def beginFill (s : State) (core n v : Nat) : State :=
  let x := s.slot core n
  if x.st = .ready then s.setSlot core n { x with st := .filling, written := [], vw := v }
  else s.setSlot core n { x with vw := v }

/-- Named steps count once each, and a slot whose extent is written turns READY (R69). -/
def countSteps (s : State) (core n k0 cnt : Nat) : State :=
  let x := s.slot core n
  let w := (List.range cnt).foldl (fun (w : List Nat) i => if w.contains (k0 + i) then w else w ++ [k0 + i]) x.written
  s.setSlot core n { x with written := w, st := if w.length = x.ext + 1 then .ready else x.st }

/-- The mantissas of PACK from a list of active flat indices, up to the first reserved code (R398). -/
def packLanes (v k0 : Nat) (x : Nat → Elem) : List Nat → List (Nat × BitVec 16) × Option Nat
  | [] => ([], none)
  | i :: is =>
    let y := (x i).toInt
    if 2 ^ (v - 1) - 1 < y.natAbs then ([], some i)
    else
      let r := packLanes v k0 x is
      ((128 * (k0 + i / 128) + i % 128, BitVec.ofNat 16 (y % 2 ^ v).toNat) :: r.1, r.2)

/-- PACK (R398). -/
def execPack (f : VFields) (s : State) : Result :=
  vectorDo s f (fun tid => do
    let core := tid / 4
    let word := (Instr.pack f).word
    let g := ((s.vthread tid).work.run).elim 0 (fun r => r.geom)
    if bits g 61 58 = 0 then .error (.trap s causeIllegal word none)
    else do
      let (c, s) ← s.begin_ tid f [f.sa] []
      let b := c.v.word f f.sb
      let (n, k0, v) := (bits b 5 0, bits b 15 8, geomV g)
      let steps := (c.total + 127) / 128
      let x := s.slot core n
      let first := c.v.work.vstart = 0
      if first && !s.ownsSlot tid n then tileTrap s causeTileNone n
      else if first && (x.odd || (v = 16 && !x.paired)) then tileTrap s causeTileState n
      else if first && decide (0 < steps) && decide (x.ext + 1 < k0 + steps) then tileTrap s causeTileState n
      else if first && x.st = .filling && x.vw ≠ 0 && x.vw ≠ v then tileTrap s causeTileState n
      else if steps = 0 then .ok s
      else if first && x.st = .ready && x.rdrs ≠ 0 then
        .error (.wait (if (s.thread tid).heldW.any (fun o => o.slots.contains n) then s.makeWay tid else s))
      else
        let s := if first then beginFill s core n v else s
        let c := s.partOf tid c
        let (xs, bad) := packLanes v k0 c.srcA c.activeRest
        let s := writeLanes s core n xs
        match bad with
        | some i => .error (.trap (s.setVstart tid i) causeReservedCode 0 none)
        | none =>
          let rest := (List.range (128 * steps - c.total)).map (fun i => (128 * k0 + c.total + i, 0))
          s.goOn tid c (fun s => countSteps (writeLanes s core n rest) core n k0 steps))

/-- A WMU operation on an accumulator that is held, or that has stopped and is yet to be, stands before the entry in execution (R71, R395,
R400): one that was not enqueued by the handler of the trap, nor by that of another. -/
def heldBefore (s : State) (tid n : Nat) : Bool :=
  let t := s.thread tid
  let e := (s.vthread tid).work.vcq.head?
  (t.heldW.any (fun o => o.acc = n) && !e.any (fun e => e.aside))
    || ((s.core (tid / 4)).wops.any (fun o => o.halted && o.uid = t.uid && o.acc = n) && !e.any (fun e => e.nested))

/-- WEXT has read its elements: the accumulator is READY again, or fills with operations that wait for it (R70, R399). -/
def endDrain (s : State) (core n : Nat) : State :=
  s.setAcc core n { s.acc core n with st := if (s.core core).wops.any (fun o => o.acc = n) then .filling else .ready }

/-- WEXT (R399). -/
def execWext (f : VFields) (s : State) : Result :=
  vectorDo s f (fun tid => do
    let core := tid / 4
    let (c, s) ← s.begin_ tid f [] []
    let n := bits (c.v.word f f.sb) 3 0
    let s0 := bits (c.v.word f f.sc) 13 0
    let x := s.acc core n
    let first := c.v.work.vstart = 0
    if first && !s.ownsAcc tid n then tileTrap s causeTileNone n
    else if first && decide (16384 < s0 + c.total) then tileTrap s causeTileState n
    else if heldBefore s tid n then .error (.wait (s.makeWay tid))
    else if x.st = .filling then .error (.wait s)
    else if s.poison.contains (.accumulator core n) then .error (s.structureCheck 4 n)
    else
      let c := s.partOf tid c
      let part := fun (y : Int) => if f.ext.getLsbD 0 then y / 2 ^ 32 else y
      let s := s.putElems tid f.vd.toNat (State.maskedWrites c c.rest
        ++ c.activeRest.map (fun i => (c.place i, BitVec.ofInt 32 (part (Tab.get 0 (s0 + i) x.slots)))))
      let slots := if f.ext.getLsbD 2 then c.activeRest.foldl (fun t i => Tab.write 0 (s0 + i) 0 t) x.slots else x.slots
      let s := s.setAcc core n { x with slots := slots, st := .draining }
      s.goOn tid c (fun s => (endDrain s core n).putElems tid f.vd.toNat (s.tailWrites tid c (State.inTile c))))

end Sys2Proof.Machine
end

