-- ==== Sys2Proof/Machine/Race.lean ====
section
/-! DEFINITION. The race instructions and the arbiter's events (R405 to R426). -/

namespace Sys2Proof.Machine

/-- TVAL when the task holds no context (R410). -/
def noContext : Word := 64

/-- The race of the executing task: context number, shard number, context and shard. -/
def raceOf (s : State) (tid : Nat) : Option (Nat × Nat × RaceCtx × Shard) :=
  match (s.thread tid).race with
  | none => none
  | some (n, h) => (s.race? n).bind (fun c => (Tab.find h c.shards).map (fun x => (n, h, c, x)))

/-- Writes a shard of a context. -/
def RaceCtx.put (c : RaceCtx) (h : Nat) (x : Shard) : RaceCtx := { c with shards := Tab.put h x c.shards }

/-- A configuration field of a shard as a 32-bit value. -/
def Shard.config32 (h : Shard) (f : Nat) : Elem := (h.config f).setWidth 32

/-- A vector race instruction. -/
def isRace (i : Instr) : Bool := i.vectorParts.any (fun p => decide (0xB0 ≤ p.1))

/-- Some vector work of a thread holds a race-vector step or a configuration entry, or a block that cannot be fetched yet. -/
def workRaces (s : State) (tid : Nat) (w : VectorWork) : Bool :=
  w.run.any (fun r => s.blockAny tid isRace r.addr r.word 256)
    || (if w.run.any (fun r => r.drain.isNone) then w.vcq.drop 1 else w.vcq).any (fun e => match e.op with
      | .rcfg _ _ => true
      | .block a _ => s.blockAny tid isRace a 0 256
      | .wmacs i => (s.wmacsOf tid i).any (fun m => m.drain ≠ 0 && decide (m.drained.length < m.blocks.length) && s.blockAny tid isRace m.drain 0 256)
      | _ => false)

/-- A race-vector step of the thread, or a configuration entry, stands before a scalar race instruction (R412, R421). -/
def raceWork (s : State) (tid : Nat) : Bool :=
  let t := s.thread tid
  workRaces s tid (s.vthread tid).work || (!t.wh && t.behind.any (fun w => workRaces s tid w))

/-- A shard as it joins (R410, R422). -/
def Shard.joined (uid : Nat) (spill : Word) : Shard :=
  { uid := uid, spill := spill, cfg := [], pcfg := [], touched := false, queued := false, heap := [], rounds := 0, arrived := false
    st := .active, m := negInf, zlo := 0, zhi := 0, bounds := 0, best := none, floor := negInf, snapshot := none, atWait := none }

/-- A result word with F = 1 (R408). -/
def joinFail (reason : Nat) : Word := BitVec.ofNat 64 (2 ^ 63 + reason * 2 ^ 56)

/-- Joins or allocates a context for a request record (R408): the result word. -/
def joinRace (s : State) (tid : Nat) (w0 w1 : Word) : Word × State :=
  let t := s.thread tid
  let (shard, m, tag) := (bits w0 29 24, bits w0 22 16 + 1, bits w0 15 0)
  let x := Shard.joined t.uid w1
  let joined := fun (s : State) (n : Nat) (c : RaceCtx) =>
    (BitVec.ofNat 64 n, (s.setRace n (c.put shard x)).setThread tid { s.thread tid with race := some (n, shard) })
  if bits w0 63 30 ≠ 0 || bits w0 23 23 ≠ 0 || decide (64 < m) || decide (m ≤ shard) || w1.toNat % 64 ≠ 0 then (joinFail 3, s)
  else match s.hub.races.find? (fun c => c.2.gang = t.gang && c.2.tag = tag) with
    | some (n, c) =>
      if c.m ≠ m then (joinFail 4, s)
      else if (Tab.find shard c.shards).isSome then (joinFail 5, s)
      else if c.started then (joinFail 6, s)
      else joined s n c
    | none =>
      let region := s.regionOf t
      match s.chain t.vi region with
      | none => (joinFail 2, s)
      | some ch =>
        if (State.budgets 8 ch).any (fun b => decide (b.2 < (s.useOf t.vi b.1).races + 1)) then (joinFail 2, s)
        else match (upto 64).find? (fun n => (s.race? n).isNone) with
          | none => (joinFail 1, s)
          | some n =>
            let held := ch.map (fun b => b.1)
            joined (s.countRace t.vi held true) n
              { gang := t.gang, vi := t.vi, region := region, held := held, tag := tag, m := m, shards := [], started := false, lock := false
                etrap := false, topk := 0, best := none, floor := negInf, posts := [], struck := [], round := 0, decided := false, pair := none }

def execRbegin (d a : Reg) (s : State) : Result :=
  let tid := s.cur
  let t := s.thread tid
  finishWrite tid d (match t.race with
    | some (n, _) => .error (.trap s causeRaceCtx (BitVec.ofNat 64 n) none)
    | none => do
      let (ws, s) ← readRecord s tid (t.reg a) (fun _ => 2)
      .ok (joinRace s tid (ws.getD 0 0) (ws.getD 1 0)))

/-- RCFG enters the VCQ; the program-order copy changes at once (R410). -/
def execRcfg (a : Reg) (f : BitVec 4) (s : State) : Result :=
  let tid := s.cur
  let v := s.reg tid a
  finish tid (if !s.hasVector tid then trapNow s causeBadSplit (Instr.rcfg a f).word else match raceOf s tid with
    | none => trapNow s causeRaceCtx noContext
    | some (n, h, c, x) =>
      (s.enqueueOr tid (.rcfg f.toNat v) (Instr.rcfg a f).word).map (fun s =>
        (s.setRace n (c.put h { x with pcfg := Tab.put f.toNat v x.pcfg })).retire tid))

def execRcfgR (d : Reg) (f : BitVec 4) (s : State) : Result :=
  let tid := s.cur
  finishWrite tid d (match raceOf s tid with
    | none => trapNow s causeRaceCtx noContext
    | some (_, _, _, x) => .ok (Tab.get (raceDefault f.toNat) f.toNat x.pcfg, s))

/-- STATUS codes (R421, R423). -/
def statusOk : Nat := 0
def statusEmpty : Nat := 5
def statusNeedExact : Nat := 6
def statusContinue : Nat := 7

/-- Sets STATUS of RSTAT (R413). -/
def setStatus (s : State) (tid n : Nat) : State := s.setThread tid { s.thread tid with rstatus := n }

/-- The common wait of RWAIT and RPROB (R421, R423): CONTINUE and EMPTY with their values, or `decided` for a decided race with a winner. -/
def raceWait (s : State) (tid : Nat) (emptyValue : Word)
    (decided : Nat → Nat → RaceCtx → Shard → (Elem × Nat × Elem) → Except Stop (Word × State)) : Except Stop (Word × State) :=
  match raceOf s tid with
  | none => trapNow s causeRaceCtx noContext
  | some (n, h, c, x) =>
    if raceWork s tid then .error (.wait s)
    else if x.st = .active || x.st = .ranking then .ok (claimNone, setStatus s tid statusContinue)
    else if !c.decided then .error (.wait s)
    else
      let x : Shard := { x with atWait := some (x.atWait.getD (x.m, x.zlo, x.zhi, x.bounds)) }
      let c := c.put h x
      let s := s.setRace n c
      match c.best with
      | none =>
        if c.etrap then .error (.trap s causeRaceEmpty (BitVec.ofNat 64 n) none) else .ok (emptyValue, setStatus s tid statusEmpty)
      | some b => match decided n h c x b with
        | .ok (v, s) => .ok (v, s)
        | .error (.wait _) => .error (.wait s)
        | .error e => .error e

def execRwait (d : Reg) (s : State) : Result :=
  let tid := s.cur
  finishWrite tid d (raceWait s tid 0xFFFFFFFF (fun n _ c _ b => .ok (BitVec.ofNat 64 b.2.1, setStatus (s.setRace n c) tid statusOk)))

/-- The combined pair of a decided race and whether Zhi is 0 or nothing was entered, once every shard has waited or ended (R423, R426). -/
def racePair (c : RaceCtx) (b : Elem × Nat × Elem) : Option (Word × Bool) :=
  match c.pair with
  | some p => some p
  | none =>
    if c.shards.all (fun h => h.2.atWait.isSome || h.2.st = .ended) then
      let (lo, hi, empty) := c.probability b.2.2
      let hi : Elem := if c.topk = 0 then hi else 0x3F800000
      some (BitVec.ofNat 64 (hi.toNat * 2 ^ 32 + lo.toNat), empty)
    else none

/-- RPROB and RPROB.X (R423, R426). -/
def rprob (exact_ : Bool) (d : Reg) (s : State) : Result :=
  let tid := s.cur
  finishWrite tid d (raceWait s tid claimNone (fun n _ c _ b =>
    match racePair c b with
    | none => .error (.wait s)
    | some p =>
      let c : RaceCtx := { c with pair := some p }
      let s := s.setRace n c
      if exact_ && (p.2 || c.topk ≠ 0 || c.shards.any (fun h => h.2.combined.2.2.2 ≠ 0)) then .ok (claimNone, setStatus s tid statusNeedExact)
      else .ok (p.1, setStatus s tid statusOk)))

def execRprob (d : Reg) (s : State) : Result := rprob false d s
def execRprobX (d : Reg) (s : State) : Result := rprob true d s

/-- REND ends the shard once its race work has completed (R412). -/
def execRend (s : State) : Result :=
  let tid := s.cur
  finish tid (match (s.thread tid).race with
    | none => trapNow s causeRaceCtx noContext
    | some (n, h) =>
      if raceWork s tid then .error (.wait s)
      else
        let s := s.endShard n h
        .ok ((s.setThread tid { s.thread tid with race := none }).retire tid))

/-- The row index and the P bit of a row word. -/
def rowJ (x : Elem) : Nat := x.toNat % 2 ^ 31
def rowP (x : Elem) : Bool := x.getLsbD 31

/-- Begins a vector race instruction: RACE_CTX without a context, then its operands (R410, R414). -/
def raceDo (s : State) (f : VFields) (codes : List (BitVec 6)) (body : Nat → Reading → Nat × Nat × RaceCtx × Shard → State → Except Stop State) : Result :=
  vectorDo s f (fun tid => match raceOf s tid with
    | none => .error (.trap s causeRaceCtx noContext none)
    | some r => do
      let (c, s) ← s.begin_ tid f codes []
      body tid c r s)

/-- The noise index of a row in a shard (R406). -/
def Shard.noise (h : Shard) (j : Nat) : Nat := noiseIndex (h.config 0).toNat ((h.config 1).toNat % 2 ^ 32) j

/-- RNOISE (R415). -/
def execRnoise (f : VFields) (s : State) : Result :=
  raceDo s f [f.sa] (fun tid c r s => let c := s.partOf tid c; s.placeSweep tid c (fun i =>
    let n := r.2.2.2.noise (rowJ (c.srcA i))
    plain (if f.ty = 3 then BitVec.ofNat 32 n else noiseEntry n)))

/-- A value scaled by a positive FP32 value, or divided by one. -/
def scaleFl (x t : Fl) (divide : Bool) : Fl :=
  match x, t with
  | .fin s n d, .fin _ m e => if divide then .fin s (n * e) (d * m) else .fin s (n * m) (d * e)
  | x, _ => x

/-- The exact sum of two values, as a value; `down` gives the sign of an exact zero of opposite signs (R262). -/
def exactSum (down : Bool) : Fl → Fl → Option Fl
  | .inf s, .inf t => if s = t then some (.inf s) else none
  | .inf s, _ => some (.inf s)
  | _, .inf t => some (.inf t)
  | .fin s n d, .fin t m e =>
    let x := signed s n * e + signed t m * d
    if x = 0 then some (.fin (if n = 0 ∧ m = 0 ∧ s = t then s else down) 0 1) else some (.fin (decide (x < 0)) x.natAbs (d * e))
  | _, _ => none

/-- RBOUND of one element (R405, R415). -/
def boundElem (h : Shard) (mode : Rounding) (which : Nat) (l b row : Elem) : Elem × FlagSet :=
  let (x, y) := (readFloat false l, readFloat false b)
  (nanOf [x, y]).getD (match exactSum (mode = .rdn) x y with
    | none => invalid
    | some y =>
      let theta := readFloat false (h.config32 3)
      let y := if rowP row then scaleFl y theta (!y.neg? && !y.isZero) else y
      let z := if which = 2 then y else scaleFl y (readFloat false (h.config32 2)) true
      if which = 0 then sumElem false mode z (readFloat false (noiseEntry (h.noise (rowJ row))))
      else match z with
        | .inf s => (infElem s, 0)
        | .fin s n d => if n = 0 then (zeroElem s, 0) else roundElem false mode s n d
        | .nan _ => invalid)

def execRbound (f : VFields) (s : State) : Result :=
  raceDo s f [f.sa, f.sb, f.sc] (fun tid c r s => let c := s.partOf tid c; s.placeSweep tid c (fun i =>
    boundElem r.2.2.2 (modeOf f) (f.ext.toNat % 4) (c.srcA i) (c.srcB i) (c.srcC i)))

/-- The entries of a bias list stand in strictly ascending J (R415). -/
def ascending : List (Nat × Elem × Bool) → Bool
  | (a, _, _) :: (b, x) :: t => decide (a < b) && ascending ((b, x) :: t)
  | _ => true

/-- What VBIAS gives a row: the entry it matches, or one of the outcomes of an unordered list by a free choice (R415; log 3). -/
def biasFor (s : State) (sorted : Bool) (list : List (Nat × Elem × Bool)) (j : Nat) : Option (Elem × Bool) × State :=
  let ms := list.filter (fun e => e.1 = j)
  if sorted || ms = [] then (ms.head?.map (fun e => e.2), s)
  else
    let (n, s) := s.draw (ms.length + 1)
    ((ms[n]?).map (fun e => e.2), s)

/-- VBIAS (R415): the whole list is checked and read before any element performs. -/
def execVbias (f : VFields) (s : State) : Result :=
  raceDo s f [f.sb] (fun tid c _ s =>
    let count := (c.v.word f f.sc).toNat % 2 ^ 32
    if 2 ^ 20 < count then .error (.trap s causeIllegal (Instr.vbias f).word none)
    else match c.activeRest with
      | [] => s.placeSweep tid c (fun _ => plain 0)
      | i0 :: _ =>
        let accs := (List.range count).map (fun k => { oneAcc (i0 + 4096 * k) (c.base + bytesAt (8 * k)) 8 0 with ea := c.base + bytesAt (8 * k) })
        let s := s.orderVector tid f.rs.toNat 0
        match s.access tid .read .load f.space false none [{ idx := i0, accs := accs, flags := [], bad := false }] with
        | .wait s => .error (.wait s)
        | .ready s _ (some (_, cause, tval, info)) _ => .error (.trap (s.setVstart tid i0) cause tval info)
        | .ready s _ none (some _) => .error (.wait s)
        | .ready s good none none =>
          let r := (good.map (fun g => g.2)).flatten.foldl (fun (r : List (Nat × Elem × Bool) × State) p =>
            let (x, s) := r.2.vectorRead tid p
            (r.1 ++ [(bits x 30 0, BitVec.ofNat 32 (bits x 63 32), x.getLsbD 31)], s)) ([], s)
          let list := r.1
          let sorted := ascending list
          let c := r.2.partOf tid c
          let picks := c.activeRest.foldl (fun (p : Tab Elem × State) i =>
            let row := c.srcB i
            let (m, s) := biasFor p.2 sorted list (rowJ row)
            let v : Elem := match m with
              | some (b, q) => if f.ty = 3 then BitVec.ofNat 32 (rowJ row + (if q then 2 ^ 31 else 0)) else b
              | none => if f.ty = 3 then BitVec.ofNat 32 (rowJ row) else 0
            (Tab.put i v p.1, s)) ([], r.2)
          picks.2.placeSweep tid c (fun i => plain (Tab.get 0 i picks.1)))

/-- RMASK (R415): a byte of the bitmap for each active element. -/
def execRmask (f : VFields) (s : State) : Result :=
  raceDo s f [f.sb, f.sc] (fun tid c _ s => do
    let plan := fun (c : Reading) => c.activeRest.map (fun i =>
      ({ idx := i, accs := [oneAcc i (c.base + bytesAt (rowJ (c.srcB i) / 8)) 1 0], flags := [], bad := false } : VElem))
    let s ← s.soundAll tid .read f.space (plan c)
    let c := s.partOf tid c
    s.runLoad tid c (plan c) (fun i vals => some (if ((Tab.find i vals).getD 0).toNat / 2 ^ (rowJ (c.srcB i) % 8) % 2 = 1 then c.srcC i else negInf)) (fun s _ => s))

/-- An entry of a row that has no bounds yet (R416). -/
def HeapEntry.fresh (j : Nat) : HeapEntry :=
  { j := j, hi := negInf, lo := negInf, plHi := posInf, plLo := negInf, handed := false, evaluated := false, s := negInf, x := 0, removed := false }

/-- Enters, or changes, the entry of a row; none beyond 65,536 entries (R416). -/
def putEntry (heap : List HeapEntry) (j : Nat) (g : HeapEntry → HeapEntry) : Option (List HeapEntry) :=
  if heap.any (fun e => e.j = j) then some (heap.map (fun e => if e.j = j then g e else e))
  else if 65536 ≤ heap.length then none
  else some (heap ++ [g (HeapEntry.fresh j)])

/-- RQUEUE of the selected elements in flat order: the context and shard, and the element the heap had no room for (R416). -/
def enterRows (k : Bool) (c : Reading) : List Nat → RaceCtx × Shard → (RaceCtx × Shard) × Option Nat
  | [], r => (r, none)
  | i :: is, (x, h) =>
    let j := rowJ (c.srcA i)
    let (b, l) := (c.srcB i, c.srcC i)
    let topk := h.config32 5
    let lock := (h.config 4).getLsbD 0
    if k then
      if b = negInf then enterRows k c is (x, h)
      else match putEntry h.heap j (fun e => { e with plHi := if isNan32 b then posInf else b, plLo := if isNan32 l then negInf else l }) with
        | none => ((x, h), some i)
        | some heap => enterRows k c is (x, { h with heap := heap })
    else
      let hi := if isNan32 b then posInf else b
      let lo := if isNan32 l then negInf else l
      if hi = negInf || (topk = 0 && !lock && f32Lt hi x.floor) then enterRows k c is (x, h)
      else match putEntry h.heap j (fun e => { e with hi := hi, lo := lo }) with
        | none => ((x, h), some i)
        | some heap =>
          let raise := topk = 0 && f32Lt x.floor lo
          enterRows k c is (if raise then { x with floor := lo } else x,
            { h with heap := heap, floor := if topk = 0 && f32Lt h.floor lo then lo else h.floor })

/-- RQUEUE and RQUEUE.k (R416). -/
def rqueue (k : Bool) (f : VFields) (s : State) : Result :=
  raceDo s f [f.sa, f.sb, f.sc] (fun tid c r s =>
    let (n, m, x, h) := r
    if !k && h.queued then .error (.trap (s.setVstart tid 0) causeRaceCtx (BitVec.ofNat 64 n) none)
    else
      let ((x, h), bad) := enterRows k c c.activeRest (x, { h with touched := true })
      let s := s.setRace n (x.put m h)
      match bad with
      | some i => .error (.trap (s.setVstart tid i) causeRaceCtx (BitVec.ofNat 64 n) none)
      | none => .ok s)

def execRqueue (f : VFields) (s : State) : Result := rqueue false f s
def execRqueueK (f : VFields) (s : State) : Result := rqueue true f s

/-- The candidates of a shard against a best and a floor, by S_hi descending and J ascending (R417). -/
def candidates (c : RaceCtx) (h : Shard) (best : Option (Elem × Nat)) (floor : Elem) : List HeapEntry × List HeapEntry :=
  let r := h.heap.filter (fun e => !e.handed && !e.removed && e.hi ≠ negInf && !c.struck.contains e.j && (c.topk ≠ 0 || !f32Lt e.hi floor))
  let can := fun (e : HeapEntry) => match best with
    | none => true
    | some (b, j) => f32Lt b e.hi || (f32Eq b e.hi && decide (e.j < j))
  (r, sortBy (fun a b => f32Lt b.hi a.hi || (!f32Lt a.hi b.hi && decide (a.j ≤ b.j))) (r.filter can))

/-- The entries of a shard with some rows handed out. -/
def handOut (h : Shard) (rows : List Nat) : List HeapEntry := h.heap.map (fun e => if rows.contains e.j then { e with handed := true } else e)

/-- The decision of one RNEXT (R417): status, rows handed out, and the shard. -/
def decideNext (c : RaceCtx) (h : Shard) (best : Option (Elem × Nat)) (floor : Elem) (n : Nat) : Nat × List Nat × Shard :=
  let und := if h.st = .ranking then sortBy (fun a b => decide (a.j ≤ b.j)) (c.undecidedIn h) else []
  if und ≠ [] then
    let out := (und.take n).map (fun e => e.j)
    (2, out, { h with heap := handOut h out })
  else
    let (r, cs) := candidates c h best floor
    if cs ≠ [] then
      let out := (cs.take n).map (fun e => e.j)
      (1, out, { h with st := .active, heap := handOut h out })
    else if r = [] then (4, [], { h with st := .finished })
    else (3, [], { h with st := .dropped })

/-- Rows handed out earlier and never posted leave the race as if posted with −∞; they stay entries for R420 (R417; log 54). -/
def dropUnposted (h : Shard) : Shard :=
  { h with heap := h.heap.map (fun e => if e.handed && !e.evaluated then { e with evaluated := true, removed := true } else e) }

/-- RNEXT (R411, R417, R419). -/
def execRnext (f : VFields) (s : State) : Result :=
  raceDo s f [] (fun tid c r s =>
    let (n, m, x, h) := r
    let (flags, topk) := ((h.config 4).toNat, (h.config32 5).toNat)
    if 0 < c.v.work.vstart then .ok s
    else if x.shards.length < x.m || s.returnFull tid then .error (.wait s)
    else
      let x : RaceCtx := if x.started then x else { x with started := true, lock := flags % 2 = 1, etrap := flags / 2 % 2 = 1, topk := topk }
      if x.lock ≠ decide (flags % 2 = 1) || x.etrap ≠ decide (flags / 2 % 2 = 1) || x.topk ≠ topk then
        .error (.trap s causeRaceCtx (BitVec.ofNat 64 n) none)
      else
        let decide_ := fun (h : Shard) (best : Option (Elem × Nat)) (floor : Elem) =>
          let (st, out, h) := decideNext x h best floor c.total
          let h : Shard := { h with rounds := h.rounds + 1, arrived := false, snapshot := none }
          let s := s.setRace n (x.put m h)
          let ws := ((List.range out.length).zip out).map (fun p => (c.place p.1, BitVec.ofNat 32 p.2))
          let s := (s.putElems tid f.vd.toNat (s.tailWrites tid c (fun r e => ws.any (fun w => w.1 = r * 256 + e)))).putElems tid f.vd.toNat ws
          .ok (s.pushReturn tid (BitVec.ofNat 64 (st * 2 ^ 56 + out.length)))
        let started : Shard := { h with touched := true, queued := true }
        if !x.lock then decide_ (dropUnposted started) h.best h.floor
        else if !h.arrived then .error (.wait (s.setRace n (x.put m { dropUnposted started with arrived := true, snapshot := none })))
        else match h.snapshot with
          | none => .error (.wait s)
          | some (best, floor) => decide_ h best floor)

/-- RPOST of the selected elements in flat order, with the invalid flags (R418). -/
def postRows (c : Reading) : List Nat → RaceCtx × Shard → List (Nat × FlagSet) → RaceCtx × Shard × List (Nat × FlagSet)
  | [], (x, h), fs => (x, h, fs)
  | i :: is, (x, h), fs =>
    let j := rowJ (c.srcA i)
    let nan := isNan32 (c.srcB i)
    let v := if nan then negInf else c.srcB i
    if h.heap.any (fun e => e.j = j && e.handed && !e.evaluated) then
      let h : Shard := { h with heap := h.heap.map (fun e => if e.j = j then { e with evaluated := true, s := v, x := c.srcC i } else e) }
      let x : RaceCtx := if v = negInf then x else
        { x with posts := x.posts ++ [(v, j, c.srcC i)], best := if beats v j x.best then some (v, j, c.srcC i) else x.best }
      let mine := beats v j (h.best.map (fun b => (b.1, b.2, 0)))
      postRows c is (x, { h with best := if mine then some (v, j) else h.best }) (if nan then fs ++ [(i, flagNv)] else fs)
    else postRows c is (x, h) fs

/-- Merges the flags of a one-step selecting instruction and raises FP_TRAP behind it (R344). -/
def oneStepFlags (s : State) (tid : Nat) (c : Reading) (fs : List (Nat × FlagSet)) : Except Stop State :=
  let s := s.setVthread tid ((s.vthread tid).mergeAll fs)
  match (s.vthread tid).firstEnabled fs with
  | some i => .error (.trap (s.setVstart tid c.total) causeFpTrap (BitVec.ofNat 64 i) none)
  | none => .ok s

def execRpost (f : VFields) (s : State) : Result :=
  raceDo s f [f.sa, f.sb, f.sc] (fun tid c r s =>
    let (n, m, x, h) := r
    let (x, h, fs) := postRows c c.activeRest (x, { h with touched := true }) []
    oneStepFlags (s.setRace n (x.put m h)) tid c fs)

/-- RZACC (R422). -/
def execRzacc (f : VFields) (s : State) : Result :=
  raceDo s f [f.sa, f.sb] (fun tid c r s =>
    let (n, m, x, h) := r
    let (h, fs) := c.activeRest.foldl (fun (p : Shard × List (Nat × FlagSet)) i =>
      let (h, bad) := p.1.addTerm (c.srcA i) (c.srcB i)
      (h, if bad then p.2 ++ [(i, flagNv)] else p.2)) ({ h with touched := true }, [])
    oneStepFlags (s.setRace n (x.put m h)) tid c fs)

/-- A lockstep round is decided once every shard has arrived at it or stands stopped (R419). -/
def execRaceRoundDecide (ctx : Nat) (s : State) : Result :=
  match s.race? ctx with
  | none => done s
  | some c =>
    let waiting := fun (h : Shard) => h.arrived && h.snapshot.isNone
    if c.lock && decide (c.m ≤ c.shards.length) && c.shards.any (fun h => waiting h.2) && c.shards.all (fun h => waiting h.2 || h.2.stopped) then
      let best := c.best.map (fun b => (b.1, b.2.1))
      done (s.setRace ctx { c with round := c.round + 1, shards := c.shards.map (fun h => (h.1, if waiting h.2 then { h.2 with snapshot := some (best, c.floor) } else h.2)) })
    else done s

/-- Outside lockstep a core's race unit receives the arbiter's best and floor (R417); the best of another shard reaches it once it has
executed an RNEXT (R428; log 58). -/
def execRaceBestReceived (tid : Nat) (s : State) : Result :=
  match raceOf s tid with
  | none => done s
  | some (n, m, c, h) =>
    if c.lock then done s
    else done (s.setRace n (c.put m { h with best := if h.rounds = 0 then h.best else c.best.map (fun b => (b.1, b.2.1)), floor := c.floor }))

end Sys2Proof.Machine
end

