-- ==== Sys2Proof/Machine/Engine.lean ====
section
/-! DEFINITION. The engines: EPUT, EGET and ECNT (R429 to R434), the reads and writes of a command, and the copy engine (R140 to R143, R435 to R437). Engine numbers: 0 to 63 the copy engine of a core, 64 to 67 the page engine of a die, 68 the collective engine. -/

namespace Sys2Proof.Machine

/-- The engine that mod names for a thread (R429). -/
def engineOf (tid mod : Nat) : Nat := if mod = 0 then tid / 4 else if mod = 1 then 64 + tid / 64 else 68

/-- Copy, page or collective engine, as mod numbers them. -/
def engineKind (e : Nat) : Nat := if e < 64 then 0 else if e < 68 then 1 else 2

/-- The die of an engine (R112, R140). -/
def engineDie (e : Nat) : Nat := if e < 64 then e / 16 else if e < 68 then e - 64 else 4

namespace State

/-- The commands of an engine that have no posted result, oldest first. -/
def cmds (s : State) (e : Nat) : List Cmd :=
  if e < 64 then (s.core e).copyQ else if e < 68 then (s.die (e - 64)).pageQ else s.hub.fcQ
def setCmds (s : State) (e : Nat) (l : List Cmd) : State :=
  if e < 64 then s.setCore e { s.core e with copyQ := l }
  else if e < 68 then s.setDie (e - 64) { s.die (e - 64) with pageQ := l }
  else s.setHub { s.hub with fcQ := l }
def setCmd (s : State) (e : Nat) (c : Cmd) : State := s.setCmds e ((s.cmds e).map (fun x => if x.id = c.id then c else x))

end State

/-- Fields of a header (R430). -/
def Cmd.code (c : Cmd) : Nat := bits c.header 63 56
def Cmd.opt (c : Cmd) : Nat := bits c.header 7 0
def Cmd.arg (c : Cmd) (n : Nat) : Word := c.args.getD (n - 1) 0

/-- A command with its result word (R434). -/
def Cmd.ends (c : Cmd) (status value : Nat) (tval xinfo : Word) : Cmd :=
  { c with req := none, buf := [], run := none,
           result := some { word := BitVec.ofNat 64 (status * 2 ^ 56 + bits c.header 47 40 * 2 ^ 48 + value % 2 ^ 48), tval := tval, xinfo := xinfo } }
def Cmd.ok (c : Cmd) (value : Nat) : Cmd := c.ends 0 value 0 0
def Cmd.fault (c : Cmd) (value : Nat) (tval xinfo : Word) : Cmd := c.ends 1 value tval xinfo
def Cmd.badArg (c : Cmd) (n : Nat) : Cmd := c.ends 4 n 0 0
def Cmd.busy (c : Cmd) : Cmd := c.ends 5 0 0 0
def Cmd.denied (c : Cmd) (reason : Nat) : Cmd := c.ends 6 reason 0 0

/-- The argument count and privilege of a command code at an engine (R430, R435, R438, R439). -/
def commandTable (kind code : Nat) : Option (Nat × Bool) :=
  match kind, code with
  | 0, 0x01 => some (4, false)
  | 0, 0x02 => some (2, false)
  | 0, 0x03 => some (2, false)
  | 1, 0x10 => some (4, true)
  | 1, 0x11 => some (2, false)
  | 1, 0x12 => some (1, true)
  | 1, 0x13 => some (5, false)
  | 1, 0x14 => some (4, false)
  | 1, 0x15 => some (1, true)
  | 1, 0x16 => some (1, true)
  | 2, 0x20 => some (5, false)
  | 2, 0x21 => some (1, false)
  | 2, 0x22 => some (3, false)
  | 2, 0x23 => some (6, false)
  | _, _ => none

/-- A header's COUNT (R430). -/
def headerCount (h : Word) : Nat := bits h 55 48

namespace State

/-- The commands of all engines of one kind: copy, page or collective. -/
def cmdsOf (s : State) (mod : Nat) : List Cmd :=
  if mod = 0 then (s.cores.map (fun c => c.2.copyQ)).flatten else if mod = 1 then (s.dies.map (fun d => d.2.pageQ)).flatten else s.hub.fcQ

/-- The commands of a task at the engines of one kind that have no posted result; a task that has moved to another die may have some at
the page engine of the one it left (R229, R431). -/
def outstanding (s : State) (tid mod : Nat) : Nat := ((s.cmdsOf mod).filter (fun c => c.uid = (s.thread tid).uid)).length
def queuedResults (s : State) (tid mod : Nat) : List EngineResult := Tab.get [] mod (s.thread tid).results

end State

/-- The slot, first step and step count that a fill's argument names (R437). -/
def fillSlot (a : Word) : Nat := bits a 5 0
def fillFirst (a : Word) : Nat := bits a 15 8
def fillSteps (a : Word) : Nat := bits a 23 16 + 1

/-- The word of a command that names the slot it fills, if it fills one (R435). -/
def fillWord (header : Word) (args : List Word) : Option Word :=
  if bits header 63 56 = 2 then some (args.getD 1 0)
  else if bits header 63 56 = 3 && header.getLsbD 0 then some (args.getD 0 0)
  else none

/-- The checks of R437 at the EPUT of a fill's last word. -/
def fillChecks (s : State) (tid : Nat) (word a : Word) : Except Stop Unit :=
  let g := (s.thread tid).geom
  let (n, v) := (fillSlot a, geomV g)
  let x := s.slot (tid / 4) n
  if bits g 61 58 = 0 then trapNow s causeWmuGeometry word
  else if !s.ownsSlot tid n then tileTrap s causeTileNone n
  else if x.odd || (v = 16 && !x.paired) then tileTrap s causeTileState n
  else if decide (x.ext + 1 < fillFirst a + fillSteps a) then tileTrap s causeTileState n
  else if x.st = .filling && x.vw ≠ 0 && x.vw ≠ v then tileTrap s causeTileState n
  else .ok ()

/-- The last word of a command is its release, and the command enters its engine's queue (R141, R430). -/
def pushCommand (s : State) (tid mod : Nat) (word header : Word) (args : List Word) : Except Stop State := do
  let t := s.thread tid
  match (if mod = 0 then fillWord header args else none) with
  | some a => fillChecks s tid word a
  | none => .ok ()
  let s ← s.releaseReady tid (BitVec.ofNat 3 (mod + 1))
  let s := match (if mod = 0 then fillWord header args else none) with
    | some a => s.setSlot (tid / 4) (fillSlot a) { s.slot (tid / 4) (fillSlot a) with fills := (s.slot (tid / 4) (fillSlot a)).fills + 1 }
    | none => s
  let e := engineOf tid mod
  let (i, s) := s.freshId
  let c : Cmd :=
    { id := i, uid := t.uid, vi := t.vi, asn := s.asnOf t, priv := t.priv, region := s.regionOf t, die := engineDie e, header := header, args := args
      geom := t.geom, started := false, done := 0, buf := [], run := none, wr := 0, req := none, mem := [], result := none }
  .ok ((s.setCmds e (s.cmds e ++ [c])).setThread tid { s.thread tid with asm := Tab.del mod (s.thread tid).asm })

/-- EPUT (R430, R431). -/
def execEput (a : Reg) (e : BitVec 6) (s : State) : Result :=
  let tid := s.cur
  let t := s.thread tid
  let x := t.reg a
  let word := (Instr.eput a e).word
  let mod := e.toNat
  finish tid (
    match Tab.find mod t.asm with
    | none =>
      match commandTable mod (bits x 63 56) with
      | none => trapNow s causeIllegal word
      | some (n, sup) =>
        if headerCount x ≠ n then trapNow s causeIllegal word
        else if sup && t.priv = .task then trapNow s causePriv word
        else if 16 ≤ s.outstanding tid mod + (s.queuedResults tid mod).length then .error (.wait s)
        else .ok ((s.setThread tid { t with asm := Tab.put mod { header := x, args := [] } t.asm }).retire tid)
    | some m =>
      let args := m.args ++ [x]
      if args.length < headerCount m.header then
        .ok ((s.setThread tid { t with asm := Tab.put mod { m with args := args } t.asm }).retire tid)
      else (pushCommand s tid mod word m.header args).map (fun s => s.retire tid))

/-- The word of status NONE (R432). -/
def resultNone : Word := 0xFF00000000000000

/-- EGET: the oldest result, which is an acquire of the work that it reports (R142), then the retired trap its status calls for (R432, R434). -/
def execEget (d : Reg) (e : BitVec 6) (s : State) : Result :=
  let tid := s.cur
  let t := s.thread tid
  let mod := e.toNat
  let s := if s.queuedResults tid mod = [] then s else s.forgetEarly tid
  match s.queuedResults tid mod with
  | [] => if s.outstanding tid mod = 0 then writeRetire s d resultNone else .next s
  | r :: rest =>
    let s := (s.setThread tid { s.thread tid with results := Tab.write [] mod rest t.results }).setReg tid d r.word
    match bits r.word 63 56 with
    | 1 => finishRetired s tid causeEngineFault r.tval (some r.xinfo)
    | 2 => finishRetired s tid causeImportRefused r.tval none
    | 3 => finishRetired s tid causeFabNoslot r.tval (some r.xinfo)
    | _ => .next (s.retire tid)

/-- ECNT (R433). -/
def execEcnt (d : Reg) (e : BitVec 6) (s : State) : Result :=
  let out := s.outstanding s.cur e.toNat
  let res := (s.queuedResults s.cur e.toNat).length
  writeRetire s d (BitVec.ofNat 64 ((16 - (out + res)) * 65536 + res % 256 * 256 + out % 256))

/-- Changes what is saved of a task. -/
def State.mapSaved (s : State) (uid : Nat) (f : SavedTask → SavedTask) : State :=
  let on := fun (x : Nat × SavedTask) => if x.2.ct.uid = uid then (x.1, f x.2) else x
  { s with gangs := s.gangs.map (fun (g : Nat × Gang) => (g.1, { g.2 with saved := g.2.saved.map on })) }

/-- A command's result reaches its task once every access of it has performed at its home (R142); a task that has gone gets none. -/
def execEngineResultPost (eng n : Nat) (s : State) : Result :=
  match (s.cmds eng)[n]? with
  | none => done s
  | some c =>
    match c.result with
    | none => done s
    | some r =>
      if s.unperformed c.id true then done s
      else
        let kind := engineKind eng
        let s := s.setCmds eng ((s.cmds eng).filter (fun x => x.id ≠ c.id))
        let give := fun (t : CThread) => { t with results := Tab.put kind (Tab.get [] kind t.results ++ [r]) t.results }
        let s := match s.tidOf c.uid with
          | some tid => s.setThread tid (give (s.thread tid))
          | none => s.mapSaved c.uid (fun x => { x with ct := give x.ct })
        done s.decideAll

/-- How many accesses a share of a command does, of a range of `n` bytes, and at which offset it may begin (R140; log 63). -/
def Share.accesses (h : Share) (n : Nat) : Nat :=
  match h with
  | .whole => 2 * n + 2
  | .groups k => Nat.min k (2 * n) + 1
  | .upTo _ => 1
  | .place _ _ => 1
def Share.offset (h : Share) : Nat := match h with | .whole => 0 | .groups _ => 0 | .upTo k => k | .place _ k => k

/-- Row `r` of a strided range starts here (R436). -/
def rowAt (a : Word) (r : Nat) (stride : BitVec 32) : Word := a + BitVec.ofNat 64 r * stride.signExtend 64

/-- A strided range: its start, its stride and the bytes of a row. -/
structure Rows where
  ea : Word
  stride : BitVec 32
  n : Nat
  deriving DecidableEq, Repr

/-- The access that byte `i` of a strided range belongs to: the offset of its first byte, its size and its address. It is the aligned
8-byte word of the row that the byte lies in, or else the byte alone (R436). -/
def Rows.piece (g : Rows) (i : Nat) : Nat × Nat × Word :=
  let (r, b) := (i / g.n, i % g.n)
  let base := rowAt g.ea r g.stride
  let m := (base.toNat + b) % 8
  if m ≤ b ∧ b - m + 8 ≤ g.n then (i - m, 8, base + BitVec.ofNat 64 (b - m)) else (i, 1, base + BitVec.ofNat 64 b)

/-- One row. -/
def oneRow (ea : Word) (n : Nat) : Rows := { ea := ea, stride := 0, n := n }

/-- The offset to go on at among those left: the first from `k` on, or else the first of all. -/
def offsetFrom (k : Nat) (left : List (Nat × Nat)) : Option Nat :=
  match left.find? (fun x => decide (k < x.2)) with
  | some x => some (Nat.max x.1 k)
  | none => left.head?.map (fun x => x.1)

/-- The offsets that are left without `w` of them from `p` on. -/
def withoutPiece (p w : Nat) (left : List (Nat × Nat)) : List (Nat × Nat) :=
  (left.map (fun x =>
    if x.1 ≤ p ∧ p < x.2 then (if x.1 < p then [(x.1, p)] else []) ++ (if p + w < x.2 then [(p + w, x.2)] else []) else [x])).flatten

namespace Run

/-- Nothing of `n` bytes is done yet. -/
def start (n : Nat) : Run := let all := if n = 0 then [] else [(0, n)]; { todo := all, parts := [], out := all }

/-- The bytes that have been read, in ascending order. -/
def bytes (r : Run) : List Byte := (r.parts.map (fun x => x.2)).flatten

/-- The byte that has been read at an offset. -/
def byteAt (r : Run) (i : Nat) : Option Byte :=
  (r.parts.find? (fun x => decide (x.1 ≤ i) && decide (i < x.1 + x.2.length))).map (fun x => x.2.getD (i - x.1) 0)

/-- A piece has been read. -/
def read (r : Run) (p : Nat) (bs : List Byte) : Run := { r with todo := withoutPiece p bs.length r.todo, parts := Tab.put p bs r.parts }

/-- A piece has been written. -/
def wrote (r : Run) (p w : Nat) : Run := { r with out := withoutPiece p w r.out }

/-- The bytes of a range of `n` that have been written from offset `a` on. -/
def written (r : Run) (a n : Nat) : Nat := ((List.range n).filter (fun i => !r.out.any (fun x => decide (x.1 ≤ a + i) && decide (a + i < x.2)))).length

end Run

/-- The progress of a command through a range of `n` bytes. -/
def Cmd.runOf (c : Cmd) (n : Nat) : Run := c.run.getD (Run.start n)

/-- What one access of a command gives: it has been done at an offset, it waits, or it faults. -/
inductive Piece where
  | ok (s : State) (c : Cmd) (p : Nat)
  | wait (s : State) (c : Cmd)
  | fault (s : State) (tval xinfo : Word)
  deriving DecidableEq, Repr

/-- What reading a range gives: all of its bytes, a wait, or a fault with the number of bytes that have been read. -/
inductive RunRead where
  | ok (s : State) (data : List Byte)
  | wait (s : State) (c : Cmd)
  | fault (s : State) (n : Nat) (tval xinfo : Word)
  deriving DecidableEq, Repr

/-- What writing or copying a range gives, with the number of bytes written before a fault. -/
inductive RunWrite where
  | ok (s : State)
  | wait (s : State) (c : Cmd)
  | fault (s : State) (n : Nat) (tval xinfo : Word)
  deriving DecidableEq, Repr

/-- The size of the next access of a run: an aligned 8-byte word where one fits, else one byte (R436). -/
def pieceSize (ea : Word) (left : Nat) : Nat := if ea.toNat % 8 = 0 ∧ 8 ≤ left then 8 else 1

/-- The agent of a command at its engine (R112, R140). -/
def cmdAgent (e : Nat) (c : Cmd) : Agent :=
  { engineAgent c.vi c.asn (engineDie e) (waiterCmd c.id) (c.priv = .supervisor) with core := if e < 64 then some e else none }

/-- The thread number whose die's counter times an engine's requests (R181). -/
def engineClock (e : Nat) : Nat := 64 * engineDie e

namespace State

/-- One read of a command whose progress is `r`: the request that it waits for, or the access at offset `i` (R140, R436). -/
def readPiece (s : State) (e : Nat) (c : Cmd) (space : BitVec 2) (g : Rows) (r : Run) (i : Nat) : Piece :=
  let got := fun (s : State) (p : Nat) (bs : List Byte) => Piece.ok s { c with req := none, run := some (r.read p bs) } p
  match c.req with
  | some q =>
    let (p, w, a) := g.piece (((s.request q).bind (fun x => x.elems.head?)).elim i (fun x => x.idx))
    match s.request q with
    | none => .fault s a (fabricInfo 0 0)
    | some x => match x.reply with
      | some (.done vals) => got (s.dropRequest q) p (bytesOf ((Tab.find p vals).getD 0) w)
      | some (.refused _ _ kind reason _) => .fault (s.dropRequest q) a (fabricInfo kind reason)
      | none => if x.expired then .fault (s.dropRequest q) a (fabricInfo 0 0) else .wait s { c with run := some r }
  | none =>
    let (p, w, a) := g.piece i
    let send := fun (s : State) (m : Nat) (kind : FabricKind) (va : Word) =>
      let (q, s) := s.sendRequest c.vi c.id (engineClock e) m kind [{ idx := p, va := va, n := w, data := 0, cmp := 0 }] false false false 0
      Piece.wait s { c with run := some r, req := some q }
    match s.check (cmdAgent e c) c.region .read false false space a w with
    | .error (.wait s) => .wait s { c with run := some r }
    | .error (.trap s _ v x) => .fault s v (x.getD 0)
    | .ok (.here l key, s) =>
      if s.readsPoison (engineDie e) l w then .fault s a 0
      else got (s.observe (engineDie e) c.id l w) p (s.loadBytes (engineDie e) key l w)
    | .ok (.away m va, s) =>
      let l := Loc.remote m (s.vi c.vi).tag va
      if (List.range w).all (fun i => !(s.egressOver (engineDie e) (l.plus i)).isEmpty) then
        got (s.observe (engineDie e) c.id l w) p (s.loadBytes (engineDie e) 0 l w)
      else if s.egressHolds (engineDie e) l w then .wait s { c with run := some r }
      else send s m .load (fullVa va)
    | .ok (.pull x _, s) => let y := s.window c.vi x; send s y.node (.pull y.op y.members y.base) a
    | .ok (_, s) => .fault s a (xinfoOf 4 0 .read)

/-- One write of a command whose progress is `r`, at offset `i`, byte j being `f j` (R140, R436). -/
def writePiece (s : State) (e : Nat) (c : Cmd) (space : BitVec 2) (g : Rows) (r : Run) (f : Nat → Byte) (i : Nat) : Piece :=
  let (p, w, a) := g.piece i
  let data := (List.range w).map (fun j => f (p + j))
  let put := fun (s : State) (l : Loc) (key : BitVec 256) =>
    Piece.ok (s.storeFrom (engineDie e) (some c.id) key l data none none c.vi) { c with run := some (r.wrote p w) } p
  match s.check (cmdAgent e c) c.region .write false false space a w with
  | .error (.wait s) => .wait s { c with run := some r }
  | .error (.trap s _ v x) => .fault s v (x.getD 0)
  | .ok (.here l key, s) => put s l key
  | .ok (.away m va, s) => put s (.remote m (s.vi c.vi).tag va) 0
  | .ok (.reduce h _ _ _, s) => put s (s.reduceLoc c.vi h a) 0
  | .ok (_, s) => .fault s a (xinfoOf 4 0 .write)

/-- Reads what is left of `n` bytes, up to a number of accesses (R140, R436). -/
def readRun (s : State) (e : Nat) (c : Cmd) (space : BitVec 2) (ea : Word) (n : Nat) : Nat → RunRead
  | 0 => if (c.runOf n).todo = [] then .ok s (c.runOf n).bytes else .wait s c
  | f + 1 =>
    let r := c.runOf n
    match offsetFrom s.share.offset r.todo with
    | none => .ok s r.bytes
    | some i => match s.readPiece e c space (oneRow ea n) r i with
      | .ok s c _ => readRun s e c space ea n f
      | .wait s c => .wait s c
      | .fault s v x => .fault s r.bytes.length v x

/-- Writes what is left of `n` bytes, up to a number of accesses, byte i being `f i` (R140, R436). -/
def writeRun (s : State) (e : Nat) (c : Cmd) (space : BitVec 2) (ea : Word) (n : Nat) (f : Nat → Byte) : Nat → RunWrite
  | 0 => if (c.runOf n).out = [] then .ok s else .wait s c
  | fuel + 1 =>
    let r := c.runOf n
    match offsetFrom s.share.offset r.out with
    | none => .ok s
    | some i => match s.writePiece e c space (oneRow ea n) r f i with
      | .ok s c _ => writeRun s e c space ea n f fuel
      | .wait s c => .wait s c
      | .fault s v x => .fault s (r.written 0 n) v x

/-- The accesses that are left below an offset would find no fault here: a copy may go ahead to a later row (R436). -/
def rowsPass (s : State) (e : Nat) (c : Cmd) (k : Kind) (space : BitVec 2) (g : Rows) (left : List (Nat × Nat)) (below : Nat) : Bool :=
  (List.range below).all (fun i => !left.any (fun x => decide (x.1 ≤ i) && decide (i < x.2)) ||
    let (_, w, a) := g.piece i
    match s.check (cmdAgent e c) c.region k false false space a w with
    | .ok (.here l _, _) => !(k = .read && s.readsPoison (engineDie e) l w)
    | _ => false)

/-- The next access of a copy: a read or a write and its offset. It reads a row before it writes it and takes the rows in ascending order
unless the share says otherwise (R140; log 63). -/
def copyNext (s : State) (c : Cmd) (r : Run) (n : Nat) : Bool × Option Nat :=
  let first := (offsetFrom 0 r.out).getD 0
  let asked := c.req.bind (fun q => (s.request q).bind (fun x => x.elems.head?.map (fun e => e.idx)))
  let usual := match r.todo with
    | x :: _ => if x.1 / n ≤ first / n then (false, some x.1) else (true, some first)
    | [] => (true, some first)
  if c.req.isSome then (false, some (asked.getD first))
  else match s.share with
    | .place true k => (true, offsetFrom k r.out)
    | .place false k => (false, offsetFrom k r.todo)
    | .upTo k => (false, offsetFrom k r.todo)
    | _ => usual

/-- Copies what is left of a number of rows, up to a number of accesses. Reads and writes take effect in any order, but a byte is
read before it is written, and a fault ends the command only once every earlier row is written (R140, R436). -/
def copyRun (s : State) (e : Nat) (c : Cmd) (ss ds : BitVec 2) (src dst : Rows) (rows : Nat) : Nat → RunWrite
  | 0 => if (c.runOf (rows * src.n)).out = [] then .ok s else .wait s c
  | f + 1 =>
    let n := src.n
    let r := c.runOf (rows * n)
    match r.out with
    | [] => .ok s
    | (first, _) :: _ =>
      let low := first / n * n
      let step := match s.copyNext c r n with
        | (_, none) => Piece.wait s c
        | (false, some i) =>
          if c.req.isNone && decide (low + n ≤ i) && !(s.rowsPass e c .read ss src r.todo (i / n * n) && s.rowsPass e c .write ds dst r.out (i / n * n)) then .wait s c
          else match s.readPiece e c ss src r i with
            | .fault t v x => if low + n ≤ i then .wait t { c with req := none } else .fault t v x
            | p => p
        | (true, some i) =>
          let (p, w, _) := dst.piece i
          if (List.range w).any (fun j => (r.byteAt (p + j)).isNone) then .wait s c
          else if decide (low + n ≤ i) && !(s.rowsPass e c .read ss src r.todo (i / n * n) && s.rowsPass e c .write ds dst r.out (i / n * n)) then .wait s c
          else match s.writePiece e c ds dst r (fun j => (r.byteAt j).getD 0) i with
            | .fault t v x => if low + n ≤ i then .wait t c else .fault t v x
            | p => p
      match step with
      | .ok s c _ => copyRun s e c ss ds src dst rows f
      | .wait s c => .wait s c
      | .fault s v x => .fault s (low + r.written low n) v x

end State

/-- A space code of OPT (R435). -/
def optSpace (x : Nat) : BitVec 2 := BitVec.ofNat 2 x

/-- COPY2D's row length, rows and strides (R435). -/
def rowBytes (c : Cmd) : Nat := bits (c.arg 3) 31 0
def rowCount (c : Cmd) : Nat := bits (c.arg 3) 47 32 + 1
def srcStride (c : Cmd) : BitVec 32 := (c.arg 4).setWidth 32
def dstStride (c : Cmd) : BitVec 32 := ((c.arg 4) >>> 32).setWidth 32

/-- The scratchpad bytes an address range lies in: core, offset and length. -/
def scratchRange (e : Nat) (space : BitVec 2) (ea : Word) (n : Nat) : List (Nat × Nat × Nat) :=
  if space = spaceLocal then [(e, ea.toNat, n)]
  else if space = spacePeer then [(bits ea 27 22, bits ea 21 0, n)]
  else []

/-- The scratchpad ranges a copy command reads and writes (R143). -/
def cmdReads (e : Nat) (c : Cmd) : List (Nat × Nat × Nat) :=
  match c.code with
  | 1 => ((List.range (rowCount c)).map (fun r => scratchRange e (optSpace (c.opt % 4)) (rowAt (c.arg 1) r (srcStride c)) (rowBytes c))).flatten
  | 2 => ((List.range (fillSteps (c.arg 2))).map (fun r =>
      scratchRange e (optSpace (c.opt % 4)) (rowAt (c.arg 1) r (((c.arg 2) >>> 32).setWidth 32)) (16 * geomV c.geom))).flatten
  | _ => []
def cmdWrites (e : Nat) (c : Cmd) : List (Nat × Nat × Nat) :=
  match c.code with
  | 1 => ((List.range (rowCount c)).map (fun r => scratchRange e (optSpace (c.opt / 4 % 4)) (rowAt (c.arg 2) r (dstStride c)) (rowBytes c))).flatten
  | 3 => if c.opt % 2 = 1 then [] else scratchRange e (optSpace (c.opt / 2 % 4)) (c.arg 1) (c.arg 2).toNat
  | _ => []

/-- Two lists of ranges share a byte. -/
def anyMeet (a b : List (Nat × Nat × Nat)) : Bool := a.any (fun x => b.any (fun y => x.1 = y.1 && rangesMeet x.2.1 x.2.2 y.2.1 y.2.2))

/-- Two copy commands keep their order (R143). -/
def cmdsMeet (e : Nat) (a b : Cmd) : Bool :=
  anyMeet (cmdWrites e a) (cmdReads e b ++ cmdWrites e b) || anyMeet (cmdReads e a) (cmdWrites e b)

/-- Takes the command of a number at an engine on, when it has the code and may start or runs already, and the engine's die has power (R143, R144, R456). -/
def engineStep (eng n code : Nat) (may : State → List Cmd → Cmd → Bool) (body : State → Cmd → State) (s : State) : Result :=
  match (s.cmds eng)[n]? with
  | none => done s
  | some c =>
    if c.code = code && c.result.isNone && (c.started || may s ((s.cmds eng).take n) c) && s.powered (engineDie eng) then
      let c := { c with started := true }
      done (body (s.setCmd eng c) c)
    else done s

/-- A copy command may start: it meets no earlier one that has not ended (R143). -/
def copyMay (eng : Nat) (_ : State) (earlier : List Cmd) (c : Cmd) : Bool := earlier.all (fun x => x.result.isSome || !cmdsMeet eng x c)

/-- The first bad word of COPY2D (R430, R435). -/
def copyBad (c : Cmd) : Option Nat :=
  if bits c.header 39 4 ≠ 0 || c.opt % 4 = 3 || c.opt / 4 % 4 = 3 then some 0
  else if rowBytes c = 0 || decide (2 ^ 24 < rowBytes c) || bits (c.arg 3) 63 48 ≠ 0 then some 3
  else none

/-- COPY2D goes on (R436). -/
def execCopy2d (eng n : Nat) (s : State) : Result :=
  engineStep eng n 1 (copyMay eng) (fun s c => match copyBad c with
    | some k => s.setCmd eng (c.badArg k)
    | none =>
      let total := rowCount c * rowBytes c
      match s.copyRun eng c (optSpace (c.opt % 4)) (optSpace (c.opt / 4 % 4)) { ea := c.arg 1, stride := srcStride c, n := rowBytes c }
          { ea := c.arg 2, stride := dstStride c, n := rowBytes c } (rowCount c) (s.share.accesses total) with
      | .wait s c => s.setCmd eng c
      | .fault s k v x => s.setCmd eng (c.fault k v x)
      | .ok s => s.setCmd eng (c.ok total)) s

/-- Zeroes the bytes that are left (R435). -/
def execZeroMemory (eng n : Nat) (s : State) : Result :=
  if ((s.cmds eng)[n]?).any (fun c => c.opt % 2 = 1) then done s
  else engineStep eng n 3 (copyMay eng) (fun s c =>
    let len := (c.arg 2).toNat
    if bits c.header 39 3 ≠ 0 || c.opt / 2 % 4 = 3 then s.setCmd eng (c.badArg 0)
    else if len = 0 || decide (2 ^ 40 < len) then s.setCmd eng (c.badArg 2)
    else match s.writeRun eng c (optSpace (c.opt / 2 % 4)) (c.arg 1) len (fun _ => 0) (s.share.accesses len) with
      | .wait s c => s.setCmd eng c
      | .fault s k v x => s.setCmd eng (c.fault k v x)
      | .ok s => s.setCmd eng (c.ok len)) s

namespace State

/-- A slot of a task, on its core or where it is saved (R72). -/
def taskSlot (s : State) (uid n : Nat) : Slot :=
  match s.tidOf uid with
  | some tid => s.slot (tid / 4) n
  | none => (s.gangs.findSome? (fun g => (g.2.saved.find? (fun x => x.2.ct.uid = uid)).map (fun x => Tab.get Slot.empty n x.2.slots))).getD Slot.empty

/-- Changes a slot of a task, on its core or where it is saved. -/
def setTaskSlot (s : State) (uid n : Nat) (y : Slot) : State :=
  match s.tidOf uid with
  | some tid => s.setSlot (tid / 4) n y
  | none => s.mapSaved uid (fun x => if (Tab.find n x.slots).isSome then { x with slots := Tab.put n y x.slots } else x)

/-- Writes one k-step of a task's slot and counts it (R69, R437). -/
def fillStep (s : State) (uid n k : Nat) (lanes : List (BitVec 16)) : State :=
  let xs := (List.range 128).map (fun i => (128 * k + i, lanes.getD i 0))
  match s.tidOf uid with
  | some tid => countSteps (writeLanes s (tid / 4) n xs) (tid / 4) n k 1
  | none =>
    let x := s.taskSlot uid n
    let w := if x.written.contains k then x.written else x.written ++ [k]
    s.setTaskSlot uid n { x with data := xs.foldl (fun d e => Tab.write 0 e.1 e.2 d) x.data, written := w
                                 st := if w.length = x.ext + 1 then .ready else x.st }

/-- A fill ends: it is no longer in flight (R69). -/
def endFill (s : State) (e : Nat) (c : Cmd) (n : Nat) : State :=
  let x := s.taskSlot c.uid n
  (s.setTaskSlot c.uid n { x with fills := x.fills - 1 }).setCmd e c

end State

/-- The lanes of a k-step of `v`-bit coefficients in 16 × v bytes (R437). -/
def lanesOf (v : Nat) (bs : List Byte) : List (BitVec 16) :=
  (List.range 128).map (fun i => BitVec.ofNat 16 (leNat bs / 2 ^ (i * v) % 2 ^ v))

/-- Fills the k-steps that are left, from memory or with zeros, up to a number of accesses. A step is written once its bytes have all been
read; `out` are the steps that are left (R140, R437). -/
def fillRows (e : Nat) (s : State) (c : Cmd) (a : Word) (zero : Bool) : Nat → State
  | 0 => s.setCmd e c
  | f + 1 =>
    let n := fillSlot a
    let w := 16 * geomV c.geom
    let r := { Run.start (fillSteps a * w) with out := [(0, fillSteps a)] }
    let r := c.run.getD r
    let fill := fun (s : State) (c : Cmd) (r : Run) (k : Nat) (bs : List Byte) =>
      (s.fillStep c.uid n (fillFirst a + k) (lanesOf (geomV c.geom) bs), { c with run := some (r.wrote k 1), done := c.done + 1 })
    if fillSteps a ≤ c.done then s.endFill e (c.ok (fillSteps a)) n
    else if zero then
      let (s, c) := fill s c r ((offsetFrom s.share.offset r.out).getD 0) []
      fillRows e s c a zero f
    else match s.readPiece e c (optSpace (c.opt % 4)) { ea := c.arg 1, stride := (a >>> 32).setWidth 32, n := w } r ((offsetFrom s.share.offset r.todo).getD 0) with
      | .wait s c => s.setCmd e c
      | .fault s t x => s.endFill e (c.fault c.done t x) n
      | .ok s c p =>
        let r := c.run.getD r
        let k := p / w
        if r.todo.any (fun x => rangesMeet x.1 (x.2 - x.1) (k * w) w) then fillRows e s c a zero f
        else
          let (s, c) := fill s c r k ((r.parts.filter (fun x => x.1 / w = k)).map (fun x => x.2)).flatten
          fillRows e s c a zero f

/-- Begins a fill once the slot's readers allow it, or goes on with it (R69, R437). -/
def fillBody (e : Nat) (s : State) (c : Cmd) (a : Word) (zero : Bool) : State :=
  let n := fillSlot a
  let x := s.taskSlot c.uid n
  let v := geomV c.geom
  if c.mem ≠ [] then fillRows e s c a zero (s.share.accesses (fillSteps a * (16 * v)))
  else if x.st = .ready && x.rdrs ≠ 0 then s.setCmd e c
  else if x.st = .empty || (x.st = .filling && x.vw ≠ 0 && x.vw ≠ v) then s.endFill e (c.fault 0 (BitVec.ofNat 64 n) 0) n
  else
    let y := if x.st = .ready then { x with st := .filling, written := [], vw := v } else { x with vw := v }
    let c := { c with mem := [1] }
    fillRows e (s.setTaskSlot c.uid n y) c a zero (s.share.accesses (fillSteps a * (16 * v)))

/-- FILLTILE goes on (R437). -/
def execFilltile (eng n : Nat) (s : State) : Result :=
  engineStep eng n 2 (copyMay eng) (fun s c =>
    let a := c.arg 2
    if bits c.header 39 2 ≠ 0 || c.opt % 4 = 3 then s.endFill eng (c.badArg 0) (fillSlot a)
    else if bits a 31 24 ≠ 0 || bits a 7 6 ≠ 0 then s.endFill eng (c.badArg 2) (fillSlot a)
    else fillBody eng s c a false) s

/-- ZERO of an operand slot goes on (R437). -/
def execZeroSlot (eng n : Nat) (s : State) : Result :=
  if ((s.cmds eng)[n]?).any (fun c => c.opt % 2 = 0) then done s
  else engineStep eng n 3 (copyMay eng) (fun s c =>
    let a := c.arg 1
    if bits c.header 39 1 ≠ 0 then s.endFill eng (c.badArg 0) (fillSlot a)
    else if bits a 63 24 ≠ 0 || bits a 7 6 ≠ 0 then s.endFill eng (c.badArg 1) (fillSlot a)
    else if c.arg 2 ≠ 0 then s.endFill eng (c.badArg 2) (fillSlot a)
    else fillBody eng s c a true) s

end Sys2Proof.Machine
end

