-- ==== Sys2Proof/Machine/HostUnit.lean ====
section
/-! DEFINITION. Host window accesses: the checks of R43, the parts of R449 and accesses held for a tier (R44). -/

namespace Sys2Proof.Machine

/-- The agent of a host access: address space 0 of its interface, at the hub (R43). -/
def hostAgent (vi off : Nat) : Agent :=
  { vi := vi, asn := 0, sup := false, die := 4, core := none, uid := none, waiter := waiterHost vi off, fabric := false, host := true, stale := false }

/-- The TDISP state lets a host access or a BAR0 write through: in CONFIG_LOCKED and RUN only on the interface's IDE stream, and none in ERROR (R453). -/
def Tdisp.admits (t : Tdisp) (ide : Bool) : Bool :=
  match t with
  | .unlocked => true
  | .locked => ide
  | .run => ide
  | .error => false

/-- The parts of a host access: two when it crosses a 4 KiB boundary (R449). -/
def hostParts (off n : Nat) : List (Nat × Nat) :=
  let m := min n (4096 - off % 4096)
  if m < n then [(off, m), (off + m, n - m)] else [(off, n)]

/-- What one part of a host access meets; a wait for a tier is bounded (R44), one for a chunk or a page that moves is not (R89, R203). -/
inductive HostMet where
  | ok (s : State) (data : List Byte)
  | refused (s : State)
  | held (s : State) (tier : Bool)
  | away (s : State) (module : Nat) (elems : List FabricElem)
  deriving DecidableEq, Repr

namespace State

/-- The virtual address of a host window offset (R449). -/
def hostVa (s : State) (vi off : Nat) : Nat := ((s.vi vi).hwbase.toNat + off) % 2 ^ 56

/-- A slab-space address lies in the chunk that a move holds (R89). -/
def chunkHeld (s : State) (vi va : Nat) : Bool :=
  va / 2 ^ 48 = 0xFE && match s.asEntry 4 vi 0 with
    | .ok (_, tab, true) => (match s.slabTarget (hostAgent vi 0) tab va with
        | .error none => true
        | _ => false)
    | _ => false

/-- R43 accepts a part: its leaf has HS = 1, the permission and a loaded key slot; where a move holds its chunk, that shows once it is free. -/
def hostAccepts (s : State) (vi off : Nat) (write : Bool) : Bool :=
  let va := s.hostVa vi off
  s.chunkHeld vi va || match s.peekLeaf 4 vi 0 va with
    | none => false
    | some (_, l) => pteHs l.word && !pteFr l.word && (if write then pteWr l.word else pteRd l.word) && (Tab.find (pteSkey l.word) (s.vi vi).keys).isSome

/-- A promotion that a host access waits for has failed already (R44). -/
def hostFailed (s : State) (w : Nat) : Bool := s.dies.any (fun d => d.2.tierFails.any (fun f => f.1 = w))

/-- Forgets the failed promotions a host access waited for. -/
def forgetFails (s : State) (w : Nat) : State :=
  { s with dies := s.dies.map (fun d => (d.1, { d.2 with tierFails := d.2.tierFails.filter (fun f => f.1 ≠ w) })) }

/-- The bytes of a part of a host access as elements of a request to the new home of a page (R202); `i` is the place of its first byte. -/
def hostElems (va i n : Nat) (data : List Byte) : List FabricElem :=
  (List.range n).map (fun j => { idx := i + j, va := fullVa (va + j), n := 1, data := BitVec.ofNat 64 (data.getD j 0).toNat, cmp := 0 })

/-- Takes one part that R43 accepts: it performs on the home values, waits, is refused or forwarded (R43, R44, R153, R202); `got`
is what the new home has answered. -/
def hostPart (s : State) (vi whole off n : Nat) (data : Option (List Byte)) (got : List (Nat × BitVec 64)) : HostMet :=
  let k := if data.isSome then Kind.write else Kind.read
  match s.translateGlobal (hostAgent vi whole) k false (fullVa (s.hostVa vi off)) with
  | .ok (.here l key, s) =>
    match data with
    | some d => .ok (s.perform key l d none) []
    | none => if s.poison ≠ [] && s.poisoned l n then .refused s else .ok s ((List.range n).map (fun i => s.homeByte key (l.plus i)))
  | .ok (.away m va, s) =>
    let i := off - whole
    if data.isNone && (List.range n).all (fun j => (Tab.find (i + j) got).isSome) then
      .ok s ((List.range n).map (fun j => BitVec.ofNat 8 ((Tab.find (i + j) got).getD 0).toNat))
    else .away s m (hostElems va i n (data.getD []))
  | .ok (_, s) => .refused s
  | .error (.wait s) =>
    if s.hostFailed (waiterHost vi whole) then .refused (s.forgetFails (waiterHost vi whole))
    else .held s (s.dies.any (fun d => d.2.promos.any (fun p => p.waiters.contains (waiterHost vi whole))))
  | .error (.trap s _ _ _) => .refused s

/-- A compare-and-swap of the host, of eight aligned bytes: the old value (R43, R454). Buffered stores of the hub go first, and a page that
has moved has it performed at its new home. -/
def hostSwap (s : State) (vi off : Nat) (new expected : Word) (got : List (Nat × BitVec 64)) : HostMet :=
  match s.translateGlobal (hostAgent vi off) .atomic false (fullVa (s.hostVa vi off)) with
  | .ok (.here l key, s) =>
    match (s.awaitEgress 4 l 8).atomicAt 4 (fullVa (s.hostVa vi off)) l key 8 (fun old => amoResult 5 8 old new expected) with
    | .ok (old, s) => .ok s (bytesOf old 8)
    | .error (.wait s) => .held s false
    | .error (.trap s _ _ _) => .refused s
  | .ok (.away m va, s) =>
    match Tab.find 0 got with
    | some old => .ok s (bytesOf old 8)
    | none => .away s m [{ idx := 0, va := fullVa va, n := 8, data := new, cmp := expected }]
  | .ok (_, s) => .refused s
  | .error (.wait s) =>
    if s.hostFailed (waiterHost vi off) then .refused (s.forgetFails (waiterHost vi off))
    else .held s (s.dies.any (fun d => d.2.promos.any (fun p => p.waiters.contains (waiterHost vi off))))
  | .error (.trap s _ _ _) => .refused s

/-- Counts refused parts in REFUSE (R43, R449). -/
def countRefusals (s : State) (vi n : Nat) : State := s.setVi vi { s.vi vi with refuse := (s.vi vi).refuse + n }

/-- Completes a host read with data, or with a completer abort (R43). -/
def hostAnswer (s : State) (vi : Nat) (data : Option (List Byte)) : State :=
  s.setHub { s.hub with hostOut := s.hub.hostOut ++ [(vi, data)] }

/-- Holds a host access; for a tier, at most 8 ms of the hub's AGECLK (R44). -/
def hostHold (s : State) (h : HostHeld) : State := s.setHub { s.hub with hostHeld := s.hub.hostHeld ++ [h] }

/-- The parts of a host read, in order: the bytes, a refusal, a wait, or the bytes to be read at the new home of a page. -/
def hostReadParts (s : State) (vi whole : Nat) (got : List (Nat × BitVec 64)) : List (Nat × Nat) → HostMet
  | [] => .ok s []
  | p :: ps =>
    match s.hostPart vi whole p.1 p.2 none got with
    | .ok s d => match hostReadParts s vi whole got ps with
      | .ok s rest => .ok s (d ++ rest)
      | x => x
    | .away s m es => match hostReadParts s vi whole got ps with
      | .ok s _ => .away s m es
      | .away s _ rest => .away s m (es ++ rest)
      | x => x
    | x => x

/-- What a host access that R43 accepts meets: one part of a write, a compare-and-swap, or a whole read. -/
def hostMeets (s : State) (h : HostHeld) (got : List (Nat × BitVec 64)) : HostMet :=
  match h.data, h.cas with
  | some d, some x => s.hostSwap h.vi h.off (wordOf d) x got
  | some d, none => s.hostPart h.vi h.off h.off h.n (some d) got
  | none, _ => s.hostReadParts h.vi h.off got (hostParts h.off h.n)

/-- The number of parts of a host access that R43 refuses; a compare-and-swap needs both permissions. -/
def hostBad (s : State) (h : HostHeld) : Nat :=
  match h.data with
  | some _ => if s.hostAccepts h.vi h.off true && (h.cas.isNone || s.hostAccepts h.vi h.off false) then 0 else 1
  | none => ((hostParts h.off h.n).filter (fun p => !s.hostAccepts h.vi p.1 false)).length

/-- A host access is refused for `n` of its parts: a write is discarded, any other access gets a completer abort (R43, R449). -/
def hostRefuse (s : State) (h : HostHeld) (n : Nat) : State :=
  let s := s.countRefusals h.vi n
  if h.data.isSome && h.cas.isNone then s else s.hostAnswer h.vi none

/-- The access that a host access makes at the new home of a page that has moved (R202). -/
def hostKind (h : HostHeld) : FabricKind := if h.cas.isSome then .amo 5 else if h.data.isSome then .store else .load

/-- A host access goes as far as it can once nothing of its window stands before it; one that has been held for a tier for 8 ms is
refused (R44). -/
def hostGo (s : State) (h : HostHeld) (got : List (Nat × BitVec 64)) : State :=
  let bad := s.hostBad h
  if bad ≠ 0 then s.hostRefuse h bad
  else if h.deadline.any (fun t => decide (t ≤ (s.die 4).ageclk)) then s.hostRefuse h 1
  else match s.hostMeets h got with
    | .ok s d => if h.data.isSome && h.cas.isNone then s else s.hostAnswer h.vi (some d)
    | .refused s => s.hostRefuse h 1
    | .held s tier => s.hostHold { h with deadline := if tier then some (h.deadline.getD ((s.die 4).ageclk + 8000)) else none }
    | .away s m elems =>
      let (u, s) := s.freshId
      let (i, s) := s.sendRequest h.vi u 256 m (hostKind h) elems true false false 0
      s.hostHold { h with req := some i, deadline := none }

/-- An access that the host makes on an interface's IDE stream, for which the stream's key has been delivered (R453). -/
def onStream (s : State) (vi : Nat) (ide : Bool) : Bool := ide && (s.vi vi).ideKey.isSome

/-- Tries a host access: it waits behind an earlier write of its window, and for the new home to which it was forwarded (R153, R202). The
TDISP state may turn it away while it is held (R453). -/
def hostTry (s : State) (h : HostHeld) : State :=
  match h.req.bind (fun i => s.request i) with
  | none =>
    if !(s.vi h.vi).tdisp.admits (s.onStream h.vi h.ide) then s.hostRefuse h (if h.data.isSome then 1 else (hostParts h.off h.n).length)
    else if s.hub.hostHeld.any (fun x => x.vi = h.vi && x.data.isSome) then s.hostHold h
    else s.hostGo { h with req := none } []
  | some r =>
    if s.hub.hostHeld.any (fun x => x.vi = h.vi && x.data.isSome) then s.hostHold h
    else
      let free := s.dropRequest r.id
      match r.reply with
      | some (.done vals) => if h.data.isSome && h.cas.isNone then free else free.hostGo { h with req := none } vals
      | some (.refused _ _ _ _ _) => free.hostRefuse h 1
      | none => if r.expired then free.hostRefuse h 1 else s.hostHold h

/-- A host write of a window offset: each part alone (R43, R449). -/
def hostWrite (s : State) (vi off : Nat) (data : List Byte) (ide : Bool) : State :=
  (hostParts off data.length).foldl (fun s p =>
    s.hostTry { vi := vi, off := p.1, n := p.2, data := some ((data.drop (p.1 - off)).take p.2), cas := none, ide := ide, deadline := none, req := none }) s

/-- A host read of a window offset: the whole of it or a completer abort (R43, R449). -/
def hostRead (s : State) (vi off n : Nat) (ide : Bool) : State :=
  s.hostTry { vi := vi, off := off, n := n, data := none, cas := none, ide := ide, deadline := none, req := none }

/-- A compare-and-swap of the host at a window offset (R454). -/
def hostCas (s : State) (vi off : Nat) (expected new : Word) (ide : Bool) : State :=
  s.hostTry { vi := vi, off := off, n := 8, data := some (bytesOf new 8), cas := some expected, ide := ide, deadline := none, req := none }

/-- Tries every held host access again, in the order in which the hub received them (R44, R153). -/
def retryHost (s : State) : State :=
  s.hub.hostHeld.foldl (fun s h => s.hostTry h) (s.setHub { s.hub with hostHeld := [] })

end State

end Sys2Proof.Machine
end

