-- ==== Sys2Proof/Machine/PageEngine.lean ====
section
/-! DEFINITION. The page engines: slabs and their moves (R86 to R91), tiers (R94 to R99), aging and park records (R100 to R109), prefix records (R110, R111), and the commands of R438. -/

namespace Sys2Proof.Machine

/-- The slab a command names, if it names one (R438). -/
def Cmd.slab (c : Cmd) : Option Nat := if decide (0x10 ≤ c.code) && decide (c.code ≤ 0x14) then some (c.arg 1).toNat else none

/-- A page or collective command may start: earlier commands of its thread have started, and earlier ones of its slab have ended (R144). -/
def pageMay (_ : State) (earlier : List Cmd) (c : Cmd) : Bool :=
  earlier.all (fun x => (x.uid ≠ c.uid || x.started)
    && (c.slab.isNone || x.slab ≠ c.slab || x.vi ≠ c.vi || x.asn ≠ c.asn || x.result.isSome))

/-- The first address of a slab (R29). -/
def slabVa (id : Nat) : Nat := 0xFE * 2 ^ 48 + id * 2 ^ 34

/-- The reserved bits of a header, and OPT where the command names none (R430). -/
def headerBad (c : Cmd) (optBits : Nat) : Bool := bits c.header 39 optBits ≠ 0

namespace State

/-- The address of a command's slab descriptor, or the XINFO reason for which there is none (R9, R10, R83). -/
def cmdSlabAt (s : State) (e : Nat) (c : Cmd) (id : Nat) : Except Nat Nat :=
  match s.asEntry (engineDie e) c.vi c.asn with
  | .error r => .error r
  | .ok (_, tab, sl) => if !sl then .error 0 else match hbmAddr (tab + 32 * id) with
    | some a => .ok a
    | none => .error 3

/-- A command that names slab `id` acts on its descriptor at its home (R144), or faults for want of one. -/
def withSlab (s : State) (e : Nat) (c : Cmd) (id : Nat) (f : Nat → SlabDesc → State) : State :=
  match s.cmdSlabAt e c id with
  | .error r => s.setCmd e (c.fault 0 (fullVa (slabVa id)) (xinfoOf r 3 .read))
  | .ok a => f a (s.homeSlab (engineDie e) c.vi a)

/-- The cached descriptors of a slab go (R86, R87). -/
def dropSlab (s : State) (vi asn id : Nat) : State :=
  s.dropTlb (fun _ => true) (fun x => x.vi = vi && x.asn = asn && x.level = 4 && x.page = id)

/-- No store that has issued is still on its way to a range (R89, R99). -/
def rangeQuiet (s : State) (l : Loc) (n : Nat) : Bool :=
  [0, 1, 2, 3, 4].all (fun d => !s.egressHolds d l n)
  && s.threads.all (fun t => t.2.pend.all (fun p => !p.loc.meets p.data.length l n))
  && s.vthreads.all (fun t => t.2.pend.all (fun p => !p.loc.meets p.data.length l n))

end State

/-- The first bad word of SLABNEW (R84, R438). -/
def slabnewBad (c : Cmd) : Option Nat :=
  let base := c.arg 2
  let sz := bits (c.arg 3) 5 0
  let tokb := bits (c.arg 3) 31 16
  let szOk := decide (16 ≤ sz) && decide (sz ≤ 34)
  if headerBad c 0 then some 0
  else if decide (16383 < (c.arg 1).toNat) then some 1
  else if base.toNat % 2 ^ 16 ≠ 0 || !canonical base || (szOk && !slabRegionOk (base.toNat % 2 ^ 56) sz) then some 2
  else if !szOk || bits (c.arg 3) 15 6 ≠ 0 || bits (c.arg 3) 63 32 ≠ 0 || tokb % 64 ≠ 0 then some 3
  else if (c.arg 4).toNat % 8 ≠ 0 || bits (c.arg 4) 55 48 = 0xFE || (tokb = 0 && c.arg 4 ≠ 0) then some 4
  else none

/-- SLABNEW (R87, R438). -/
def execSlabnew (eng n : Nat) (s : State) : Result :=
  engineStep eng n 0x10 pageMay (fun s c =>
    match slabnewBad c with
    | some k => s.setCmd eng (c.badArg k)
    | none => s.withSlab eng c (c.arg 1).toNat (fun a d =>
      if d.v then s.setCmd eng (c.denied 1)
      else
        let d : SlabDesc := { w0 := slabWord0 true false 0 (bits (c.arg 3) 5 0) (c.arg 2).toNat, w1 := 0, w2 := c.arg 4
                              w3 := BitVec.ofNat 64 (bits (c.arg 3) 31 16 * 2 ^ 32) }
        (s.putSlab (engineDie eng) c.vi a d).setCmd eng (c.ok 0))) s

/-- SLABFREE (R87, R438): it ends once the accesses made through the removed descriptor have, as TLBINV.pg.m would (R37). -/
def execSlabfree (eng n : Nat) (s : State) : Result :=
  engineStep eng n 0x12 pageMay (fun s c =>
    let id := (c.arg 1).toNat
    let every := fun (_ : Nat) => true
    if c.done = 1 then (if s.stillOut c.mem then s else s.setCmd eng (c.ok 0))
    else if headerBad c 0 then s.setCmd eng (c.badArg 0)
    else if 16383 < id then s.setCmd eng (c.badArg 1)
    else s.withSlab eng c id (fun a d =>
      if !d.v || d.malformed || d.mv ≠ 0 || d.pk then s.setCmd eng (c.denied 1)
      else
        let s := s.homeRewrite (engineDie eng) (s.key0 c.vi) a (d.w0 &&& ~~~1#64)
        let s := (s.dropTranslations c.vi every (fun x => x.asn = c.asn && x.level = 4 && x.page = id)).flushCores c.vi every
        let ids := s.inFlight c.vi every
        s.setCmd eng (if ids = [] then c.ok 0 else { c with done := 1, mem := ids }))) s

/-- Every 64 KiB page of a region has a valid leaf with RD = WR = U = 1 (R88). -/
def regionMapped (s : State) (die vi asn base n : Nat) : Bool :=
  (List.range (n / 2 ^ 16)).all (fun i => match s.peekLeaf die vi asn ((base + i * 2 ^ 16) % 2 ^ 56) with
    | some (_, l) => pteRd l.word && pteWr l.word && pteU l.word
    | none => false)

/-- Why a settled slab does not grow: a DENIED reason of SLABGROW (R88, R438). -/
def growDenied (s : State) (e : Nat) (c : Cmd) (d : SlabDesc) : Option Nat :=
  let nb := c.arg 2
  let b := nb.toNat % 2 ^ 56
  if !d.v || d.malformed || d.mv ≠ 0 || d.pk || d.sz = 34 then some 1
  else if nb.toNat % 2 ^ 16 ≠ 0 then some 2
  else if !canonical nb || !slabRegionOk b (d.sz + 1) || rangesMeet d.base (2 ^ d.sz) b (2 ^ (d.sz + 1)) then some 3
  else if !regionMapped s (engineDie e) c.vi c.asn b (2 ^ (d.sz + 1)) then some 4
  else none

/-- The SLABGROWs among some commands that could start and have not (R90). -/
def growsBefore (s : State) (earlier : List Cmd) : Nat :=
  ((List.range earlier.length).zip earlier).foldl (fun n x =>
    if x.2.code = 0x11 && !x.2.started && x.2.result.isNone && pageMay s (earlier.take x.1) x.2 then n + 1 else n) 0

/-- A halted move at a descriptor goes on, and its engine keeps it no more (R87). -/
def State.dropHalted (s : State) (vi a : Nat) : State :=
  { s with dies := s.dies.map (fun d => (d.1, { d.2 with halted := d.2.halted.filter (fun m => !(m.vi = vi && m.desc = a)) })) }

/-- SLABGROW (R87, R88, R90): it starts or resumes a move; while sixteen moves run it waits, and starts in command order. -/
def execSlabgrow (eng n : Nat) (s : State) : Result :=
  let room := fun (s : State) (l : List Cmd) (c : Cmd) =>
    pageMay s l c && decide ((s.die (engineDie eng)).moves.length + growsBefore s l < 16)
  engineStep eng n 0x11 room (fun s c =>
    let id := (c.arg 1).toNat
    let die := engineDie eng
    if (s.die die).moves.any (fun m => m.cmd = c.id) then s
    else if headerBad c 0 then s.setCmd eng (c.badArg 0)
    else if 16383 < id then s.setCmd eng (c.badArg 1)
    else s.withSlab eng c id (fun a d =>
      let start := fun (s : State) (sz newbase cursor : Nat) =>
        let m : Move := { cmd := c.id, vi := c.vi, asn := c.asn, slab := id, desc := a, base := d.base, newbase := newbase, sz := sz
                          cursor := cursor, lenptr := d.lenptr, tokb := d.tokb, held := false }
        let s := (s.putSlab die c.vi a (m.view 1)).dropSlab c.vi c.asn id
        s.setDie die { s.die die with moves := (s.die die).moves ++ [m] }
      if d.v && !d.malformed && d.mv = 2 then
        if !canonical (c.arg 2) || (c.arg 2).toNat % 2 ^ 56 ≠ d.newbase then s.setCmd eng (c.denied 5)
        else start (s.dropHalted c.vi a) d.sz d.newbase d.cursor
      else match growDenied s eng c d with
        | some r => s.setCmd eng (c.denied r)
        | none => start s (d.sz + 1) ((c.arg 2).toNat % 2 ^ 56) 0)) s

namespace State

/-- Accesses that waited at a target or for the host are tried again. -/
def retryWaiting (s : State) : State := (s.retryHeld (fun p => p.entry.isNone && p.fault.isNone)).retryHost

/-- The place of an ordinary page's byte, without effects. -/
def placeOf (s : State) (die vi asn va : Nat) : Option Loc :=
  (s.peekLeaf die vi asn va).bind (fun p =>
    if pteFr p.2.word then some (.remote (bits p.2.word 55 46) (s.vi vi).tag p.1)
    else if pteTier p.2.word ≠ 0 then none
    else (hbmAddr (pteFrame p.2.word + p.1 % 2 ^ pageBits p.2.level)).map (fun a => .hbm a))

/-- Every access routed to an old chunk has performed (R89). -/
def chunkQuiet (s : State) (die : Nat) (m : Move) : Bool :=
  match s.placeOf die m.vi m.asn ((m.base + m.cursor * 4096) % 2 ^ 56) with
  | none => true
  | some l => s.rangeQuiet l 4096 && s.hub.reqs.all (fun r => r.reply.isSome || r.expired || r.elems.all (fun e =>
      !(Loc.remote r.module r.tag (e.va.toNat % 2 ^ 56)).meets e.n l 4096))

/-- Changes a move of a die, or ends it. -/
def setMove (s : State) (die : Nat) (m : Move) : State :=
  s.setDie die { s.die die with moves := (s.die die).moves.map (fun x => if x.cmd = m.cmd then m else x) }
def endMove (s : State) (die : Nat) (m : Move) : State :=
  s.setDie die { s.die die with moves := (s.die die).moves.filter (fun x => x.cmd ≠ m.cmd) }

/-- The copy of a chunk faults: the slab is HALTED with its CURSOR, the chunk is released, and the command ends in FAULT (R87). -/
def haltMove (s : State) (die : Nat) (m : Move) (c : Cmd) (v x : Word) : State :=
  let s := (s.putSlab die m.vi m.desc (m.view 2)).endMove die m
  let s := s.setDie die { s.die die with halted := (s.die die).halted ++ [{ m with held := false }] }
  s.setCmd (64 + die) (c.fault (m.cursor * 4096) v x)

/-- A copied chunk moves CURSOR on, and the last one settles the slab; the engine writes its own descriptor whole (R86, R87). -/
def advanceMove (s : State) (die : Nat) (m : Move) (c : Cmd) : State :=
  if (m.cursor + 1) * 4096 = 2 ^ (m.sz - 1) then
    ((s.putSlab die m.vi m.desc m.settled).endMove die m).setCmd (64 + die) (c.ok 0)
  else
    let m : Move := { m with cursor := m.cursor + 1, held := false }
    ((s.putSlab die m.vi m.desc (m.view 1)).setMove die m).setCmd (64 + die) { c with run := none, req := none }

end State

/-- A move copies its next chunk: it is held once the accesses routed to it have performed, and released when all of it has
performed at the new place (R89). -/
def execSlabChunkCopied (die n : Nat) (s : State) : Result :=
  let e := 64 + die
  match (if s.powered die then (s.die die).moves[n]? else none) with
  | none => done s
  | some m =>
    match (s.cmds e).find? (fun c => c.id = m.cmd) with
    | none => done s
    | some c =>
      if !m.held && !s.chunkQuiet die m then done s
      else
        let m := { m with held := true }
        let s := s.setMove die m
        let old := fullVa ((m.base + m.cursor * 4096) % 2 ^ 56)
        let new := fullVa ((m.newbase + m.cursor * 4096) % 2 ^ 56)
        let halt := fun (s : State) (v x : Word) => done (s.haltMove die m c v x).retryWaiting
        let finishUp := fun (s : State) (c : Cmd) =>
          if s.unperformed c.id true then done (s.setCmd e c) else done (s.advanceMove die m c).retryWaiting
        match s.copyRun e c spaceGlobal spaceGlobal (oneRow old 4096) (oneRow new 4096) 1 (s.share.accesses 4096) with
        | .wait s c => done (s.setCmd e c)
        | .fault s _ v x => halt s v x
        | .ok s => finishUp s { c with run := some { todo := [], parts := [], out := [] }, req := none }

/-- The bytes of a 64-bit word, little-endian. -/
def wordBytes (w : Word) : List Byte := bytesOf w 8

/-- The key of a prefix record's MAC (R110). -/
def prefixKey (s : State) (vi : Nat) : List Byte :=
  let v := s.vi vi
  hkdf384 (v.session.getD (Config.absentSecret vi)) Config.prefixSecret
    (wordBytes v.tenant ++ [0x44, 0x37, 0x20, 0x70, 0x72, 0x65, 0x66, 0x69, 0x78])

/-- A prefix record without its MAC (R110). -/
def prefixBody (model tenant : Word) (tokens tokb : Nat) (wdigest sdigest : List Byte) : List Byte :=
  wordBytes 1 ++ wordBytes model ++ wordBytes tenant ++ wordBytes (BitVec.ofNat 64 (tokens % 2 ^ 32 + tokb % 2 ^ 16 * 2 ^ 32))
    ++ wdigest ++ sdigest ++ List.replicate 80 0

/-- A slab a prefix command uses is valid; otherwise the fault of R85. -/
def usableSlab (s : State) (e : Nat) (c : Cmd) (d : SlabDesc) (f : State) : State :=
  let bad := fun (r : Nat) => s.setCmd e (c.fault 0 (fullVa (slabVa (c.arg 1).toNat)) (xinfoOf r 3 .read))
  if !d.v then bad 0 else if d.malformed then bad 1 else f

/-- EXPORT: the slab's bytes are read once and digested, then the weights digest is read and the record written (R110, R111). -/
def execExport (eng n : Nat) (s : State) : Result :=
  engineStep eng n 0x13 pageMay (fun s c =>
    let id := (c.arg 1).toNat
    let tokens := (c.arg 4).toNat
    if headerBad c 0 then s.setCmd eng (c.badArg 0)
    else if 16383 < id then s.setCmd eng (c.badArg 1)
    else if (c.arg 2).toNat % 256 ≠ 0 then s.setCmd eng (c.badArg 2)
    else s.withSlab eng c id (fun _ d => usableSlab s eng c d (
      let total := tokens * d.tokb
      if decide (2 ^ 32 ≤ tokens) || decide (2 ^ d.sz < total) then s.setCmd eng (c.badArg 4)
      else
        let write := fun (s : State) (c : Cmd) (rec_ : List Byte) =>
          match s.writeRun eng c spaceGlobal (c.arg 2) 256 (fun i => rec_.getD i 0) (s.share.accesses 256) with
          | .wait s c => s.setCmd eng { c with mem := [2], buf := rec_ }
          | .fault s _ v x => s.setCmd eng (c.fault total v x)
          | .ok s => s.setCmd eng (c.ok total)
        let digest := fun (s : State) (c : Cmd) (sd : List Byte) =>
          match s.readRun eng c spaceGlobal (c.arg 5) 48 (s.share.accesses 48) with
          | .wait s c => s.setCmd eng { c with mem := [1], buf := sd }
          | .fault s _ v x => s.setCmd eng (c.fault total v x)
          | .ok s wd =>
            let body := prefixBody (c.arg 3) (s.vi c.vi).tenant tokens d.tokb wd sd
            write s { c with run := none, req := none } (body ++ hmac384 (prefixKey s c.vi) body)
        match c.mem with
        | [2] => write s c c.buf
        | [1] => digest s c c.buf
        | _ => match s.readRun eng c spaceGlobal (fullVa (slabVa id)) total (s.share.accesses total) with
          | .wait s c => s.setCmd eng c
          | .fault s k v x => s.setCmd eng (c.fault k v x)
          | .ok s b => digest s { c with run := none, req := none } (sha384 b)))) s

/-- The fields of a record as IMPORT reads it (R110). -/
def recField (r : List Byte) (off n : Nat) : List Byte := (r.drop off).take n
def recWordAt (r : List Byte) (off : Nat) : Word := wordOf (recField r off 8)

/-- The first of the refusals 1 to 5 of R111 that a record meets. -/
def importRefused (s : State) (c : Cmd) (r wd : List Byte) : Option Nat :=
  if recWordAt r 0 ≠ 1 || bits (recWordAt r 0x18) 63 48 ≠ 0 || (recField r 0x80 80).any (· ≠ 0) then some 1
  else if recField r 0xD0 48 ≠ hmac384 (prefixKey s c.vi) (recField r 0 0xD0) then some 2
  else if recWordAt r 0x10 ≠ (s.vi c.vi).tenant then some 3
  else if recWordAt r 8 ≠ c.arg 3 then some 4
  else if recField r 0x20 48 ≠ wd then some 5
  else none

/-- A command refused with a reason (R434). -/
def Cmd.refusedFor (c : Cmd) (r : Nat) : Cmd := c.ends 2 r (BitVec.ofNat 64 r) 0

/-- IMPORT: record, weights digest, bytes, copy, and either the length word or zeros (R111). Its phases are 0 and 1 reading the
record and the digest, 2 reading the bytes, 3 writing them, 4 the length word, and 5 zeroing after a refusal. -/
def execImport (eng n : Nat) (s : State) : Result :=
  engineStep eng n 0x14 pageMay (fun s c =>
    let id := (c.arg 1).toNat
    if headerBad c 0 then s.setCmd eng (c.badArg 0)
    else if 16383 < id then s.setCmd eng (c.badArg 1)
    else s.withSlab eng c id (fun _ d => usableSlab s eng c d (
      let head := c.buf.take 304
      let tokens := (recWordAt head 0x18).toNat % 2 ^ 32
      let tokb := (recWordAt head 0x18).toNat / 2 ^ 32 % 2 ^ 16
      let total := tokens * tokb
      let dst := fullVa (slabVa id)
      let length := fun (s : State) (c : Cmd) =>
        if s.unperformed c.id false then s.setCmd eng { c with mem := [4] }
        else if d.lenptr = 0 then s.setCmd eng (c.ok 0)
        else match s.writeRun eng c spaceGlobal d.lenptr 8 (fun i => (wordBytes (BitVec.ofNat 64 tokens)).getD i 0) (s.share.accesses 8) with
          | .wait s c => s.setCmd eng { c with mem := [4] }
          | .fault s _ v x => s.setCmd eng (c.fault total v x)
          | .ok s => s.setCmd eng (c.ok 0)
      let zero := fun (s : State) (c : Cmd) (reason : Nat) =>
        match s.writeRun eng c spaceGlobal dst total (fun _ => 0) (s.share.accesses total) with
        | .wait s c => s.setCmd eng { c with mem := [5, reason] }
        | .fault s _ v x => s.setCmd eng (c.fault total v x)
        | .ok s => s.setCmd eng (c.refusedFor reason)
      let put := fun (s : State) (c : Cmd) =>
        let data := c.buf.drop 304
        match s.writeRun eng c spaceGlobal dst total (fun i => data.getD i 0) (s.share.accesses total) with
        | .wait s c => s.setCmd eng { c with mem := [3] }
        | .fault s k v x => s.setCmd eng (c.fault k v x)
        | .ok s =>
          let c := { c with run := none }
          if sha384 data ≠ recField head 0x50 48 then zero s c 6
          else if tokb ≠ d.tokb then zero s c 7
          else length s c
      let copy := fun (s : State) (c : Cmd) (total : Nat) =>
        match s.readRun eng c spaceGlobal (Config.importSource (c.arg 2)) total (s.share.accesses total) with
        | .wait s c => s.setCmd eng { c with mem := [2] }
        | .fault s k v x => s.setCmd eng (c.fault k v x)
        | .ok s b => s.setCmd eng { c with mem := [3], buf := c.buf.take 304 ++ b, req := none, run := none }
      let digest := fun (s : State) (c : Cmd) (r : List Byte) =>
        match s.readRun eng c spaceGlobal (c.arg 4) 48 (s.share.accesses 48) with
        | .wait s c => s.setCmd eng { c with mem := [1], buf := r }
        | .fault s _ v x => s.setCmd eng (c.fault 0 v x)
        | .ok s wd =>
          let total := (recWordAt r 0x18).toNat % 2 ^ 32 * ((recWordAt r 0x18).toNat / 2 ^ 32 % 2 ^ 16)
          match importRefused s c r wd with
          | some x => s.setCmd eng (c.refusedFor x)
          | none => if 2 ^ d.sz < total then s.setCmd eng (c.refusedFor 7) else copy s { c with buf := r ++ wd, req := none, run := none } total
      match c.mem with
      | [1] => digest s c (c.buf.take 256)
      | [2] => copy s c total
      | [3] => put s c
      | [4] => length s c
      | [5, reason] => zero s c reason
      | _ => match s.readRun eng c spaceGlobal (c.arg 2) 256 (s.share.accesses 256) with
        | .wait s c => s.setCmd eng c
        | .fault s _ v x => s.setCmd eng (c.fault 0 v x)
        | .ok s r => digest s { c with run := none, req := none } r))) s

namespace State

/-- The leaf that a tier command's address has, with the ordinary address, or its fault (R35, R438). -/
def tierLeaf (s : State) (e : Nat) (c : Cmd) (ea : Word) : Except Stop (Nat × Leaf) :=
  let bad := fun (x : BitVec 6) (r lv : Nat) => (.error (.trap s x ea (some (xinfoOf r lv .read))) : Except Stop (Nat × Leaf))
  let va := ea.toNat % 2 ^ 56
  let walk := fun (root t : Nat) =>
    if decide (0xFB ≤ t / 2 ^ 48 ∧ t / 2 ^ 48 ≤ 0xFD) then bad causePageNotPresent 0 3
    else match s.walkFrom (engineDie e) (s.key0 c.vi) (fun _ => none) t 4 root with
      | .error (lv, r) => bad causePageNotPresent r lv
      | .ok l =>
        if !pteFr l.word && (Tab.find (pteSkey l.word) (s.vi c.vi).keys).isNone then bad causeSeal 5 l.level
        else .ok (t, l)
  if !canonical ea then bad causeCanonical 0 0
  else match s.asEntry (engineDie e) c.vi c.asn with
    | .error r => bad causePageNotPresent r 3
    | .ok (root, tab, sl) =>
      if va / 2 ^ 48 = 0xFE then
        if !sl then bad causePageNotPresent 0 3
        else match s.slabTarget (cmdAgent e c) tab va with
          | .error none => .error (.wait s)
          | .error (some (x, lv, r)) => bad x r lv
          | .ok (t, _) => walk root (t % 2 ^ 56)
      else walk root va

end State

/-- PROMOTE (R99, R438). -/
def execPromote (eng n : Nat) (s : State) : Result :=
  engineStep eng n 0x15 pageMay (fun s c =>
    let ea := c.arg 1
    if headerBad c 0 then s.setCmd eng (c.badArg 0)
    else if ea.toNat % 2 ^ 16 ≠ 0 then s.setCmd eng (c.badArg 1)
    else match s.tierLeaf eng c ea with
      | .error (.wait s) => s.setCmd eng c
      | .error (.trap s _ v x) => s.setCmd eng (c.fault 0 v (x.getD 0))
      | .ok (va, l) =>
        if pteFr l.word || pteTier l.word = 0 then s.setCmd eng (c.ok 0)
        else match s.meetTier (engineDie eng) (waiterCmd c.id) c.vi c.asn (va / 2 ^ pageBits l.level * 2 ^ pageBits l.level) l.at_ l.word with
          | (.fails r, s) => s.setCmd eng (c.fault 0 ea (xinfoOf r l.level .read))
          | (.waits, s) => s.setCmd eng c
          | (.proceeds, s) => s.setCmd eng (c.ok 0)) s

namespace State

/-- The regions a demotion that is in flight will charge. -/
def demoCharges (s : State) (d : Demo) : List Nat :=
  if State.demoFromHbm d then ((s.chain d.vi d.region).getD []).map (fun x => x.1)
  else ((s.storedOf d.vi d.asn d.va d.old).map (fun e => e.2.charged)).getD []

/-- No region among some would pass its effective quota of a tier by one more page, demotions in flight counted (R95). -/
def quotaRoom (s : State) (vi : Nat) (regions : List Nat) (flash : Bool) : Bool :=
  regions.all (fun x =>
    let coming := (s.dies.map (fun d => (d.2.demos.filter (fun e => e.vi = vi && e.flash = flash && (s.demoCharges e).contains x)).length)).foldl (· + ·) 0
    let used := if flash then (s.useOf vi x).flash else (s.useOf vi x).cxl
    match s.chain vi x with
    | none => false
    | some c => decide (used + coming + 1 ≤ effective (if flash then 7 else 6) c))

/-- The regions a page is charged to when it leaves HBM for a region, or those that pay for it already (R95). -/
def chargedFor (s : State) (vi asn va : Nat) (leaf : Word) (region : Nat) : Option (List Nat) :=
  if pteTier leaf = 0 then (s.chain vi region).map (fun c => c.map (fun x => x.1))
  else (s.storedOf vi asn va leaf).map (fun e => e.2.charged)

/-- Demotion steps 1 and 2: the leaf takes the destination tier and a reserved handle, and the translation goes (R99). -/
def startDemo (s : State) (die vi asn va : Nat) (l : Leaf) (flash : Bool) (rec_ cmd : Option Nat) (region : Nat) : State :=
  let (i, s) := s.freshId
  let h := if Config.handle i = 0 then 1 else (Config.handle i).toNat
  let new := pteMove l.word (if flash then 2 else 1) h
  match s.leafCas die vi l.at_ l.word new with
  | none => s
  | some s =>
    let d : Demo := { vi := vi, asn := asn, va := va, at_ := l.at_, old := l.word, new := pteNoAd new, page := i, flash := flash, rec_ := rec_, cmd := cmd, region := region }
    s.setDie die { s.die die with demos := (s.die die).demos ++ [d] }

/-- A page belongs to a record in PROMOTING (R438). -/
def inPromoting (s : State) (vi asn va : Nat) : Bool :=
  s.recs.any (fun r => r.2.vi = vi && r.2.asn = asn && r.2.st = .promoting && r.2.pages.any (fun p => p.2 = va))

end State

/-- A discarded page has moved on from the CXL tier to flash; it keeps no contents there either (R94). -/
def State.moveDiscarded (s : State) (vi asn va : Nat) : State :=
  let f := fun (p : StoredPage) => if p.vi = vi && p.asn = asn && p.va = va && p.discarded then { p with flash := true } else p
  { s with store := s.store.map (fun e => (e.1, f e.2)) }

/-- DEMOTE (R95, R99, R438); it has ended when its demotion has, or was aborted. -/
def execDemote (eng n : Nat) (s : State) : Result :=
  engineStep eng n 0x16 pageMay (fun s c =>
    let ea := c.arg 1
    let flash := c.opt % 2 = 1
    let die := engineDie eng
    if s.dies.any (fun d => d.2.demos.any (fun e => e.cmd = some c.id)) then s
    else if headerBad c 1 then s.setCmd eng (c.badArg 0)
    else if ea.toNat % 2 ^ 16 ≠ 0 then s.setCmd eng (c.badArg 1)
    else match s.tierLeaf eng c ea with
      | .error (.wait s) => s.setCmd eng c
      | .error (.trap s _ v x) => s.setCmd eng (c.fault 0 v (x.getD 0))
      | .ok (va, l) =>
        let w := l.word
        if !pteFr w && pteTier w = (if flash then 2 else 1) then s.setCmd eng (c.ok 0)
        else if ptePin w || pteDl w || pteFr w || l.level ≠ 0 then s.setCmd eng (c.denied 1)
        else if pteTier w ≠ 2 && !((s.chargedFor c.vi c.asn va w c.region).any (fun rs => s.quotaRoom c.vi rs flash)) then s.setCmd eng (c.denied 2)
        else if s.inPromoting c.vi c.asn va then s.setCmd eng (c.denied 3)
        else if pteTier w = 0 && (s.returnRoom die c.vi).isNone then s.setCmd eng (c.denied 4)
        else if pteTier w = 2 then s.setCmd eng (c.denied 6)
        else if pteTier w = 1 && bits w 55 16 = 0 then
          match s.leafCas die c.vi l.at_ w (pteMove w 2 0) with
          | some s => (s.moveDiscarded c.vi c.asn va).setCmd eng (c.ok 0)
          | none => s.setCmd eng c
        else if (s.promoOf c.vi l.at_).isSome || (s.demoOf c.vi l.at_).isSome || (pteTier w = 0 && s.returnRoom die c.vi = some false) then s.setCmd eng c
        else (s.setCmd eng c).startDemo die c.vi c.asn va l flash none (some c.id) c.region) s

namespace State

/-- Bytes of a frame that are not zero, as plaintext by offset. -/
def frameData (s : State) (key : BitVec 256) (frame : Nat) : Memory :=
  ((List.range (2 ^ 16)).map (fun i => (i, s.hbmByte key (frame + i)))).filter (fun p => p.2 ≠ 0)

/-- Counts a demotion in the record it aged in (R101). -/
def countDemotion (s : State) (rec_ : Option Nat) : State :=
  match rec_.bind (fun n => (s.rec? n).map (fun r => (n, r))) with
  | some (n, r) => (s.setRec n { r with demoted := r.demoted + 1 }).putCounters n
  | none => s

end State

/-- A demotion ends: the page stands in its tier, encrypted, and its frame goes to the return ring (R95, R97, R99). The pages
of one record end in the order in which they began (R100). -/
def execDemotionDone (die n : Nat) (s : State) : Result :=
  match (if s.powered die then (s.die die).demos[n]? else none) with
  | none => done s
  | some d =>
    let first := d.rec_.isNone || ((s.die die).demos.take n).all (fun e => e.rec_ ≠ d.rec_)
    let frame := (hbmAddr (pteFrame d.old)).getD 0
    let fromHbm := State.demoFromHbm d
    if !first || (fromHbm && (s.returnRoom die d.vi ≠ some true || !s.rangeQuiet (.hbm frame) (2 ^ 16))) then done s
    else
      let gone := fun (s : State) (word : Word) =>
        let s := s.setDie die { s.die die with demos := (s.die die).demos.filter (· ≠ d) }
        match d.cmd with
        | some c => s.setResult c { word := word, tval := 0, xinfo := 0 }
        | none => s
      let aborted := fun (s : State) => match s.abortDemo die d with
        | some s => s
        | none => gone (if fromHbm then s.returnFrame die d.vi (pteFrame d.old) else s) 0x0600_0000_0000_0005
      let now := (s.die die).ageclk
      if fromHbm then
        match Tab.find (pteSkey d.old) (s.vi d.vi).keys with
        | none => done (aborted s).retryWaiting
        | some key =>
          let charged := s.demoCharges d
          let p : StoredPage := { handle := BitVec.ofNat 40 (bits d.new 55 16), flash := d.flash, discarded := false, data := s.frameData key frame, key := key
                                  counter := Config.pageCounter d.page, tag := Config.pageTag key (Config.pageCounter d.page) d.page
                                  vi := d.vi, asn := d.asn, va := d.va, charged := charged, since := now, die := die }
          let s := { s with store := Tab.put d.page p s.store }
          let s := (s.countTier d.vi charged d.flash true).returnFrame die d.vi (pteFrame d.old)
          done ((gone s 0).countDemotion d.rec_)
      else match s.storedOf d.vi d.asn d.va d.old with
        | none => done (aborted s).retryWaiting
        | some (i, p) =>
          let s := { s with store := Tab.put i { p with flash := true, handle := BitVec.ofNat 40 (bits d.new 55 16), since := now, die := die } s.store }
          let s := (s.countTier d.vi p.charged false false).countTier d.vi p.charged true true
          done ((gone s 0).countDemotion d.rec_)

namespace State

/-- A promotion ends without a page (R26, R99, R108): its frame goes back, and those that wait see the reason. -/
def promotionFails (s : State) (die : Nat) (p : Promo) (reason : Nat) : State :=
  let s := match p.frame with
    | some f => s.returnFrame die p.vi f
    | none => s
  let s := s.failPromo die p reason
  let s := match p.rec_ with
    | some n => s.countFailure n p.va reason p.hot
    | none => s
  s.retryWaiting

/-- A promotion's frame is written and its leaf rewritten to TIER 00 (R99); the charge for the page is given back (R95). One whose leaf
has changed gives its frame back, once the return ring has room (R97). -/
def promotionLands (s : State) (die : Nat) (p : Promo) (frame : Nat) (key : BitVec 256) (stored : Nat × StoredPage) : State :=
  let a := (hbmAddr frame).getD 0
  let drop := fun (s : State) => s.setDie die { s.die die with promos := (s.die die).promos.filter (· ≠ p) }
  let s := s.breakLink (.hbm a) (2 ^ 16) none
  let written := (List.range (2 ^ 16)).foldl (fun (s : State) i => s.putByte key (.hbm (a + i)) (Memory.read stored.2.data i)) s
  match written.leafCas die p.vi p.at_ p.leaf (pteMove p.leaf 0 (frame / 2 ^ 16)) with
  | none => if s.returnRoom die p.vi = some false then s else (drop (written.returnFrame die p.vi frame)).retryWaiting
  | some s =>
    let s := drop s
    let s := ({ s with store := Tab.del stored.1 s.store } : State).countTier p.vi stored.2.charged stored.2.flash false
    let s := s.restartDwell p.vi p.asn p.va
    let s := match p.rec_.bind (fun n => (s.rec? n).map (fun r => (n, r))) with
      | some (n, r) => (s.setRec n { r with promoted := r.promoted + 1 }).putCounters n
      | none => s
    s.retryWaiting

end State

/-- A promotion ends as `r` says: its page may also be in no tier, or fail authentication under its slot's key (R42, R94, R99).
One that waits for a frame takes one first (R97, R98), when none of its interface waits before it (R106, R107); one that gives its frame
back waits for room on the return ring, and one whose page still demotes waits for that (log 103). -/
def execPromotionDone (die n : Nat) (r : PromotionResult) (s : State) : Result :=
  match (if s.powered die then (s.die die).promos[n]? else none) with
  | none => done s
  | some p =>
    let before := ((s.die die).promos.take n).any (fun q => q.vi = p.vi && q.frame.isNone)
    let take := match p.frame with
      | some f => (FrameTake.got f, s)
      | none => if before && (s.poolRing die p.vi 0).isSome then (.empty, s) else s.takeFrame die p.vi
    if (s.demoOf p.vi p.at_).isSome then done s
    else match take with
    | (.empty, s) => done s
    | (.absent, s) => done ((s.promotionFails die p 6).writeStarve die p.vi)
    | (.got f, s) =>
      let q := { p with frame := some f }
      let s := if p.frame.isNone then
          (s.setDie die { s.die die with promos := (s.die die).promos.map (fun x => if x = p then q else x) }).writeStarve die p.vi
        else s
      let fails := fun (reason : Nat) => done (if s.returnRoom die p.vi = some false then s else s.promotionFails die q reason)
      match r with
        | .tierFailed => fails 6
        | .authFailed => fails 7
        | .inHbm =>
          match Tab.find (pteSkey q.leaf) (s.vi q.vi).keys, s.storedOf q.vi q.asn q.va q.leaf with
          | some key, some e => if e.2.discarded || e.2.key = key then done (s.promotionLands die q f key e) else fails 7
          | _, _ => fails 7

namespace State

/-- One counter tick of a die: AGECLK, and the watchdogs of its tasks in task privilege (R100, R250). -/
def tick (s : State) (die : Nat) : State :=
  let s := s.setDie die { s.die die with ageclk := (s.die die).ageclk + 1 }
  { s with threads := s.threads.map (fun t =>
      if t.1 / 64 = die && t.2.live && t.2.priv = .task && bits t.2.wdog 31 0 ≠ 0 then (t.1, { t.2 with wdogCount := t.2.wdogCount + 1 }) else t) }

/-- Starts the demotion of one page of a PARKED record when it is eligible (R95, R99, R100, R107). -/
def agePage (s : State) (die n : Nat) (r : ParkRec) (region : Nat) (page : Nat × Nat) : State :=
  let now := (s.die die).ageclk
  let va := page.2
  if r.hk && r.hot.flatten.contains page then s
  else match s.peekLeaf die r.vi r.asn va with
    | none => s
    | some (_, l) =>
      let w := l.word
      let free := !ptePin w && !pteDl w && !pteFr w && l.level = 0 && (s.promoOf r.vi l.at_).isNone && (s.demoOf r.vi l.at_).isNone
      let quota := fun (flash : Bool) => (s.chargedFor r.vi r.asn va w region).any (fun rs => s.quotaRoom r.vi rs flash)
      if !free then s
      else if pteTier w = 0 then
        if r.d1 ≠ 0xFFFFFFFF && decide ((Tab.find va r.dwell).getD r.parkage + r.d1 ≤ now) && s.returnRoom die r.vi = some true && quota false then
          s.startDemo die r.vi r.asn va l false (some n) none region
        else s
      else if pteTier w = 1 && bits w 55 16 ≠ 0 then
        match s.storedOf r.vi r.asn va w with
        | some (_, e) =>
          if r.d2 ≠ 0xFFFFFFFF && decide (e.since + r.d2 ≤ (s.die e.die).ageclk) && quota true then s.startDemo die r.vi r.asn va l true (some n) none region else s
        | none => s
      else s

/-- Ages every PARKED record of a die (R100). -/
def ageRecords (s : State) (die : Nat) : State :=
  s.recs.foldl (fun s e =>
    if e.2.st = .parked && e.2.die = die then
      let region := (s.gang? e.2.gang).elim 0 (fun g => g.region)
      e.2.pages.foldl (fun s p => match s.rec? e.1 with
        | some r => s.agePage die e.1 r region p
        | none => s) s
    else s) s

end State

/-- A counter tick of a die, or of the hub as die 4, and the check of every parked record on it (R100). -/
def execAgingCheck (die : Nat) (s : State) : Result := if s.powered die then done ((s.tick die).ageRecords die) else done s

/-- The pages of a slab by slab-space and target address, in ascending offset. -/
def slabPages (id : Nat) (d : SlabDesc) : List (Nat × Nat) :=
  if d.v && !d.malformed then (List.range (2 ^ (d.sz - 16))).map (fun i => (slabVa id + i * 2 ^ 16, (d.base + i * 2 ^ 16) % 2 ^ 56)) else []

/-- The committed bytes of a slab of some length, none for a slab that is wholly committed (R92). -/
def committed (d : SlabDesc) (len : Option Nat) : Nat :=
  match len with
  | none => 2 ^ d.sz
  | some l => min (l * d.tokb) (2 ^ d.sz)

/-- Where the hot window of a slab begins (R106). -/
def hotStart (d : SlabDesc) (tokens : Nat) (len : Option Nat) : Nat := match len with | none => 0 | some l => (l - tokens) * d.tokb

namespace State

/-- Reads the length word of a park record's next slab, or sends for it (R92): none while it waits. One that cannot be read counts as
LENPTR = 0, and so does one in struck data (log 73). -/
def readLength (s : State) (r : ParkRec) (n : Nat) (d : SlabDesc) : Option (Option Nat) × State :=
  let back := fun (s : State) => match s.rec? n with
    | some r => s.setRec n { r with req := none }
    | none => s
  if d.lenptr = 0 then (some none, s)
  else match r.req with
    | some i => match s.request i with
      | none => (some none, back s)
      | some q => match q.reply with
        | some (.done vals) => (some (some ((Tab.find 0 vals).getD 0).toNat), (back s).dropRequest i)
        | some (.refused _ _ _ _ _) => (some none, (back s).dropRequest i)
        | none => if q.expired then (some none, (back s).dropRequest i) else (none, s)
    | none =>
      let g := s.gang? r.gang
      let sup := g.any (fun g => g.saved.any (fun e => e.2.ct.priv = .supervisor))
      match s.check (engineAgent r.vi r.asn r.die (waiterCmd n) sup) (g.elim 0 (fun g => g.region)) .read false false spaceGlobal d.lenptr 8 with
      | .error (.wait s) => (none, s)
      | .error (.trap s _ _ _) => (some none, s)
      | .ok (.here l key, s) => if s.readsPoison r.die l 8 then (some none, s) else (some (some (leNat (s.loadBytes r.die key l 8))), s)
      | .ok (.away m va, s) =>
        let (i, s) := s.sendRequest r.vi n (64 * r.die) m .load [{ idx := 0, va := fullVa va, n := 8, data := 0, cmp := 0 }] false false false 0
        (none, match s.rec? n with
          | some r => s.setRec n { r with req := some i }
          | none => s)
      | .ok (_, s) => (some none, s)

/-- Reads the length words that are left (R92, R103). -/
def readLengths (s : State) (n : Nat) : Nat → State
  | 0 => s
  | f + 1 =>
    match s.rec? n with
    | none => s
    | some r =>
      match r.slabs[r.lens.length]? with
      | none => s
      | some _ =>
        match (match r.descs[r.lens.length]? with | some d => s.readLength r n d | none => (some none, s)) with
        | (none, s) => s
        | (some v, s) =>
          match s.rec? n with
          | some r => readLengths (s.setRec n { r with lens := r.lens ++ [v] }) n f
          | none => s

/-- A page has been discarded: handle 0 names it, and it has no contents (R94). -/
def keepDiscarded (s : State) (vi asn va : Nat) : State :=
  let (i, s) := s.freshId
  let p : StoredPage := { handle := 0, flash := false, discarded := true, data := [], key := 0, counter := 0, tag := 0, vi := vi, asn := asn, va := va
                          charged := [], since := 0, die := 0 }
  { s with store := Tab.put i p (s.store.filter (fun e => !(e.2.vi = vi && e.2.asn = asn && e.2.va = va && e.2.discarded))) }

/-- Discards one page that lies wholly beyond the length (R93); the flag says that the return ring is full. -/
def discardPage (s : State) (n : Nat) (r : ParkRec) (va : Nat) : Bool × State :=
  match s.peekLeaf r.die r.vi r.asn va with
  | none => (false, s)
  | some (_, l) =>
    let w := l.word
    if l.level ≠ 0 || ptePin w || pteDl w || pteFr w || pteTier w ≠ 0 then (false, s)
    else match s.returnRoom r.die r.vi with
      | none => (false, s)
      | some false => (true, s)
      | some true =>
        if !s.rangeQuiet (.hbm ((hbmAddr (pteFrame w)).getD 0)) (2 ^ 16) then (true, s)
        else match s.leafCas r.die r.vi l.at_ w (pteMove w 1 0) with
          | none => (true, s)
          | some s =>
            let s := (s.returnFrame r.die r.vi (pteFrame w)).keepDiscarded r.vi r.asn va
            (false, match s.rec? n with
              | some r => (s.setRec n { r with discarded := r.discarded + 1 }).putCounters n
              | none => s)

end State

/-- The last steps of SAVING (R92, R93, R103, R109): PK, the counters, the length words, the pages beyond them, and then PARKED
or, when WAKE is not zero or was written, PROMOTING. -/
def execParkSaveDone (rec_ : Nat) (s : State) : Result :=
  match (s.rec? rec_).filter (fun r => s.powered r.die) with
  | none => done s
  | some r =>
    let saved := (s.gang? r.gang).any (fun g => g.st = .parked)
    let none_ : SlabDesc := { w0 := 0, w1 := 0, w2 := 0, w3 := 0 }
    let now_ := r.slabs.map (fun id => ((s.slabAt r.die r.vi r.asn id).map (s.homeSlab r.die r.vi)).getD none_)
    let named := r.descs.length = r.slabs.length
    let moving := !named && now_.any (fun d => d.v && d.mv ≠ 0)
    let busy := (s.recs.filter (fun e => decide (e.1 < rec_) && e.2.die = r.die && (e.2.st = .saving || e.2.st = .parked || e.2.st = .promoting))).length
    if r.st ≠ .saving || !saved || moving || decide (4096 ≤ busy) then done s
    else
      let fresh : ParkRec := { r with descs := now_.map (fun d => { d with w0 := d.w0 ||| 2 }), demoted := 0, discarded := 0, promoted := 0, failed := 0, firstFail := 0 }
      let s := if named && r.slabs ≠ [] then s else ((s.setRec rec_ fresh).setPk fresh true).putCounters rec_
      let s := s.readLengths rec_ (r.slabs.length + 1)
      match s.rec? rec_ with
      | none => done s
      | some r =>
        if r.lens.length < r.slabs.length then done s
        else
          let all := (r.slabs.zip (r.descs.zip r.lens))
          let off := fun (id : Nat) (p : Nat × Nat) => p.1 - slabVa id
          let beyond := (all.map (fun x => (slabPages x.1 x.2.1).filter (fun p => decide (committed x.2.1 x.2.2 ≤ off x.1 p)))).flatten
          let (full, s) := beyond.foldl (fun (a : Bool × State) p => if a.1 then a else a.2.discardPage rec_ r p.2) (false, s)
          match s.rec? rec_ with
          | none => done s
          | some r =>
            if full then done s
            else
              let hot := all.map (fun x => ((slabPages x.1 x.2.1).filter (fun p => decide (off x.1 p < committed x.2.1 x.2.2)
                && (x.2.2.isNone || decide (hotStart x.2.1 r.hotTokens x.2.2 < off x.1 p + 2 ^ 16)))).reverse)
              let rest := all.map (fun x => ((slabPages x.1 x.2.1).filter (fun p => decide (off x.1 p < committed x.2.1 x.2.2)
                && !(x.2.2.isNone || decide (hotStart x.2.1 r.hotTokens x.2.2 < off x.1 p + 2 ^ 16)))).reverse)
              let r : ParkRec := { r with pages := (all.map (fun x => slabPages x.1 x.2.1)).flatten, hot := hot, rest := rest }
              let s := s.setRec rec_ r
              if r.woken || s.recWord r 8 ≠ 0 then done (s.promoteRec rec_)
              else
                let now := (s.die r.die).ageclk
                let s := (s.setRec rec_ { r with parkage := now }).recPut r 0x20 now
                done (s.setRecState rec_ .parked)

namespace State

/-- The gang of a record enters its dispatcher's queue (R103, R221). -/
def queueParked (s : State) (r : ParkRec) : State :=
  match s.gang? r.gang with
  | some g => if g.st = .parked then (s.requeue r.gang g).decideAll else s
  | none => s

end State

/-- Every hot-window page has TIER = 00: the record is RUNNABLE, and WAKE is read for PARK (R102, R103). -/
def execHotWindowDone (rec_ : Nat) (s : State) : Result :=
  match (s.rec? rec_).filter (fun r => s.powered r.die) with
  | none => done s
  | some r =>
    let back := r.hot.flatten.all (fun p => match s.peekLeaf r.die r.vi r.asn p.2 with
      | some (_, l) => pteFr l.word || pteTier l.word = 0
      | none => true)
    if r.st = .promoting && !r.hotFailed && back then
      done ((s.setRec rec_ { r with wake := s.recWord r 8 }).setRecState rec_ .runnable |>.queueParked r)
    else done s

/-- A hot-window promotion has failed and none is in flight any more: the record is FAILED (R103). -/
def execHotWindowFail (rec_ : Nat) (s : State) : Result :=
  match (s.rec? rec_).filter (fun r => s.powered r.die) with
  | none => done s
  | some r =>
    if r.st = .promoting && r.hotFailed && !s.stagesRun rec_ true then done ((s.setRecState rec_ .failed).queueParked r)
    else done s

/-- A walk for a core ends: a leaf stands in its TLB with A set, and with D for a store it permits (R27). -/
def execPageWalk (core vi asn : Nat) (va : Word) (store : Bool) (s : State) : Result :=
  match s.threads.find? (fun t => t.2.live && t.1 / 4 = core && t.2.vi = vi && s.asnOf t.2 = asn) with
  | none => done s
  | some (tid, _) =>
    let ag := s.agentOf tid false
    match s.asEntry ag.die vi asn with
    | .error _ => done s
    | .ok (root, tab, sl) =>
      let v := va.toNat % 2 ^ 56
      let target := if v / 2 ^ 48 = 0xFE then
          (if sl then (match s.slabTarget ag tab v with | .ok (t, _) => some (t % 2 ^ 56) | .error _ => none) else none)
        else some v
      match target.filter (fun t => !decide (0xFB ≤ t / 2 ^ 48 ∧ t / 2 ^ 48 ≤ 0xFD)) with
      | none => done s
      | some t =>
        match s.freshLeaf ag (if store then .write else .read) va root t with
        | .error _ => done s
        | .ok (l, s) =>
          if store && permits ag .write l.word then
            match s.setLeafBits ag.die vi l 0x80 with
            | some (l, s) => done (s.fillTlb core vi asn t l)
            | none => done s
          else done s

end Sys2Proof.Machine
end

