-- ==== Sys2Proof/Machine/Fabric.lean ====
section
/-! DEFINITION. The fabric's events: egress buffers, cell mirrors, requests at their target and at their requester, combining, reduction lines, pull loads, page handovers and links (R115, R147, R174 to R204). -/

namespace Sys2Proof.Machine

namespace State

/-- The store of an egress entry that left for another module has failed: the scalar store's held trap, the halt of the slab move, or the
FAULT of the command that made it (R87, R182, R245, R439). -/
def failStore (s : State) (e : EgressEntry) (cause : BitVec 6) (info : Word) : State :=
  let va := match e.loc with | .remote _ _ a => fullVa a | .line _ _ a => fullVa a | _ => 0
  match e.src with
  | some (uid, ea, pc, nested) =>
    let p : Pending := { kind := .fabricStore, cause := cause, tval := ea, tvaddr := pc, tseq := 0, tblk := 0, nested := nested, xinfo := some info }
    match s.tidOf uid with
    | some tid => s.raiseHeld tid p
    | none => s.mapSaved uid (fun x => { x with ct := { x.ct with pending := x.ct.pending ++ [p] } })
  | none =>
    let hit := fun (c : Cmd) => e.owners.getLast? = some c.id && c.result.all (fun r => bits r.word 63 56 = 0)
    let f := fun (s : State) (q : Nat) => (s.cmds q).foldl (fun (s : State) c =>
      if hit c then
        match (if decide (64 ≤ q) && decide (q < 68) then (s.die (q - 64)).moves.find? (fun m => m.cmd = c.id) else none) with
        | some m => (s.haltMove (q - 64) m c va info).retryWaiting
        | none =>
          let (n, s) := s.draw ((c.result.elim 0 (fun r => bits r.word 47 0)) + 1)
          s.setCmd q (c.fault n va info)
      else s) s
    (List.range 69).foldl f s

/-- Takes the egress entry out that a request was sent for. -/
def retireEgress (s : State) (i : Nat) (failed : Option (BitVec 6 × Word)) : State :=
  [0, 1, 2, 3, 4].foldl (fun s d =>
    match (s.die d).egress.find? (fun e => e.req = some i) with
    | none => s
    | some e =>
      let s := (s.setDie d { s.die d with egress := (s.die d).egress.filter (fun x => x.id ≠ e.id) }).dropRequest i
      match failed with
      | some (c, x) => s.failStore e c x
      | none => s) s

/-- Somebody still waits for a request's end. -/
def owned (s : State) (r : FabReq) : Bool :=
  (s.tidOf r.uid).isSome || s.gangs.any (fun g => g.2.saved.any (fun x => x.2.ct.uid = r.uid))
  || s.cores.any (fun c => c.2.copyQ.any (fun x => x.id = r.uid)) || s.dies.any (fun d => d.2.pageQ.any (fun x => x.id = r.uid))
  || s.hub.fcQ.any (fun x => x.id = r.uid) || s.hub.launches.any (fun l => l.req = some r.id)
  || (s.rec? r.uid).isSome || s.hub.slots.any (fun x => x.2.sent.contains r.id)
  || s.hub.hostHeld.any (fun h => h.req = some r.id) || s.hub.reqs.any (fun q => q.id = r.uid)

/-- The pull load of another module that this hub has served as request `i` is answered with what that has come to, if anything (R200, R201). -/
def answerPull (s : State) (i : Nat) : State :=
  match s.hub.pulls.find? (fun p => p.1 = i) with
  | none => s
  | some p =>
    let s := s.setHub { s.hub with pulls := s.hub.pulls.filter (· ≠ p) }
    match (s.request i).bind (fun r => r.reply) with
    | some r => s.answer p.2.1 p.2.2 r
    | none => s

/-- What follows at once when a request has ended; a host access that waited for it goes on, and those behind it (R153). -/
def requestEnded (s : State) (i : Nat) (failed : Option (BitVec 6 × Word)) : State :=
  let s := ((s.retireEgress i failed).notifyRounds).answerPull i
  let s := s.setHub { s.hub with reqs := s.hub.reqs.filter (fun q => q.uid ≠ i) }
  let s := if s.hub.hostHeld.any (fun h => h.req = some i) then s.retryHost else s
  match s.request i with
  | some r => if s.owned r then s else s.dropRequest i
  | none => s

/-- A reply reaches its request (R181). -/
def endRequest (s : State) (i : Nat) (r : FabricReply) : State :=
  (s.reply i r).requestEnded i (match r with
    | .refused _ c kind reason _ => some (refusalCause c, fabricInfo kind reason)
    | .done _ => none)

end State

/-- The elements of a request that carries stored bytes from an address on. -/
def storeElems (va : Nat) (data : List Byte) : List FabricElem :=
  if data.length ≤ 8 then [{ idx := 0, va := fullVa va, n := data.length, data := wordOf data, cmp := 0 }]
  else (List.range ((data.length + 7) / 8)).map (fun i =>
    { idx := i, va := fullVa (va + 8 * i), n := min 8 (data.length - 8 * i), data := wordOf ((data.drop (8 * i)).take 8), cmp := 0 })

/-- A store leaves a die's egress buffer: it performs at its home, or its request is sent and the entry stays until the request's
end (R115, R129, R182). A contribution carries the identity in the bytes it does not write (R194). -/
def execEgressStorePerform (die entry : Nat) (s : State) : Result :=
  match (s.die die).egress[entry]? with
  | none => done s
  | some e =>
    if !s.powered die || !State.egressFirst (s.die die).egress entry || e.req.isSome then done s
    else
      let uid := match e.src with
        | some (u, _) => u
        | none => (e.owners.getLast?).getD 0
      let sent := fun (i : Nat) (s : State) =>
        let d := s.die die
        done (s.setDie die { d with egress := d.egress.map (fun x => if x.id = e.id then { x with req := some i } else x) })
      match e.loc with
      | .remote m _ va =>
        let (i, s) := s.sendRequest e.vi uid (64 * die) m .store (storeElems va e.data) false true false 0
        sent i s
      | .line h _ va =>
        let (i, s) := s.sendRequest e.vi uid (64 * die) h.node .store (lineElems h.op (storeElems va e.data)) false true false 0
        sent i (s.contributes i h)
      | _ =>
        let s := s.setDie die { s.die die with egress := (s.die die).egress.filter (fun x => x.id ≠ e.id) }
        done (s.perform e.key e.loc e.data e.who)

/-- A mirror applies the oldest update of a cell that it has yet to apply (R147). -/
def execSyncMirrorUpdate (die cell : Nat) (s : State) : Result :=
  let d := s.die die
  match d.updates.find? (fun u => u.1 = cell) with
  | none => done s
  | some u => done (s.setDie die { d with updates := d.updates.erase u, mirrors := Tab.write 0 cell u.2 d.mirrors })

/-- A request arrives at this module from another (R175). -/
def execFabricTargetRequest (r : FabricArrival) (s : State) : Result := if r.src = s.modnum then done s else done (s.arrive r)

/-- The requests of this module that an identity stands for: itself, or the members combined under it (R188, R189). -/
def membersOf (records : List Decombine) (i : Nat) : Nat → List Nat
  | 0 => [i]
  | n + 1 => match records.find? (fun r => r.combined = i) with
    | some r => membersOf records r.first n ++ membersOf records r.second n
    | none => [i]

namespace State

/-- The requests of this module that an identity stands for. -/
def leavesOf (s : State) (i : Nat) : List Nat := membersOf s.hub.records i (s.hub.records.length + 1)

/-- A request still waits in an egress port, or stands combined under another (R187, R189). -/
def inEgress (s : State) (i : Nat) : Bool :=
  s.hub.waiting.any (fun w => w.id = i) || s.hub.records.any (fun d => d.first = i || d.second = i)

/-- A notice restarts the timer of its request, or of every member combined under it (R181). -/
def restartTimers (s : State) (i : Nat) : State :=
  let ids := s.leavesOf i
  s.setHub { s.hub with reqs := s.hub.reqs.map (fun r =>
    if ids.contains r.id && r.reply.isNone && !r.expired then { r with deadline := (s.die (r.tid / 64)).ageclk + r.tmo } else r) }

/-- Part of a request of this module to itself has gone on to the new home of a page (R202, R204). -/
def wentOn (s : State) (i : Nat) : Bool := s.hub.outbox.any (fun a => a.src = s.modnum && a.id = i)

/-- An identity is a request of this module to itself, which its hub answers (R200, R204). -/
def toSelf (s : State) (i : Nat) : Bool := (s.leavesOf i).any (fun j => (s.request j).any (fun q => q.module = s.modnum))

/-- The answer of an identity comes from another module. -/
def comesFromAfar (s : State) (i : Nat) : Bool := s.wentOn i || !s.toSelf i

/-- The reply of another module to an identity of this one: it is kept for the loopback when the request has gone on from here (R202). -/
def replyFromAfar (s : State) (i : Nat) (r : FabricReply) (deliver : State → State) : State :=
  if s.wentOn i then
    (s.setHub { s.hub with outbox := s.hub.outbox.filter (fun a => !(a.src = s.modnum && a.id = i)) }).answer s.modnum i r
  else deliver s

end State

/-- Every 250 µs a target sends a notice for a request it holds; its own requests are restarted at once (R181, R204). A parked fault
that has found the fault queue full goes into it once there is room (R184). -/
def execKeepWaitingNotice (n : Nat) (s : State) : Result :=
  let now := (s.die 4).ageclk
  match s.hub.held[n]? with
  | none => done s
  | some p =>
    let s := match p.fault with
      | some (va, x) =>
        if p.entry.isSome then s
        else match s.faultQueue p.vi with
          | none => s
          | some (h, r) =>
            let (e, s) := s.recordFault p.vi h r p.arrival.src va x
            s.setHub { s.hub with held := s.hub.held.map (fun q => if q = p then { p with entry := e } else q) }
      | none => s
    if now < p.noticed + 250 then done s
    else
      let s := s.setHub { s.hub with held := s.hub.held.map (fun x => if x.arrival = p.arrival then { x with noticed := now } else x) }
      if p.arrival.src = s.modnum then done (s.restartTimers p.arrival.id)
      else done (s.setHub { s.hub with notices := s.hub.notices ++ [(p.arrival.src, p.arrival.id)] })

/-- A notice of another module for a request of this one (R181); a pull's members send them too. -/
def execNoticeReceived (req : Nat) (s : State) : Result :=
  let pull := (s.request req).any (fun q => match q.kind with | .pull _ _ _ => true | _ => false)
  if s.comesFromAfar req || pull then done (s.restartTimers req) else done s

/-- A reply or acknowledgement ends a request; one that is lost, waits to leave or is combined gets none of its own (R179, R181, R189),
and one to this module itself is answered here (R200, R204), but for the refusal of a pull by a member (R201). -/
def execFabricReply (req : Nat) (r : FabricReply) (s : State) : Result :=
  if s.inEgress req then done s
  else match s.request req with
    | some q =>
      let here := !s.comesFromAfar req && match q.kind, r with
        | .pull _ _ _, .refused _ _ _ _ _ => false
        | _, _ => true
      if q.reply.isSome || q.expired || q.lost || here then done s else done (s.replyFromAfar req r (fun s => s.endRequest req r))
    | none => done s

/-- A timer expires (R181, R182). -/
def execFabricTimeout (req : Nat) (s : State) : Result :=
  match s.request req with
  | none => done s
  | some r =>
    if r.reply.isSome || r.expired || decide ((s.die (r.tid / 64)).ageclk < r.deadline) then done s
    else
      let s := s.setHub { s.hub with reqs := s.hub.reqs.map (fun q => if q.id = req then { q with expired := true } else q) }
      done (s.requestEnded req (some (causeFabTimeout, fabricInfo (fabricAccess r.kind).code 0)))

/-- A fetch-and-add at the egress port of this hub that its path takes: it combines with a waiting one, or waits itself (R178, R187,
R188, R190; log 88). -/
def execCombineArrival (req : Nat) (s : State) : Result :=
  match s.request req with
  | none => done s
  | some r =>
    match r.kind, r.elems with
    | .amo 0, [e] =>
      if !r.sysScope || r.reply.isSome || r.lost || r.left || r.looped || s.inEgress req then done s
      else
        let port := Config.fabricPort s.modnum r.module (e.va.toNat / 64) % 16
        let may := e.va.toNat % 8 = 0
        let same := fun (w : Waiting) => w.tabled && w.port = port && w.module = r.module && w.tag = r.tag && w.va = e.va && w.width = e.n && may
        let wait := fun (s : State) (tabled : Bool) => s.setHub { s.hub with waiting := s.hub.waiting ++
          [{ id := req, port := port, module := r.module, tag := r.tag, va := e.va, width := e.n, addend := e.data, tabled := tabled }] }
        match s.hub.waiting.find? same with
        | some w =>
          if 8192 ≤ s.hub.records.length then done (wait s false)
          else
            let (i, s) := s.freshId
            let sum := BitVec.ofNat 64 ((w.addend.toNat + e.data.toNat) % 2 ^ (8 * e.n))
            done (s.setHub { s.hub with
              waiting := s.hub.waiting.map (fun x => if x = w then { w with id := i, addend := sum } else x)
              records := s.hub.records ++ [{ id := i, combined := i, first := w.id, second := req, addend := w.addend, width := e.n, since := (s.die 4).ageclk }] })
        | none => done (wait s (may && decide ((s.hub.waiting.filter (fun w => w.tabled && w.port = port)).length < 512)))
    | _, _ => done s

namespace State

/-- Marks requests of this module. -/
def markReqs (s : State) (ids : List Nat) (f : FabReq → FabReq) : State :=
  s.setHub { s.hub with reqs := s.hub.reqs.map (fun q => if ids.contains q.id then f q else q) }

end State

/-- A waiting fetch-and-add leaves, and frees its entry of the combining table (R190); one to this module itself arrives at once by the
hub's loopback (R204). -/
def execEgressQueueDeparture (n : Nat) (s : State) : Result :=
  match s.hub.waiting[n]? with
  | none => done s
  | some w =>
    let s := s.setHub { s.hub with waiting := dropAt n s.hub.waiting }
    let ids := s.leavesOf w.id
    if w.module = s.modnum then
      done ((s.markReqs ids (fun q => { q with left := true, looped := true })).arrive
        { src := s.modnum, id := w.id, tag := w.tag, kind := .amo 0, elems := [{ idx := 0, va := w.va, n := w.width, data := w.addend, cmp := 0 }] })
    else done (s.markReqs ids (fun q => { q with left := true }))

namespace State

/-- A reply to a request or a combined request: it is split among the members, record by record (R189). -/
def splitReply (s : State) (i : Nat) (r : FabricReply) : Nat → State
  | 0 => s.endRequest i r
  | n + 1 =>
    match s.hub.records.find? (fun d => d.combined = i) with
    | none => s.endRequest i r
    | some d =>
      let s := s.setHub { s.hub with records := s.hub.records.filter (fun x => x.id ≠ d.id) }
      match r with
      | .refused _ _ _ _ _ => splitReply (splitReply s d.first r n) d.second r n
      | .done vals =>
        let v := (Tab.find 0 vals).getD 0
        let second := BitVec.ofNat 64 ((v.toNat + d.addend.toNat) % 2 ^ (8 * d.width))
        splitReply (splitReply s d.first (.done [(0, v)]) n) d.second (.done [(0, second)]) n

end State

/-- A reply that passes a record of this hub is split between its members (R189). -/
def execDecombineReply (n : Nat) (r : FabricReply) (s : State) : Result :=
  match s.hub.records[n]? with
  | none => done s
  | some d =>
    if s.inEgress d.combined || !s.comesFromAfar d.combined then done s
    else done (s.replyFromAfar d.combined r (fun s => s.splitReply d.combined r (s.hub.records.length + 1)))

/-- The hub's loopback (R204): a request of this module to itself arrives here, or has its answer once nothing of it is held or has
gone on. Contributions, pulls and what waits in an egress port take their own ways (R190, R195, R200). -/
def execLoopback (i : Nat) (s : State) : Result :=
  let mine := s.hub.answers.filter (fun a => a.1 = s.modnum && a.2.1 = i)
  if mine ≠ [] then
    if s.inEgress i || s.wentOn i || s.hub.held.any (fun p => p.arrival.src = s.modnum && p.arrival.id = i) then done s
    else
      let s := s.setHub { s.hub with answers := s.hub.answers.filter (fun a => !(a.1 = s.modnum && a.2.1 = i)) }
      let vals := (mine.map (fun a => match a.2.2 with | .done vs => vs | .refused _ _ _ _ vs => vs)).flatten
      let no := mine.findSome? (fun a => match a.2.2 with | .refused x c k r _ => some (FabricReply.refused x c k r vals) | .done _ => none)
      done (s.splitReply i (no.getD (.done vals)) (s.hub.records.length + 1))
  else match s.request i with
    | none => done s
    | some r =>
      let other := r.grant.isSome || match r.kind with
        | .pull _ _ _ => true
        | _ => false
      if other || r.module ≠ s.modnum || r.looped || r.lost || r.reply.isSome || s.inEgress i then done s
      else done ((s.markReqs [i] (fun q => { q with left := true, looped := true })).arrive { src := s.modnum, id := i, tag := r.tag, kind := r.kind, elems := r.elems })

/-- A record is dropped: struck, or held for 2,000,000 µs; every request below it is lost (R191). -/
def execDecombineRecordDrop (n : Nat) (cause : RecordDrop) (s : State) : Result :=
  match s.hub.records[n]? with
  | none => done s
  | some d =>
    if cause = .aged && decide ((s.die 4).ageclk < d.since + 2000000) then done s
    else
      let s := s.markReqs (s.leavesOf d.combined) (fun q => { q with lost := true })
      done (s.setHub { s.hub with records := dropAt n s.hub.records, dropped := s.hub.dropped + 1 })

/-- A contribution line of a request of this module: slot, generation, member, line and bytes (R194, R440). A slot that has been freed
since its handle was checked, granted again or not, is no slot of the line's (R443): it goes by a number that no slot has. -/
def requestLine (s : State) (r : FabReq) : Option ReductionLine :=
  match r.grant, r.elems.filter (fun e => decide (2 ^ 16 ≤ e.idx)) with
  | some h, e :: es =>
    let va := e.va
    some { slot := if (Tab.find h.slot s.hub.slots).any (fun x => x.id = h.id) then h.slot else 256, gen := bits va 37 30, member := bits va 29 20, line := bits va 19 6
           data := ((e :: es).map (fun x => bytesOf x.data 8)).flatten, src := s.modnum, id := r.id }
  | _, _ => none

/-- A contribution line reaches a slot of this hub: refused, discarded or merged, and answered; the last completes the round (R195, R197).
The KIND and REASON of a refusal are log 100. -/
def execReductionLineArrival (a : ReductionLine) (s : State) : Result :=
  let line := if a.src = s.modnum then
      ((s.request a.id).bind (fun r => if r.reply.isNone && !r.expired && !r.lost && r.module = s.modnum then requestLine s r else none))
    else some a
  match line with
  | none => done s
  | some a =>
    let answer := fun (s : State) (r : FabricReply) => if a.src = s.modnum then s.endRequest a.id r else s.answer a.src a.id r
    let refuse := fun (s : State) =>
      let idx := ((s.request a.id).bind (fun r => r.elems.head?)).elim 0 (fun e => e.idx)
      answer s (.refused (if a.src = s.modnum then idx else 0) .remoteFault Kind.write.code 0 [])
    match Tab.find a.slot s.hub.slots with
    | none => done (refuse s)
    | some r =>
      match r.arrive a.gen a.member a.line a.data with
      | (.refused, _) => done (refuse s)
      | (.discarded, r) => done (answer (s.setHub { s.hub with slots := Tab.put a.slot r s.hub.slots }) (.done []))
      | (.accepted, r) =>
        let s := s.setHub { s.hub with slots := Tab.put a.slot r s.hub.slots }
        done (answer (if r.full then s.completeRound a.slot r else s) (.done []))

/-- This hub answers a pull load that names it with the reduced line of the members' lines, in member-list order (R200): it reads its
own memory by a load of its own, a member's line that is refused refuses the load, and one that never comes leaves it to its timer (R201). -/
def execPullLoad (req : Nat) (lines : List MemberLine) (s : State) : Result :=
  match s.request req with
  | none => done s
  | some r =>
    match r.kind with
    | .pull op members base =>
      if r.module ≠ s.modnum || r.reply.isSome || r.expired || r.lost || members ≠ lines.map (fun l => l.module) then done s
      else
        let va := (r.elems.head?).elim 0 (fun e => e.va)
        let fold := fun (s : State) (own : List Byte) =>
          let line := match lines.map (fun l => if l.module = s.modnum then own else l.data) with
            | [] => []
            | l :: ls => ls.foldl (reduceLine op) l
          s.endRequest req (.done (r.elems.map (fun e => (e.idx, wordOf ((line.drop (e.va.toNat % 64)).take e.n)))))
        if !members.contains s.modnum then done (fold s [])
        else match s.hub.reqs.find? (fun q => q.uid = req && q.vi = 64) with
          | none =>
            let at_ := base + BitVec.ofNat 64 (bits va 39 6 * 64)
            let elems := (List.range 8).map (fun i => ({ idx := i, va := at_ + BitVec.ofNat 64 (8 * i), n := 8, data := 0, cmp := 0 } : FabricElem))
            let (i, s) := s.sendRequest 64 req 256 s.modnum .load elems false false false 0
            done (s.markReqs [i] (fun q => { q with tag := r.tag }))
          | some q => match q.reply with
            | some (.done vals) => done (fold (s.dropRequest q.id) (((List.range 8).map (fun i => bytesOf ((Tab.find i vals).getD 0) 8)).flatten))
            | some (.refused _ c kind reason _) => done ((s.dropRequest q.id).endRequest req (.refused ((r.elems.head?).elim 0 (fun e => e.idx)) c kind reason []))
            | none => done s
    | _ => done s

/-- The mailbox of an interface: the location of its 64 bytes and their key, on a page with HS = 1, PIN = 1 and TIER = 00 (R454). -/
def mailboxAt (s : State) (vi : Nat) : Option (Loc × BitVec 256) :=
  let b := (s.vi vi).mbxbase.toNat
  if b = 0 then none
  else match s.peekLeaf 4 vi 0 (b % 2 ^ 56) with
    | none => none
    | some (va, l) =>
      if pteHs l.word && ptePin l.word && pteTier l.word = 0 && !pteFr l.word then
        match Tab.find (pteSkey l.word) (s.vi vi).keys, hbmAddr (pteFrame l.word + va % 2 ^ pageBits l.level) with
        | some k, some a => some (.hbm a, k)
        | _, _ => none
      else none

/-- A word of a mailbox at its home. -/
def mailboxWord (s : State) (m : Loc × BitVec 256) (off : Nat) : Word := wordOf ((List.range 8).map (fun i => s.homeByte m.2 (m.1.plus (off + i))))

/-- Firmware ends a mailbox request: STATUS, vector 1, then CMD := 0 (R454). -/
def mailboxEnd (s : State) (vi status : Nat) : State :=
  match mailboxAt s vi with
  | none => s
  | some m =>
    let put := fun (s : State) (off : Nat) (w : Nat) => s.perform m.2 (m.1.plus off) (bytesOf (BitVec.ofNat 64 w) 8) none
    let s := put s 8 status
    put (s.setVi vi ((s.vi vi).raise 1)) 0 0

/-- Firmware takes a claimed MIGRATE: it starts the handover, or refuses it for a bad argument (R202, R454). -/
def execMigrate (vi : Nat) (s : State) : Result :=
  match mailboxAt s vi with
  | none => done s
  | some m =>
    if bits (mailboxWord s m 0) 7 0 ≠ 1 || s.hub.handovers.any (fun h => h.vi = vi && h.st ≠ .retired) then done s
    else
      let va := (mailboxWord s m 0x10).toNat
      let target := bits (mailboxWord s m 0x18) 9 0
      let reserved := [0x20, 0x28, 0x30, 0x38].any (fun o => mailboxWord s m o ≠ 0)
      let bad := reserved || va % 2 ^ 16 ≠ 0 || !canonical (mailboxWord s m 0x10) || decide (s.nmod ≤ target) || target = s.modnum
      match (if bad then none else s.peekLeaf 4 vi 0 (va % 2 ^ 56)) with
      | none => done (mailboxEnd s vi 2)
      | some (t, l) =>
        if l.level ≠ 0 || pteFr l.word || pteTier l.word ≠ 0 then done (mailboxEnd s vi 2)
        else
          let h : Handover := { vi := vi, va := t, frame := pteFrame l.word, target := target, at_ := l.at_, st := .draining }
          done (s.setHub { s.hub with handovers := s.hub.handovers ++ [h] })

/-- Firmware takes a claimed request whose code is not MIGRATE, and refuses it (R454). -/
def execFirmwareMailboxRequest (vi : Nat) (s : State) : Result :=
  match mailboxAt s vi with
  | none => done s
  | some m =>
    let cmd := bits (mailboxWord s m 0) 7 0
    if cmd = 0 || cmd = 1 then done s else done (mailboxEnd s vi 1)

/-- Changes a handover. -/
def setHandover (s : State) (n : Nat) (h : Handover) : State := s.setHub { s.hub with handovers := s.hub.handovers.set n h }

/-- The interleaved address of a byte of a page that moves; each 16 KiB of it lies in one run (R19). -/
def Handover.byteAt (h : Handover) (i : Nat) : Nat := (hbmAddr (h.frame + i)).getD 0

/-- Every accepted access to the page has performed: it is copied from now on (R202). -/
def execHandoverDrained (n : Nat) (s : State) : Result :=
  match s.hub.handovers[n]? with
  | some h => if h.st = .draining && [0, 1, 2, 3].all (fun i => s.rangeQuiet (.hbm (h.byteAt (2 ^ 14 * i))) (2 ^ 14)) then done (setHandover s n { h with st := .copying }) else done s
  | none => done s

/-- The page stands at its new home, whose leaf is valid: held requests go there first, in their order (R202, R203). -/
def execHandoverCopied (n : Nat) (s : State) : Result :=
  match s.hub.handovers[n]? with
  | none => done s
  | some h =>
    if h.st ≠ .copying then done s
    else
      let key := (Tab.find (pteSkey (s.leafWord h.vi h.at_)) (s.vi h.vi).keys).getD 0
      let elems := (List.range (2 ^ 13)).map (fun i =>
        ({ idx := i, va := fullVa (h.va + 8 * i), n := 8, data := wordOf ((List.range 8).map (fun j => s.hbmByte key (h.byteAt (8 * i) + j))), cmp := 0 } : FabricElem))
      let (i, s) := s.freshId
      let s := s.setHub { s.hub with outbox := s.hub.outbox ++ [{ src := s.modnum, id := i, tag := (s.vi h.vi).tag, kind := .store, elems := elems }] }
      done (setHandover s n { h with st := .forwarding }).retryWaiting

/-- A held host access touches the page that a handover moves (R203). -/
def hostAwaits (s : State) (h : Handover) : Bool :=
  s.hub.hostHeld.any (fun x => x.vi = h.vi && (hostParts x.off x.n).any (fun p => (s.peekLeaf 4 x.vi 0 (s.hostVa x.vi p.1)).any (fun l => l.2.at_ = h.at_)))

/-- The shootdown of the old mapping has completed on every module: the old leaf names the new home, and the mailbox is answered (R202,
R454). Held host accesses to the page are forwarded before (R203); gangs that waited for the page may be placed now. -/
def execHandoverShootdownDone (n : Nat) (s : State) : Result :=
  match s.hub.handovers[n]? with
  | none => done s
  | some h =>
    if h.st ≠ .forwarding || hostAwaits s h then done s
    else
      let w := s.leafWord h.vi h.at_
      let new := BitVec.ofNat 64 (bits w 15 0 + h.target % 1024 * 2 ^ 46 + 2 ^ 56 + bits w 63 60 * 2 ^ 60)
      let s := (s.physPut (s.key0 h.vi) h.at_ new).dropLeaf h.vi h.at_
      done (mailboxEnd (setHandover s n { h with st := .retired }) h.vi 0).decideAll

/-- Firmware frees the old frame (R202). -/
def execHandoverFreeFrame (n : Nat) (s : State) : Result :=
  match s.hub.handovers[n]? with
  | some h => if h.st = .retired then done (s.setHub { s.hub with handovers := dropAt n s.hub.handovers }) else done s
  | none => done s

/-- A link of this hub. -/
def State.fabricLink (s : State) (port : Nat) : LinkSt := Tab.get { replays := 0, retraining := false, removed := false } port s.hub.links
def State.setFabricLink (s : State) (port : Nat) (l : LinkSt) : State := s.setHub { s.hub with links := Tab.put port l s.hub.links }

/-- A flit with a bad CRC is discarded and replayed; after eight failed replays the link retrains (R179). -/
def execLinkCrcError (port : Nat) (replay : Bool) (s : State) : Result :=
  let l := s.fabricLink port
  if 16 ≤ port || l.retraining || l.removed || (replay && l.replays = 0) then done s
  else if !replay then done (s.setFabricLink port { l with replays := 1 })
  else if l.replays = 8 then done (s.setFabricLink port { l with replays := 0, retraining := true })
  else done (s.setFabricLink port { l with replays := l.replays + 1 })

/-- A link fails retraining and is removed (R179). -/
def execLinkRetrainFail (port : Nat) (s : State) : Result :=
  let l := s.fabricLink port
  if l.retraining then done (s.setFabricLink port { l with retraining := false, removed := true }) else done s

/-- A link's retraining succeeds (R179). -/
def execLinkRetrainDone (port : Nat) (s : State) : Result :=
  let l := s.fabricLink port
  if l.retraining then done (s.setFabricLink port { l with retraining := false, replays := 0 }) else done s

/-- A node fails: the requests it held are lost, and end by their timers (R179). -/
def execFabricNodeFailure (lost : List Nat) (s : State) : Result :=
  let s := s.markReqs (lost.map (fun i => s.leavesOf i)).flatten (fun r => { r with lost := true })
  done (s.setHub { s.hub with waiting := s.hub.waiting.filter (fun w => !lost.contains w.id)
                              records := s.hub.records.filter (fun d => !lost.contains d.combined) })

end Sys2Proof.Machine
end

