-- ==== Sys2Proof/Machine/Collective.lean ====
section
/-! DEFINITION. The commands of the fabric collective engine (R192, R193, R198 to R200, R439). -/

namespace Sys2Proof.Machine

/-- A node number names a module's hub or a switch of the system (R439). -/
def nodeExists (s : State) (n : Nat) : Bool := (decide (n < 1024) && decide (n < s.nmod)) || (decide (1024 ≤ n) && s.switches.contains n)

/-- A member map's module numbers (R439). -/
def mapNumbers (n : Nat) (bs : List Byte) : List Nat := (List.range n).map (fun i => leNat ((bs.drop (2 * i)).take 2))

/-- What a request of a command to another node has brought: its values, a failure with the element that was refused, or nothing yet. -/
inductive NodeAnswer where
  | vals (v : List (Nat × BitVec 64)) (s : State)
  | failed (info : Word) (idx : Nat) (s : State)
  | waits
  deriving DecidableEq, Repr

/-- The answer of a command's request. -/
def nodeAnswer (s : State) (i : Nat) : NodeAnswer :=
  match s.request i with
  | none => .failed (fabricInfo 3 0) 0 s
  | some r => match r.reply with
    | some (.done v) => .vals v (s.dropRequest i)
    | some (.refused k _ kind reason _) => .failed (fabricInfo kind reason) k (s.dropRequest i)
    | none => if r.expired then .failed (fabricInfo (fabricAccess r.kind).code 0) 0 (s.dropRequest i) else .waits

/-- A command reads its member map of `n` numbers at an address, and goes on with them (R439). -/
def withMap (s : State) (e : Nat) (c : Cmd) (ea : Word) (n : Nat) (f : State → Cmd → List Nat → State) : State :=
  if c.mem ≠ [] then f s c c.mem
  else match s.readRun e c spaceGlobal ea (2 * n) (s.share.accesses (2 * n)) with
    | .wait s c => s.setCmd e c
    | .fault s _ v x => s.setCmd e (c.fault 0 v x)
    | .ok s b =>
      let ms := mapNumbers n b
      f s { c with mem := ms, run := none, req := none } ms

/-- Fields of REDALLOC (R439). -/
def redNode (c : Cmd) : Nat := bits (c.arg 1) 10 0
def redM (c : Cmd) : Nat := bits (c.arg 1) 25 16 + 1
def redOp (c : Cmd) : Nat := bits (c.arg 1) 31 28

/-- The first bad word of REDALLOC (R193, R439). -/
def redallocBad (s : State) (c : Cmd) : Option Nat :=
  let l := (c.arg 2).toNat
  if headerBad c 0 then some 0
  else if bits (c.arg 1) 15 11 ≠ 0 || bits (c.arg 1) 27 26 ≠ 0 || bits (c.arg 1) 63 32 ≠ 0 || !nodeExists s (redNode c) || redM c < 2 || decide (5 < redOp c) then some 1
  else if l % 64 ≠ 0 || l = 0 || decide (2 ^ 20 < l) then some 2
  else if (c.arg 5).toNat % 8 ≠ 0 then some 5
  else none

/-- A granted slot enters the handle table of its interface under a free number that the D7 chooses (R439; log 3); one that finds the
table full by then is given back. -/
def grantHandle (s : State) (e : Nat) (c : Cmd) (slot : Nat) : State :=
  let v := s.vi c.vi
  let free := (List.range 256).filter (fun h => (Tab.find h v.handles).isNone)
  if free = [] then
    let s := if redNode c = s.modnum then (s.freeSlot slot s.modnum v.tag true).getD s else (s.sendHub v.tag (redNode c) (.redFree slot true) []).2
    s.setCmd e c.busy
  else
    let (x, s) := s.draw free.length
    let h := free.getD x 0
    let id := if redNode c = s.modnum then (Tab.find slot s.hub.slots).elim 0 (fun r => r.id) else 0
    (s.setVi c.vi { v with handles := Tab.put h { id := id, slot := slot, node := redNode c, op := redOp c, region := c.region } v.handles }).setCmd e (c.ok h)

/-- REDALLOC (R192, R193, R439). FAB_NOSLOT is a fabric cause and writes XINFO (R181, R182); its KIND is log 100. -/
def execRedalloc (eng n : Nat) (s : State) : Result :=
  engineStep eng n 0x20 pageMay (fun s c =>
    match redallocBad s c with
    | some k => s.setCmd eng (c.badArg k)
    | none => withMap s eng c (c.arg 3) (redM c) (fun s c ms =>
      let noslot := fun (s : State) => s.setCmd eng (c.ends 3 (redNode c) (BitVec.ofNat 64 (redNode c)) (fabricInfo 3 0))
      match c.req with
      | some i => match nodeAnswer s i with
        | .waits => s.setCmd eng c
        | .failed x _ s => s.setCmd eng (c.fault 0 0 x)
        | .vals ((_, slot) :: _) s => grantHandle s eng c slot.toNat
        | .vals [] s => noslot s
      | none =>
        if 256 ≤ (s.vi c.vi).handles.length then s.setCmd eng c.busy
        else if redNode c = s.modnum then
          match s.allocSlot { op := redOp c, m := redM c, len := (c.arg 2).toNat, members := ms, result := c.arg 4, notify := c.arg 5
                              tag := (s.vi c.vi).tag, vi := c.vi, region := c.region, src := s.modnum } with
          | some (slot, s) => grantHandle s eng c slot
          | none => noslot s
        else
          let head : FabricElem := { idx := 0, va := c.arg 4, n := 8, data := c.arg 5, cmp := 0 }
          let elems := head :: (ms.zip (List.range ms.length)).map (fun m => { idx := m.2 + 1, va := 0, n := 2, data := BitVec.ofNat 64 m.1, cmp := 0 })
          let (i, s) := s.sendRequest c.vi c.id (engineClock eng) (redNode c) (.redAlloc (redOp c) (redM c) (c.arg 2).toNat) elems false false false 0
          s.setCmd eng { c with req := some i })) s

/-- REDFREE (R198, R439). -/
def execRedfree (eng n : Nat) (s : State) : Result :=
  engineStep eng n 0x21 pageMay (fun s c =>
    let h := (c.arg 1).toNat
    let freed := fun (s : State) => (s.setVi c.vi { s.vi c.vi with handles := Tab.del h (s.vi c.vi).handles }).setCmd eng (c.ok 0)
    if headerBad c 0 then s.setCmd eng (c.badArg 0)
    else match (if 256 ≤ h then none else Tab.find h (s.vi c.vi).handles) with
      | none => s.setCmd eng (c.badArg 1)
      | some x => match c.req with
        | some i => match nodeAnswer s i with
          | .waits => s.setCmd eng c
          | .failed x _ s => s.setCmd eng (c.fault 0 0 x)
          | .vals ((_, b) :: _) s => if b = 0 then freed s else s.setCmd eng c.busy
          | .vals [] s => s.setCmd eng c.busy
        | none =>
          if x.node = s.modnum && !(Tab.find x.slot s.hub.slots).any (fun r => r.id = x.id) then freed s
          else if x.node = s.modnum then
            match s.freeSlot x.slot s.modnum (s.vi c.vi).tag false with
            | some s => freed s
            | none => s.setCmd eng c.busy
          else
            let (i, s) := s.sendRequest c.vi c.id (engineClock eng) x.node (.redFree x.slot false) [] false false false 0
            s.setCmd eng { c with req := some i }) s

/-- The first bad word of PULLSET (R200, R439). -/
def pullsetBad (s : State) (c : Cmd) : Option Nat :=
  let a := c.arg 1
  let op := bits a 27 24
  if headerBad c 0 then some 0
  else if bits a 15 15 ≠ 0 || bits a 23 22 ≠ 0 || bits a 30 28 ≠ 0 || bits a 63 32 ≠ 0 then some 1
  else if a.getLsbD 31 then none
  else if !nodeExists s (bits a 14 4) || (op ≠ 0 && op ≠ 1 && op ≠ 5) then some 1
  else if (c.arg 3).toNat % 64 ≠ 0 then some 3
  else none

/-- PULLSET (R200, R439). -/
def execPullset (eng n : Nat) (s : State) : Result :=
  engineStep eng n 0x22 pageMay (fun s c =>
    let a := c.arg 1
    let w := bits a 3 0
    let put := fun (s : State) (t : Tab PullWindow) => s.setVi c.vi { s.vi c.vi with windows := t }
    match pullsetBad s c with
    | some k => s.setCmd eng (c.badArg k)
    | none =>
      if a.getLsbD 31 then (put s (Tab.del w (s.vi c.vi).windows)).setCmd eng (c.ok 0)
      else withMap s eng c (c.arg 2) (bits a 21 16 + 1) (fun s c ms =>
        (put s (Tab.put w { node := bits a 14 4, members := ms, op := bits a 27 24, base := c.arg 3 } (s.vi c.vi).windows)).setCmd eng (c.ok 0))) s

/-- The first bad word of MCAST (R439). -/
def mcastBad (c : Cmd) : Option Nat :=
  let l := (c.arg 2).toNat
  if headerBad c 0 then some 0
  else if l % 64 ≠ 0 || l = 0 || decide (2 ^ 20 < l) then some 2
  else if bits (c.arg 4) 63 10 ≠ 0 then some 4
  else none

/-- The pieces of a run of bytes as elements of one request. -/
def runElems (ea : Word) (bs : List Byte) : Nat → Nat → List FabricElem
  | _, 0 => []
  | k, f + 1 =>
    if bs.length ≤ k then []
    else
      let a := ea + BitVec.ofNat 64 k
      let w := pieceSize a (bs.length - k)
      { idx := k, va := a, n := w, data := wordOf ((bs.drop k).take w), cmp := 0 } :: runElems ea bs (k + w) f

/-- Serves the members that are left, one after another: the bytes as remote stores, and once they are acknowledged the addition
to the notify word (R439). `wr` is 1 while the addition is under way. A fault reports the bytes written before it and its address (R434);
which bytes of a member have performed at a timeout is open (R182), and none is counted. -/
def mcastMembers (e : Nat) (s : State) (c : Cmd) (ms : List Nat) : Nat → State
  | 0 => s.setCmd e c
  | f + 1 =>
    let len := (c.arg 2).toNat
    if ms.length ≤ c.done then s.setCmd e (c.ok (ms.length * len))
    else
      let m := ms.getD c.done 0
      match c.req with
      | none =>
        let (i, s) := s.sendRequest c.vi c.id (engineClock e) m .store (runElems (c.arg 3) c.buf 0 len) true false false 0
        s.setCmd e { c with req := some i, wr := 0 }
      | some i => match nodeAnswer s i with
        | .waits => s.setCmd e c
        | .failed x k s =>
          s.setCmd e (if c.wr = 0 then c.fault (c.done * len + k) (c.arg 3 + BitVec.ofNat 64 k) x else c.fault ((c.done + 1) * len) (c.arg 6) x)
        | .vals _ s =>
          if c.wr = 0 then
            let (i, s) := s.sendRequest c.vi c.id (engineClock e) m (.amo 0) [{ idx := 0, va := c.arg 6, n := 8, data := 1, cmp := 0 }] true false false 0
            s.setCmd e { c with req := some i, wr := 1 }
          else mcastMembers e s { c with req := none, wr := 0, done := c.done + 1 } ms f

/-- MCAST: the member map, the source bytes, then each member in its turn (R439). -/
def execMcast (eng n : Nat) (s : State) : Result :=
  engineStep eng n 0x23 pageMay (fun s c =>
    match mcastBad c with
    | some k => s.setCmd eng (c.badArg k)
    | none => withMap s eng c (c.arg 5) (bits (c.arg 4) 9 0 + 1) (fun s c ms =>
      let len := (c.arg 2).toNat
      if c.buf.length = len then mcastMembers eng s c ms (ms.length + 1)
      else match s.readRun eng c spaceGlobal (c.arg 1) len (s.share.accesses len) with
        | .wait s c => s.setCmd eng c
        | .fault s _ v x => s.setCmd eng (c.fault 0 v x)
        | .ok s b => mcastMembers eng s { c with buf := b, run := none, req := none } ms (ms.length + 1))) s

end Sys2Proof.Machine
end

