-- ==== Sys2Proof/Machine/HostLink.lean ====
section
/-! DEFINITION. The host link: window accesses, BAR0 registers, attestation, TDISP and IDE, and the life of a virtual interface (R41 to R44, R218, R448 to R453). -/

namespace Sys2Proof.Machine

/-- A write of a window or register that the TDISP state turns away is refused and counted (R43, R453). -/
def hostGate (s : State) (vi : Nat) (ide : Bool) (parts : Nat) (f : State) : State :=
  if (s.vi vi).tdisp.admits (s.onStream vi ide) then f else s.countRefusals vi parts

/-- A host window access names bytes of the 64 GiB window of an interface that exists. -/
def inWindow (s : State) (vi off n : Nat) : Bool := (s.vi vi).created && decide (1 ≤ n) && decide (n ≤ 4096) && decide (off + n ≤ 2 ^ 36)

/-- A register access names bytes of the 64 KiB of BAR0 of an interface that exists. -/
def inBar0 (s : State) (vi off n : Nat) : Bool := (s.vi vi).created && decide (1 ≤ n) && decide (n ≤ 8) && decide (off + n ≤ 2 ^ 16)

/-- START is written (R218, R449). -/
def putStart (s : State) (vi : Nat) (v : Word) : State :=
  s.setVi vi { s.vi vi with start := { result := State.startPending, waiting := (s.vi vi).start.waiting ++ [v] } }

/-- A changed base moves a locked interface to ERROR (R453). -/
def Vi.baseChanged (x : Vi) (changed : Bool) : Vi := if changed && (x.tdisp = .locked || x.tdisp = .run) then { x with tdisp := .error } else x

/-- HWBASE is written; a write that sets another bit is discarded (R449, R453). -/
def putHwbase (s : State) (vi : Nat) (v : Word) : State :=
  let x := s.vi vi
  if bits v 63 56 ≠ 0 || bits v 15 0 ≠ 0 then s else s.setVi vi (({ x with hwbase := v } : Vi).baseChanged (v ≠ x.hwbase))

/-- MBXBASE is written; a write that sets another bit is discarded (R449, R453). -/
def putMbxbase (s : State) (vi : Nat) (v : Word) : State :=
  let x := s.vi vi
  if bits v 63 56 ≠ 0 || bits v 11 0 ≠ 0 then s else s.setVi vi (({ x with mbxbase := v } : Vi).baseChanged (v ≠ x.mbxbase))

/-- A write of BAR0 (R449): a whole register, or a word or half of one of the MSI-X table (log 104); any other is discarded. -/
def barWrite (s : State) (vi off : Nat) (data : List Byte) : State :=
  let n := data.length
  if 0x2000 ≤ off ∧ off < 0x2080 then
    if (n = 4 ∨ n = 8) ∧ off % n = 0 then
      let k := (off - 0x2000) / 8
      let old := bytesOf ((s.vi vi).msixWord k) 8
      s.setVi vi ((s.vi vi).putMsix k (wordOf (old.take (off % 8) ++ data ++ old.drop (off % 8 + n))))
    else s
  else if n ≠ 8 then s
  else if off = 0x1000 then putStart s vi (wordOf data)
  else if off = 0x1018 then putHwbase s vi (wordOf data)
  else if off = 0x1020 then putMbxbase s vi (wordOf data)
  else s

/-- A host read of the window, or of BAR0, which only the state ERROR refuses (R43, R44, R449, R453). -/
def execHostWindowRead (vi : Nat) (at_ : HostPlace) (n : Nat) (ide : Bool) (s : State) : Result :=
  match at_ with
  | .register off =>
    if !inBar0 s vi off n then done s
    else if (s.vi vi).tdisp = .error then done ((s.countRefusals vi 1).hostAnswer vi none)
    else done (s.hostAnswer vi (some ((List.range n).map (fun i => s.barByte vi (off + i)))))
  | .window off =>
    if !inWindow s vi off n then done s
    else if !(s.vi vi).tdisp.admits (s.onStream vi ide) then done ((s.countRefusals vi (hostParts off n).length).hostAnswer vi none)
    else done (s.hostRead vi off n ide)

/-- A host write of the window, a compare-and-swap there, or a write of BAR0 (R43, R44, R449, R453, R454). -/
def execHostWindowWrite (vi off : Nat) (w : HostWrite) (ide : Bool) (s : State) : Result :=
  match w with
  | .window data =>
    if !inWindow s vi off data.length then done s
    else done (hostGate s vi ide (hostParts off data.length).length (s.hostWrite vi off data ide))
  | .swap expected new => if !inWindow s vi off 8 || off % 8 ≠ 0 then done s else done (s.hostCas vi off expected new ide)
  | .register data => if !inBar0 s vi off data.length then done s else done (hostGate s vi ide 1 (barWrite s vi off data))

/-- A host access held for a tier is refused after 8 ms (R44). -/
def execHostAccessHoldTimeout (n : Nat) (s : State) : Result :=
  match s.hub.hostHeld[n]? with
  | none => done s
  | some h =>
    match h.deadline with
    | none => done s
    | some t => if (s.die 4).ageclk < t then done s else done ((s.setHub { s.hub with hostHeld := dropAt n s.hub.hostHeld }).hostRefuse h 1).retryHost

/-- A whole write of START (R218, R449). -/
def execStart (vi : Nat) (v : Word) (ide : Bool) (s : State) : Result :=
  if !(s.vi vi).created then done s else done (hostGate s vi ide 1 (putStart s vi v))

/-- A whole write of HWBASE (R449, R453). -/
def execHwbase (vi : Nat) (v : Word) (ide : Bool) (s : State) : Result :=
  if !(s.vi vi).created then done s else done (hostGate s vi ide 1 (putHwbase s vi v))

/-- A whole write of MBXBASE (R449, R453). -/
def execMbxbase (vi : Nat) (v : Word) (ide : Bool) (s : State) : Result :=
  if !(s.vi vi).created then done s else done (hostGate s vi ide 1 (putMbxbase s vi v))

/-- GET_MEASUREMENTS answers with its four blocks (R452). -/
def execGetMeasurements (vi : Nat) (s : State) : Result :=
  if !(s.vi vi).created then done s
  else
    let blocks := [s.platform.running.measurement, Config.measurement 2, Config.measurement 3, Config.measurement 4]
    done { s with platform := { s.platform with measured := s.platform.measured ++ [(vi, blocks)] } }

/-- The D7 answers a request of an interface's session (R452). -/
def spdmAnswer (s : State) (vi : Nat) (a : SpdmAnswer) : State :=
  { s with platform := { s.platform with answers := s.platform.answers ++ [(vi, a)] } }

/-- KEY_EXCHANGE opens the interface's one session; while one is active it is answered with SessionLimitExceeded (R452). -/
def execKeyExchange (vi : Nat) (secret : List Byte) (s : State) : Result :=
  let x := s.vi vi
  if !x.created then done s
  else if x.session.isSome then done (spdmAnswer s vi .sessionLimitExceeded)
  else done (spdmAnswer (s.setVi vi { x with session := some secret, tenantSet := false }) vi .done)

/-- The session ends; key slots, bindings and the tenant id stay (R452). -/
def execEndSession (vi : Nat) (s : State) : Result := done (if (s.vi vi).session.isSome then s.setVi vi { s.vi vi with session := none } else s)

/-- Some access that was translated with a key of an interface has not performed: a store, or those of a page engine to the header of a park
record that it keeps (R41, R102; log 77). -/
def keyInUse (s : State) (vi : Nat) (key : BitVec 256) : Bool :=
  s.dies.any (fun d => d.2.egress.any (fun e => e.vi = vi && e.key = key))
  || s.threads.any (fun t => t.2.vi = vi && (t.2.pend.any (fun p => p.key = key) || (s.vthread t.1).pend.any (fun p => p.key = key)))
  || s.recs.any (fun r => r.2.vi = vi && r.2.key = key)

/-- Empties some slots of an interface: an access that is translated from now on finds them empty, and those that have been keep the
key they were translated with until they have performed (R41). -/
def emptySlots (s : State) (vi : Nat) (p : Nat → Bool) : State :=
  let x := s.vi vi
  s.setVi vi { x with keys := x.keys.filter (fun k => !p k.1), emptying := (x.emptying ++ x.keys.filter (fun k => p k.1)).filter (fun k => keyInUse s vi k.2) }

/-- SETKEY loads slot 1 to 15 once its emptying has completed; slot 0 is refused (R41, R452). -/
def execSetkey (vi slot : Nat) (key : BitVec 256) (s : State) : Result :=
  let u := emptySlots s vi (fun _ => false)
  let x := u.vi vi
  if x.session.isNone then done s
  else if slot = 0 || decide (15 < slot) then done (spdmAnswer s vi .refused)
  else if x.emptying.any (fun k => k.1 = slot) then done s
  else done (spdmAnswer (u.setVi vi { x with keys := Tab.put slot key x.keys }) vi .done)

/-- CLRKEY empties slot 1 to 15, which completes, and is answered, once every access that uses its key has performed (R41, R452). -/
def execClrkey (vi slot : Nat) (s : State) : Result :=
  if (s.vi vi).session.isNone then done s
  else if slot = 0 || decide (15 < slot) then done (spdmAnswer s vi .refused)
  else
    let s := emptySlots s vi (fun k => k = slot)
    done (if (s.vi vi).emptying.any (fun k => k.1 = slot) then s else spdmAnswer s vi .done)

/-- SETTENANT sets the tenant id; it is refused once it is set in this session (R452). -/
def execSettenant (vi : Nat) (id : Word) (s : State) : Result :=
  let x := s.vi vi
  if x.session.isNone then done s
  else if x.tenantSet then done (spdmAnswer s vi .refused)
  else done (spdmAnswer (s.setVi vi { x with tenant := id, tenantSet := true }) vi .done)

/-- BINDTAG binds a tenant tag that no other interface holds (R175, R452). -/
def execBindtag (vi : Nat) (tag : BitVec 16) (s : State) : Result :=
  let x := s.vi vi
  if x.session.isNone then done s
  else if x.bound.contains tag then done (spdmAnswer s vi .done)
  else if s.vis.any (fun v => v.2.bound.contains tag) then done (spdmAnswer s vi .refused)
  else done (spdmAnswer (s.setVi vi { x with bound := x.bound ++ [tag] }) vi .done)

/-- The TDISP messages that lock and start an interface (R453). -/
def execTdispMessage (vi : Nat) (m : TdispMessage) (s : State) : Result :=
  let x := s.vi vi
  if x.session.isNone then done s
  else match m, x.tdisp with
    | .lockInterface, .unlocked => done (s.setVi vi { x with tdisp := .locked })
    | .startInterface, .locked => done (s.setVi vi { x with tdisp := .run })
    | _, _ => done s

/-- STOP_INTERFACE, a message of the interface's session, empties slots 1 to 15, clears the tenant id and stops region 0's domain with reason 1; it then unlocks the interface,
once the slots are empty (R41, R453). -/
def execStopInterface (vi : Nat) (s : State) : Result :=
  if !(s.vi vi).created || ((s.vi vi).session.isNone && !(s.vi vi).stopping) then done s
  else
    let s := if (s.vi vi).stopping then s else (s.setVi vi { s.vi vi with tenant := 0, stopping := true }).writeDomstop vi 0
    let s := emptySlots s vi (fun k => k ≠ 0)
    let x := s.vi vi
    if x.emptying = [] then done (s.setVi vi { x with tdisp := .unlocked, stopping := false }) else done s

/-- IDE_KM delivers a stream's key within the session (R453). -/
def execIdeKm (vi : Nat) (key : BitVec 256) (s : State) : Result :=
  let x := s.vi vi
  if x.session.isNone then done s else done (s.setVi vi { x with ideKey := some key })

/-- Firmware creates an interface from the administrator's configuration; tag bindings it kept stay (R41, R448, R450, R455; log 9). -/
def execCreateVirtualInterface (vi : Nat) (cfg : InterfaceConfig) (s : State) : Result :=
  if 64 ≤ vi || (s.vi vi).created || s.platform.bootHalted then done s
  else done (s.setVi vi { Vi.absent with
    created := true, keys := [(0, cfg.key0)], syncFirst := cfg.syncFirst, syncCount := cfg.syncCount, hbmShare := cfg.hbmShare, cxlShare := cfg.cxlShare
    flashShare := cfg.flashShare, tag := cfg.tag, astbase := cfg.astbase, rgnbase := cfg.rgnbase, bound := (s.vi vi).bound })

end Sys2Proof.Machine
end

