-- ==== Sys2Proof/Machine/Platform.lean ====
section
/-! DEFINITION. The platform: firmware, reset and power, heat, telemetry, bit errors and fencing (R63, R75, R248, R455 to R457). -/

namespace Sys2Proof.Machine

/-- A firmware update (R455): an image that is verified, and not older than the running one, is written in place, and takes the flash once
that has ended. It comes through the physical function, and after a broken image over the management interface only. -/
def execFirmwareUpdate (u : UpdateStep) (s : State) : Result :=
  let p := s.platform
  match u with
  | .supply img physical =>
    if physical = p.bootHalted || p.writing.isSome || !img.signatureGood || decide (img.secVersion < p.running.secVersion) then done s
    else done { s with platform := { p with writing := some img } }
  | .written => match p.writing with
    | some img => done { s with platform := { p with flash := img, writing := none } }
    | none => done s

/-- Power is lost; an image that is being written is left broken, the flash holding what `left` says (R455). -/
def execPowerFail (left : FirmwareImage) (s : State) : Result :=
  let p := s.platform
  done { s with platform := { p with power := false, diesOn := false, shutting := false, writing := none
                                     flash := if p.writing.isSome then { left with signatureGood := false } else p.flash } }

/-- What of the agenda outlives a reset: the events to come. -/
def Actor.isEvent : Actor → Bool
  | .event _ _ => true
  | .clock _ _ => true
  | _ => false

/-- A module reset starts the image in the flash, unless it is broken; fenced cores that the tests pass return, and the sealed
store keeps the fencing map and the tag bindings (R455, R457). A reset waits for an image that is being written. -/
def execModuleReset (passed : List Nat) (s : State) : Result :=
  let p := s.platform
  if p.writing.isSome then done s else
  let fenced := p.fencedMap.filter (fun c => !passed.contains c)
  .next { State.reset with
    modnum := s.modnum, nmod := s.nmod, switches := s.switches, corePref := s.corePref, ids := s.ids, draws := s.draws
    agenda := s.agenda.filter (fun a => a.isEvent)
    cores := fenced.foldl (fun t c => Tab.put c { CoreSt.initial with fenced := true } t) []
    vis := (s.vis.filter (fun v => v.2.bound ≠ [])).map (fun v => (v.1, { Vi.absent with bound := v.2.bound }))
    platform := { Platform.initial with
      running := if p.flash.signatureGood then p.flash else p.running, flash := p.flash, bootHalted := !p.flash.signatureGood, fencedMap := fenced } }

/-- The management controller gates issue, or stops gating it: timing only (R456). -/
def execPowerCap (gate : Bool) (s : State) : Result := done { s with platform := { s.platform with gated := gate } }

/-- A die at 95 °C is throttled, and one below is not: timing only (R456). -/
def execDieThrottle (die temp : Nat) (s : State) : Result :=
  let t := s.platform.throttled.filter (· ≠ die)
  done { s with platform := { s.platform with throttled := if 95 ≤ temp then t ++ [die] else t } }

/-- The fault domains of an interface: the regions of valid chains with FD = 1, and the regions of gangs that have no valid chain (R213). -/
def domainsOf (s : State) (vi : Nat) : List Nat :=
  (List.range 4096).filter (fun x => match s.chain vi x with
    | some c => domainOf c = x
    | none => s.gangs.any (fun g => g.2.vi = vi && g.2.region = x && (g.2.isPlaced || g.2.isQueued)))

/-- At 105 °C every fault domain of every interface stops with reason 6, vector 0 is raised, and the compute dies lose power (R456). -/
def execDieShutdown (temp : Nat) (s : State) : Result :=
  if temp < 105 then done s
  else
    let s : State := { s with platform := { s.platform with shutting := true } }
    let s := s.vis.foldl (fun (s : State) v =>
      if !v.2.created then s
      else
        let ds := domainsOf s v.1
        let s := s.setHub { s.hub with stops := s.hub.stops ++ ds.map (fun x => (v.1, x, 6)) }
        if ds.contains 0 then s else s.setVi v.1 ((s.vi v.1).raise 0)) s
    .next ((s.runStops (s.hub.stops.length + 2 * s.gangs.length + 2)).settle)

/-- Firmware fences off a core on an uncorrectable error of a structure, or on 64 corrected ones within an hour (R457). -/
def execCoreFence (core : Nat) (s : State) : Result :=
  let k := s.core core
  if 64 ≤ core || k.fenced || !(k.struck || decide (64 ≤ k.corrected.length)) then done s
  else
    let held := s.gangOn core
    let s := s.setCore core { k with fenced := true }
    let s : State := { s with platform := { s.platform with fencedMap := s.platform.fencedMap ++ [core] } }
    match held with
    | some (_, g) => done (s.stopDomain g.vi g.region 4).decideAll
    | none => done (s.scrub core).decideAll

/-- Telemetry is reported over PLDM (R456; log 8). -/
def execPldmMonitoring (s : State) : Result :=
  let p := s.platform
  done { s with platform := { p with reports := p.reports ++ [Config.telemetry p.reports.length, p.fencedMap.length] } }

/-- The coolant leaves the limits of the cold plate, or returns within them; flow is in tenths of a litre a minute. The
management controller gates issue outside them, which changes timing only (R456). -/
def execCoolantLimit (temp flow : Nat) (s : State) : Result :=
  let bad := decide (temp < 20) || decide (45 < temp) || decide (flow < 15)
  done { s with platform := { s.platform with coolant := (temp, flow), gated := bad || s.platform.gated } }

/-- The core whose structure an error strikes, if one does. -/
def struckCore : Struck → Option Nat
  | .hbmLine _ => none
  | .scratchWord c _ => some c
  | .vectorRegister t _ => some (t / 4)
  | .queueRow t _ _ => some (t / 4)
  | .operandSlot c _ => some c
  | .accumulator c _ => some c
  | .fetchPath c => some c

/-- An uncorrectable error in one of the structures that R248 numbers. -/
def structureError : Struck → Bool
  | .vectorRegister _ _ => true
  | .queueRow _ _ _ => true
  | .operandSlot _ _ => true
  | .accumulator _ _ => true
  | _ => false

namespace State

/-- A core has corrected an error: the times of those of the last hour are kept (R457). -/
def countCorrected (s : State) (c : Nat) : State :=
  let now := (s.die (c / 16)).ageclk
  s.setCore c { s.core c with corrected := now :: (s.core c).corrected.filter (fun t => decide (now < t + 3600000000)) }

/-- What is struck stays poisoned until it is wholly rewritten (R248); a row stays so with its group. -/
def strike (s : State) (x : Struck) : State :=
  match x with
  | .queueRow t q k =>
    let v := s.vthread t
    let gs := Tab.get [] q v.queues
    s.setVthread t { v with queues := Tab.write [] q (gs.modify k (fun g => { g with struck := true })) v.queues }
  | _ => { s with poison := if s.poison.contains x then s.poison else x :: s.poison, mended := s.mended.filter (fun m => m.1 ≠ x) }

end State

/-- A bit error: a corrected one is counted by its core, one of the fetch path is corrected by fetching again, and another leaves its
data poisoned (R63, R75, R248, R457). -/
def execEccError (e : EccError) (s : State) : Result :=
  match e.struck, struckCore e.struck with
  | .fetchPath c, _ => done ((s.setCore c { s.core c with icache := [], bcache := [], tlb := [] }).countCorrected c)
  | x, some c =>
    if e.correctable then done (s.countCorrected c)
    else done ((if structureError x then s.setCore c { s.core c with struck := true } else s).strike x)
  | x, none => if e.correctable then done s else done (s.strike x)

end Sys2Proof.Machine
end

