-- ==== Sys2Proof/Machine/Dispatch.lean ====
section
/-! DEFINITION. One arm per constructor of `Instr`: the meaning of each instruction and event. -/

namespace Sys2Proof.Machine

def exec (i : Instr) (s : State) : Host.Outcome State Fault Refusal :=
  match i with
  | .add d a b => Sys2Proof.Machine.execAdd d a b s
  | .sub d a b => Sys2Proof.Machine.execSub d a b s
  | .and d a b => Sys2Proof.Machine.execAnd d a b s
  | .or d a b => Sys2Proof.Machine.execOr d a b s
  | .xor d a b => Sys2Proof.Machine.execXor d a b s
  | .shl d a b => Sys2Proof.Machine.execShl d a b s
  | .shr d a b => Sys2Proof.Machine.execShr d a b s
  | .sra d a b => Sys2Proof.Machine.execSra d a b s
  | .mul d a b => Sys2Proof.Machine.execMul d a b s
  | .mulh d a b => Sys2Proof.Machine.execMulh d a b s
  | .mulhn d a b => Sys2Proof.Machine.execMulhn d a b s
  | .div d a b => Sys2Proof.Machine.execDiv d a b s
  | .divn d a b => Sys2Proof.Machine.execDivn d a b s
  | .rem d a b => Sys2Proof.Machine.execRem d a b s
  | .remn d a b => Sys2Proof.Machine.execRemn d a b s
  | .slt d a b => Sys2Proof.Machine.execSlt d a b s
  | .sltn d a b => Sys2Proof.Machine.execSltn d a b s
  | .min d a b => Sys2Proof.Machine.execMin d a b s
  | .max d a b => Sys2Proof.Machine.execMax d a b s
  | .minn d a b => Sys2Proof.Machine.execMinn d a b s
  | .maxn d a b => Sys2Proof.Machine.execMaxn d a b s
  | .clz d a => Sys2Proof.Machine.execClz d a s
  | .popc d a => Sys2Proof.Machine.execPopc d a s
  | .addi d a imm => Sys2Proof.Machine.execAddi d a imm s
  | .andi d a imm => Sys2Proof.Machine.execAndi d a imm s
  | .ori d a imm => Sys2Proof.Machine.execOri d a imm s
  | .xori d a imm => Sys2Proof.Machine.execXori d a imm s
  | .shli d a imm => Sys2Proof.Machine.execShli d a imm s
  | .shri d a imm => Sys2Proof.Machine.execShri d a imm s
  | .srai d a imm => Sys2Proof.Machine.execSrai d a imm s
  | .slti d a imm => Sys2Proof.Machine.execSlti d a imm s
  | .sltni d a imm => Sys2Proof.Machine.execSltni d a imm s
  | .limc d c imm => Sys2Proof.Machine.execLimc d c imm s
  | .addpc d imm => Sys2Proof.Machine.execAddpc d imm s
  | .ld g a k p o => Sys2Proof.Machine.execLd g a k p o s
  | .st g a k p o => Sys2Proof.Machine.execSt g a k p o s
  | .beq a b imm => Sys2Proof.Machine.execBeq a b imm s
  | .bne a b imm => Sys2Proof.Machine.execBne a b imm s
  | .blt a b imm => Sys2Proof.Machine.execBlt a b imm s
  | .bge a b imm => Sys2Proof.Machine.execBge a b imm s
  | .bltn a b imm => Sys2Proof.Machine.execBltn a b imm s
  | .bgen a b imm => Sys2Proof.Machine.execBgen a b imm s
  | .jmp imm => Sys2Proof.Machine.execJmp imm s
  | .call imm => Sys2Proof.Machine.execCall imm s
  | .jmpr d a imm => Sys2Proof.Machine.execJmpr d a imm s
  | .amoAdd d a b l o c w => Sys2Proof.Machine.execAmoAdd d a b l o c w s
  | .amoAnd d a b l o c w => Sys2Proof.Machine.execAmoAnd d a b l o c w s
  | .amoOr d a b l o c w => Sys2Proof.Machine.execAmoOr d a b l o c w s
  | .amoXor d a b l o c w => Sys2Proof.Machine.execAmoXor d a b l o c w s
  | .amoSwp d a b l o c w => Sys2Proof.Machine.execAmoSwp d a b l o c w s
  | .amoCas d a b l o c w => Sys2Proof.Machine.execAmoCas d a b l o c w s
  | .amoMin d a b l o c w => Sys2Proof.Machine.execAmoMin d a b l o c w s
  | .amoMax d a b l o c w => Sys2Proof.Machine.execAmoMax d a b l o c w s
  | .amoMinn d a b l o c w => Sys2Proof.Machine.execAmoMinn d a b l o c w s
  | .amoMaxn d a b l o c w => Sys2Proof.Machine.execAmoMaxn d a b l o c w s
  | .csrr d f => Sys2Proof.Machine.execCsrr d f s
  | .csrw d a f => Sys2Proof.Machine.execCsrw d a f s
  | .csrs d a f => Sys2Proof.Machine.execCsrs d a f s
  | .csrc d a f => Sys2Proof.Machine.execCsrc d a f s
  | .setlen d a => Sys2Proof.Machine.execSetlen d a s
  | .setlen2d d a => Sys2Proof.Machine.execSetlen2d d a s
  | .vsplit n => Sys2Proof.Machine.execVsplit n s
  | .vmerge => Sys2Proof.Machine.execVmerge s
  | .varg a k => Sys2Proof.Machine.execVarg a k s
  | .vpop d => Sys2Proof.Machine.execVpop d s
  | .vqwait a => Sys2Proof.Machine.execVqwait a s
  | .vqwaitAll => Sys2Proof.Machine.execVqwaitAll s
  | .vseq d => Sys2Proof.Machine.execVseq d s
  | .vfLabel imm => Sys2Proof.Machine.execVfLabel imm s
  | .vfReg a imm => Sys2Proof.Machine.execVfReg a imm s
  | .fenceSv => Sys2Proof.Machine.execFenceSv s
  | .fenceVs => Sys2Proof.Machine.execFenceVs s
  | .fenceVv => Sys2Proof.Machine.execFenceVv s
  | .fenceScoped o c => Sys2Proof.Machine.execFenceScoped o c s
  | .trap c => Sys2Proof.Machine.execTrap c s
  | .rte => Sys2Proof.Machine.execRte s
  | .wfe d a b p => Sys2Proof.Machine.execWfe d a b p s
  | .park d a => Sys2Proof.Machine.execPark d a s
  | .yield => Sys2Proof.Machine.execYield s
  | .exit => Sys2Proof.Machine.execExit s
  | .brk => Sys2Proof.Machine.execBrk s
  | .iflush => Sys2Proof.Machine.execIflush s
  | .tlbinvPg a c k => Sys2Proof.Machine.execTlbinvPg a c k s
  | .tlbinvAs c k => Sys2Proof.Machine.execTlbinvAs c k s
  | .tlbinvVi c => Sys2Proof.Machine.execTlbinvVi c s
  | .launch d a => Sys2Proof.Machine.execLaunch d a s
  | .eput a e => Sys2Proof.Machine.execEput a e s
  | .eget d e => Sys2Proof.Machine.execEget d e s
  | .ecnt d e => Sys2Proof.Machine.execEcnt d e s
  | .sytas d a b o c => Sys2Proof.Machine.execSytas d a b o c s
  | .syadd d a b o c => Sys2Proof.Machine.execSyadd d a b o c s
  | .syrd d a o c => Sys2Proof.Machine.execSyrd d a o c s
  | .tclaim d a c => Sys2Proof.Machine.execTclaim d a c s
  | .tclaimP d a c => Sys2Proof.Machine.execTclaimP d a c s
  | .tclaimA d => Sys2Proof.Machine.execTclaimA d s
  | .trel a => Sys2Proof.Machine.execTrel a s
  | .trelA a => Sys2Proof.Machine.execTrelA a s
  | .tstat d a => Sys2Proof.Machine.execTstat d a s
  | .tstatA d a => Sys2Proof.Machine.execTstatA d a s
  | .wcfg d a => Sys2Proof.Machine.execWcfg d a s
  | .wcfgW d a => Sys2Proof.Machine.execWcfgW d a s
  | .wcfgR d => Sys2Proof.Machine.execWcfgR d s
  | .wzero a => Sys2Proof.Machine.execWzero a s
  | .wmac a => Sys2Proof.Machine.execWmac a s
  | .wmacsO a => Sys2Proof.Machine.execWmacsO a s
  | .wmacsF a => Sys2Proof.Machine.execWmacsF a s
  | .wwait a => Sys2Proof.Machine.execWwait a s
  | .wwaitAll => Sys2Proof.Machine.execWwaitAll s
  | .wnorm a => Sys2Proof.Machine.execWnorm a s
  | .rbegin d a => Sys2Proof.Machine.execRbegin d a s
  | .rcfg a f => Sys2Proof.Machine.execRcfg a f s
  | .rcfgR d f => Sys2Proof.Machine.execRcfgR d f s
  | .rwait d => Sys2Proof.Machine.execRwait d s
  | .rprob d => Sys2Proof.Machine.execRprob d s
  | .rprobX d => Sys2Proof.Machine.execRprobX d s
  | .rend => Sys2Proof.Machine.execRend s
  | .vstop f => Sys2Proof.Machine.execVstop f s
  | .vnop f => Sys2Proof.Machine.execVnop f s
  | .vsbar f => Sys2Proof.Machine.execVsbar f s
  | .vadd f => Sys2Proof.Machine.execVadd f s
  | .vsub f => Sys2Proof.Machine.execVsub f s
  | .vmul f => Sys2Proof.Machine.execVmul f s
  | .vfma f => Sys2Proof.Machine.execVfma f s
  | .vfms f => Sys2Proof.Machine.execVfms f s
  | .vfnma f => Sys2Proof.Machine.execVfnma f s
  | .vdiv f => Sys2Proof.Machine.execVdiv f s
  | .vsqrt f => Sys2Proof.Machine.execVsqrt f s
  | .vexp2 f => Sys2Proof.Machine.execVexp2 f s
  | .vlog2 f => Sys2Proof.Machine.execVlog2 f s
  | .vmin f => Sys2Proof.Machine.execVmin f s
  | .vmax f => Sys2Proof.Machine.execVmax f s
  | .vabs f => Sys2Proof.Machine.execVabs f s
  | .vneg f => Sys2Proof.Machine.execVneg f s
  | .vclamp f => Sys2Proof.Machine.execVclamp f s
  | .vfcsa f => Sys2Proof.Machine.execVfcsa f s
  | .vmulh f => Sys2Proof.Machine.execVmulh f s
  | .vand f => Sys2Proof.Machine.execVand f s
  | .vor f => Sys2Proof.Machine.execVor f s
  | .vxor f => Sys2Proof.Machine.execVxor f s
  | .vnot f => Sys2Proof.Machine.execVnot f s
  | .vshl f => Sys2Proof.Machine.execVshl f s
  | .vshr f => Sys2Proof.Machine.execVshr f s
  | .vsra f => Sys2Proof.Machine.execVsra f s
  | .vpopc f => Sys2Proof.Machine.execVpopc f s
  | .vclz f => Sys2Proof.Machine.execVclz f s
  | .vsadd f => Sys2Proof.Machine.execVsadd f s
  | .vssub f => Sys2Proof.Machine.execVssub f s
  | .vcmp f => Sys2Proof.Machine.execVcmp f s
  | .vsel f => Sys2Proof.Machine.execVsel f s
  | .vmpop f => Sys2Proof.Machine.execVmpop f s
  | .vmfirst f => Sys2Proof.Machine.execVmfirst f s
  | .vmov f => Sys2Proof.Machine.execVmov f s
  | .vsplat f => Sys2Proof.Machine.execVsplat f s
  | .viota f => Sys2Proof.Machine.execViota f s
  | .vcvt f => Sys2Proof.Machine.execVcvt f s
  | .vkey f => Sys2Proof.Machine.execVkey f s
  | .vfold f => Sys2Proof.Machine.execVfold f s
  | .vgath f => Sys2Proof.Machine.execVgath f s
  | .vslup f => Sys2Proof.Machine.execVslup f s
  | .vsldn f => Sys2Proof.Machine.execVsldn f s
  | .vcmpr f => Sys2Proof.Machine.execVcmpr f s
  | .vrsum f => Sys2Proof.Machine.execVrsum f s
  | .vrmin f => Sys2Proof.Machine.execVrmin f s
  | .vrmax f => Sys2Proof.Machine.execVrmax f s
  | .vrmini f => Sys2Proof.Machine.execVrmini f s
  | .vrmaxi f => Sys2Proof.Machine.execVrmaxi f s
  | .vrts f => Sys2Proof.Machine.execVrts f s
  | .vscan f => Sys2Proof.Machine.execVscan f s
  | .vconf f => Sys2Proof.Machine.execVconf f s
  | .vld f => Sys2Proof.Machine.execVld f s
  | .vlds f => Sys2Proof.Machine.execVlds f s
  | .vldx f => Sys2Proof.Machine.execVldx f s
  | .vst f => Sys2Proof.Machine.execVst f s
  | .vsts f => Sys2Proof.Machine.execVsts f s
  | .vstxO f => Sys2Proof.Machine.execVstxO f s
  | .vstxU f => Sys2Proof.Machine.execVstxU f s
  | .vstn f => Sys2Proof.Machine.execVstn f s
  | .vgll f => Sys2Proof.Machine.execVgll f s
  | .vscc f => Sys2Proof.Machine.execVscc f s
  | .vsctadd f => Sys2Proof.Machine.execVsctadd f s
  | .vstrm f => Sys2Proof.Machine.execVstrm f s
  | .pack f => Sys2Proof.Machine.execPack f s
  | .wext f => Sys2Proof.Machine.execWext f s
  | .rnoise f => Sys2Proof.Machine.execRnoise f s
  | .rbound f => Sys2Proof.Machine.execRbound f s
  | .vbias f => Sys2Proof.Machine.execVbias f s
  | .rmask f => Sys2Proof.Machine.execRmask f s
  | .rqueue f => Sys2Proof.Machine.execRqueue f s
  | .rqueueK f => Sys2Proof.Machine.execRqueueK f s
  | .rnext f => Sys2Proof.Machine.execRnext f s
  | .rpost f => Sys2Proof.Machine.execRpost f s
  | .rzacc f => Sys2Proof.Machine.execRzacc f s
  | .copy2d eng n => Sys2Proof.Machine.execCopy2d eng n s
  | .filltile eng n => Sys2Proof.Machine.execFilltile eng n s
  | .zeroMemory eng n => Sys2Proof.Machine.execZeroMemory eng n s
  | .zeroSlot eng n => Sys2Proof.Machine.execZeroSlot eng n s
  | .slabnew eng n => Sys2Proof.Machine.execSlabnew eng n s
  | .slabgrow eng n => Sys2Proof.Machine.execSlabgrow eng n s
  | .slabfree eng n => Sys2Proof.Machine.execSlabfree eng n s
  | .exportPrefix eng n => Sys2Proof.Machine.execExport eng n s
  | .importPrefix eng n => Sys2Proof.Machine.execImport eng n s
  | .promote eng n => Sys2Proof.Machine.execPromote eng n s
  | .demote eng n => Sys2Proof.Machine.execDemote eng n s
  | .redalloc eng n => Sys2Proof.Machine.execRedalloc eng n s
  | .redfree eng n => Sys2Proof.Machine.execRedfree eng n s
  | .pullset eng n => Sys2Proof.Machine.execPullset eng n s
  | .mcast eng n => Sys2Proof.Machine.execMcast eng n s
  | .engineResultPost eng n => Sys2Proof.Machine.execEngineResultPost eng n s
  | .vcqEntryExecute => Sys2Proof.Machine.execVcqEntryExecute s
  | .splitChange core => Sys2Proof.Machine.execSplitChange core s
  | .runaheadLoad tid word => Sys2Proof.Machine.execRunaheadLoad tid word s
  | .egressStorePerform die entry => Sys2Proof.Machine.execEgressStorePerform die entry s
  | .syncMirrorUpdate die cell => Sys2Proof.Machine.execSyncMirrorUpdate die cell s
  | .pageWalk core vi asn va store => Sys2Proof.Machine.execPageWalk core vi asn va store s
  | .wfeWake tid => Sys2Proof.Machine.execWfeWake tid s
  | .registerRetention tid => Sys2Proof.Machine.execRegisterRetention tid s
  | .takeHeldTrap => Sys2Proof.Machine.execTakeHeldTrap s
  | .watchdogExpiry tid => Sys2Proof.Machine.execWatchdogExpiry tid s
  | .wmuStep core wmu => Sys2Proof.Machine.execWmuStep core wmu s
  | .wmacsBlockStart core op job kblk => Sys2Proof.Machine.execWmacsBlockStart core op job kblk s
  | .wmacsDrainRun => Sys2Proof.Machine.execWmacsDrainRun s
  | .quantumExpiry gang => Sys2Proof.Machine.execQuantumExpiry gang s
  | .starveRaise gang => Sys2Proof.Machine.execStarveRaise gang s
  | .domstop region => Sys2Proof.Machine.execDomstop region s
  | .fqresRetry seq => Sys2Proof.Machine.execFqresRetry seq s
  | .fqresRefuse seq => Sys2Proof.Machine.execFqresRefuse seq s
  | .wdogWrite v => Sys2Proof.Machine.execWdogWrite v s
  | .tstatusVhDiscard => Sys2Proof.Machine.execTstatusVhDiscard s
  | .tstatusWhDiscard => Sys2Proof.Machine.execTstatusWhDiscard s
  | .registerWrite f v => Sys2Proof.Machine.execRegisterWrite f v s
  | .agingCheck die => Sys2Proof.Machine.execAgingCheck die s
  | .demotionDone die n => Sys2Proof.Machine.execDemotionDone die n s
  | .promotionDone die n r => Sys2Proof.Machine.execPromotionDone die n r s
  | .parkSaveDone rec => Sys2Proof.Machine.execParkSaveDone rec s
  | .hotWindowDone rec => Sys2Proof.Machine.execHotWindowDone rec s
  | .hotWindowFail rec => Sys2Proof.Machine.execHotWindowFail rec s
  | .slabChunkCopied die n => Sys2Proof.Machine.execSlabChunkCopied die n s
  | .hostAccessHoldTimeout n => Sys2Proof.Machine.execHostAccessHoldTimeout n s
  | .fabricTargetRequest r => Sys2Proof.Machine.execFabricTargetRequest r s
  | .keepWaitingNotice n => Sys2Proof.Machine.execKeepWaitingNotice n s
  | .noticeReceived req => Sys2Proof.Machine.execNoticeReceived req s
  | .fabricReply req r => Sys2Proof.Machine.execFabricReply req r s
  | .fabricTimeout req => Sys2Proof.Machine.execFabricTimeout req s
  | .combineArrival req => Sys2Proof.Machine.execCombineArrival req s
  | .decombineReply n r => Sys2Proof.Machine.execDecombineReply n r s
  | .decombineRecordDrop n cause => Sys2Proof.Machine.execDecombineRecordDrop n cause s
  | .linkCrcError port replay => Sys2Proof.Machine.execLinkCrcError port replay s
  | .linkRetrainFail port => Sys2Proof.Machine.execLinkRetrainFail port s
  | .reductionLineArrival a => Sys2Proof.Machine.execReductionLineArrival a s
  | .pullLoad req lines => Sys2Proof.Machine.execPullLoad req lines s
  | .migrate vi => Sys2Proof.Machine.execMigrate vi s
  | .handoverDrained n => Sys2Proof.Machine.execHandoverDrained n s
  | .handoverCopied n => Sys2Proof.Machine.execHandoverCopied n s
  | .handoverShootdownDone n => Sys2Proof.Machine.execHandoverShootdownDone n s
  | .handoverFreeFrame n => Sys2Proof.Machine.execHandoverFreeFrame n s
  | .raceRoundDecide ctx => Sys2Proof.Machine.execRaceRoundDecide ctx s
  | .hostWindowRead vi at_ n ide => Sys2Proof.Machine.execHostWindowRead vi at_ n ide s
  | .hostWindowWrite vi off w ide => Sys2Proof.Machine.execHostWindowWrite vi off w ide s
  | .start vi v ide => Sys2Proof.Machine.execStart vi v ide s
  | .hwbase vi v ide => Sys2Proof.Machine.execHwbase vi v ide s
  | .mbxbase vi v ide => Sys2Proof.Machine.execMbxbase vi v ide s
  | .getMeasurements vi => Sys2Proof.Machine.execGetMeasurements vi s
  | .keyExchange vi secret => Sys2Proof.Machine.execKeyExchange vi secret s
  | .setkey vi slot key => Sys2Proof.Machine.execSetkey vi slot key s
  | .clrkey vi slot => Sys2Proof.Machine.execClrkey vi slot s
  | .settenant vi id => Sys2Proof.Machine.execSettenant vi id s
  | .bindtag vi tag => Sys2Proof.Machine.execBindtag vi tag s
  | .tdispMessage vi m => Sys2Proof.Machine.execTdispMessage vi m s
  | .stopInterface vi => Sys2Proof.Machine.execStopInterface vi s
  | .ideKm vi key => Sys2Proof.Machine.execIdeKm vi key s
  | .firmwareUpdate u => Sys2Proof.Machine.execFirmwareUpdate u s
  | .moduleReset passed => Sys2Proof.Machine.execModuleReset passed s
  | .powerCap gate => Sys2Proof.Machine.execPowerCap gate s
  | .dieThrottle die temp => Sys2Proof.Machine.execDieThrottle die temp s
  | .dieShutdown temp => Sys2Proof.Machine.execDieShutdown temp s
  | .coreFence core => Sys2Proof.Machine.execCoreFence core s
  | .pldmMonitoring => Sys2Proof.Machine.execPldmMonitoring s
  | .illegalInstruction vec w => Sys2Proof.Machine.execIllegalInstruction vec w s
  | .instructionFetchFault vec addr c => Sys2Proof.Machine.execInstructionFetchFault vec addr c s
  | .eccError e => Sys2Proof.Machine.execEccError e s
  | .endSession vi => Sys2Proof.Machine.execEndSession vi s
  | .createVirtualInterface vi cfg => Sys2Proof.Machine.execCreateVirtualInterface vi cfg s
  | .linkRetrainDone port => Sys2Proof.Machine.execLinkRetrainDone port s
  | .fabricNodeFailure lost => Sys2Proof.Machine.execFabricNodeFailure lost s
  | .powerFail left => Sys2Proof.Machine.execPowerFail left s
  | .coolantLimit temp flow => Sys2Proof.Machine.execCoolantLimit temp flow s
  | .firmwareMailboxRequest vi => Sys2Proof.Machine.execFirmwareMailboxRequest vi s
  | .egressQueueDeparture n => Sys2Proof.Machine.execEgressQueueDeparture n s
  | .raceBestReceived tid => Sys2Proof.Machine.execRaceBestReceived tid s

end Sys2Proof.Machine
end

