-- ==== Sys2Proof/Machine/Turn.lean ====
section
/-! DEFINITION. What the actor at the head of the agenda does: fetching and decoding the word of a thread (R16, R17, R155, R283, R286), the choice between it and a pending trap (R245), the entries of a vector queue (R309), and the events (log 2). -/

namespace Sys2Proof.Machine

namespace State

/-- The word of a control thread's next instruction: one that waits keeps the word it was fetched as (R155, R224). -/
def fetchControl (s : State) (tid : Nat) : Fetched :=
  let t := s.thread tid
  if t.wait ≠ .none then .word t.insn s
  else match s.fetch tid .fetch t.pc 1 with
    | .word w s => .word w (s.setThread tid { s.thread tid with insn := w })
    | r => r

/-- A control thread takes up its next instruction: fetched, decoded and executed, or its fetch fault, or an illegal word (R17, R286). -/
def runControl (s : State) (tid : Nat) : Result :=
  match s.fetchControl tid with
  | .wait s => .next s
  | .fault c s => execInstructionFetchFault false (s.thread tid).pc c s
  | .word w s =>
    match decodeScalarBytes (leBytes 4 w) with
    | .ok i => if i.wf then exec i s else execIllegalInstruction false (BitVec.ofNat 64 w) s
    | .error _ => execIllegalInstruction false (BitVec.ofNat 64 w) s

/-- A thread waits for an atomic that has been sent, or in a TLBINV, which no trap abandons (R38, R228, R240). -/
def mustEnd (s : State) (tid : Nat) : Bool :=
  match (s.thread tid).wait with
  | .request i => (s.request i).any (fun r => !r.kind.reads)
  | .inval _ => true
  | _ => false

/-- The gang of a thread leaves its cores: its control threads go on only with what must end before they are saved (R228). -/
def heldBack (s : State) (tid : Nat) : Bool := (s.gang? (s.thread tid).gang).any (fun g => g.stopping) && !s.savesLater tid

/-- The step between two states has taken an instruction trap of a thread. -/
def tookInstructionTrap (s s' : State) (tid : Nat) : Bool :=
  let t := s.thread tid
  let u := s'.thread tid
  u.live && u.uid = t.uid && !t.nest && u.nest && !u.ret && u.icount = t.icount

/-- A control thread's turn: at its boundary an instruction trap goes before a pending held cause, and that before the instruction (R240, R245). -/
def controlTurn (s : State) (tid : Nat) : Result :=
  let t := s.thread tid
  if !t.live || s.heldBack tid then .next s
  else if t.nextHeld.isNone || s.mustEnd tid then s.runControl tid
  else if t.nest then exec .takeHeldTrap s
  else match s.runControl tid with
    | .next s' => if tookInstructionTrap s s' tid then .next s' else exec .takeHeldTrap s
    | _ => exec .takeHeldTrap s

/-- Two words of a block at word `w`, or why they cannot be had (R16, R283). -/
def blockWord (s : State) (tid : Nat) (r : BlockRun) (w : Nat) : Fetched :=
  if 256 ≤ w then .fault .overrun s else s.fetch tid .blockFetch (r.addr + BitVec.ofNat 64 (8 * w)) 2

/-- A vector thread takes up the instruction at the next word of its block, with its trailing literal (R279, R283, R286). -/
def runVector (s : State) (tid : Nat) (r : BlockRun) : Result :=
  let go := fun (w lit : Nat) (s : State) =>
    match decodeVectorBytes (leBytes 8 w ++ leBytes 8 lit) with
    | .ok i =>
      if i.wf then
        let v := s.vthread tid
        exec i (s.setVthread tid { v with work := { v.work with insn := some (w, lit) } })
      else execIllegalInstruction true (BitVec.ofNat 64 w) s
    | .error _ => execIllegalInstruction true (BitVec.ofNat 64 w) s
  match (s.vthread tid).work.insn with
  | some (w, lit) => go w lit s
  | none =>
    let at_ := fun (w : Nat) => r.addr + BitVec.ofNat 64 (8 * w)
    match s.blockWord tid r r.word with
    | .wait s => .next s
    | .fault c s => execInstructionFetchFault true (at_ r.word) c s
    | .word w s =>
      if has w 21 1 1 then
        match s.blockWord tid r (r.word + 1) with
        | .wait s => .next s
        | .fault c s => execInstructionFetchFault true (at_ (r.word + 1)) c s
        | .word lit s => go w lit s
      else go w 0 s

/-- A vector thread's turn: the instruction of the block in execution, or the entry at the head of its queue (R309, R392). -/
def vectorTurn (s : State) (tid : Nat) : Result :=
  let v := s.vthread tid
  if !(s.thread tid).live || !s.hasVector tid || v.work.faulted then .next s
  else match v.work.run, v.work.vcq with
    | some r, _ => s.runVector tid r
    | none, [] => .next (s.comeBack tid)
    | none, e :: _ =>
      if (s.thread tid).behind.isSome && !e.aside then .next (s.comeBack tid)
      else match e.op with
      | .block _ _ => .next (s.beginBlock tid)
      | .wmacs i =>
        if (s.core (tid / 4)).wmacs.any (fun m => m.id = i && !m.complete) then exec .wmacsDrainRun s else exec .vcqEntryExecute s
      | _ => exec .vcqEntryExecute s

/-- The instruction at the word of the block in execution, as it was fetched or as it would be. -/
def insnHere (s : State) (tid : Nat) : Option (Instr × Nat × Nat) :=
  let w := (s.vthread tid).work
  match w.insn, w.run with
  | some (x, lit), _ => match decodeVectorBytes (leBytes 8 x ++ leBytes 8 lit) with
    | .ok i => if i.wf then some (i, x, lit) else none
    | .error _ => none
  | none, some r => s.instrAt tid r.addr r.word
  | none, none => none

end State

/-- The opcodes of the instructions that compute element (r, e) from elements of their sources at the same place or beside it (R325). -/
def elementOp (op : Nat) : Bool :=
  op = 0x02 || (decide (0x10 ≤ op) && decide (op ≤ 0x1F)) || (decide (0x30 ≤ op) && decide (op ≤ 0x3B)) || op = 0x50 || op = 0x51 || op = 0x60
  || (decide (0x62 ≤ op) && decide (op ≤ 0x64))

/-- What chaining sees of a thread: a copy of the state in which the instructions passed have come to an end with their elements up to
the one that is looked for, the registers these write, and the streams of those that access memory (R374). -/
structure Chain where
  s : State
  wrote : List Nat
  streams : List Nat

namespace State

/-- The chain goes past the instruction in execution, whose elements up to `i` it computes: an element-wise instruction, or a load or
store that has come beyond element `i`. None where one of them faults, fetches for a bound queue, has yet to deliver a group, or reads what
comes later. -/
def chainPast (h : Chain) (tid i : Nat) : Option Chain :=
  let v := h.s.vthread tid
  match (h.s.insnHere tid).bind (fun x => x.1.vectorParts) with
  | none => none
  | some (op, f) =>
    let past := decide (i < v.work.vstart)
    let memory := decide (0x80 ≤ op) && decide (op ≤ 0x86)
    let fetches := v.work.popped.isNone && (popQueues f).any (fun q => Tab.get [] q v.queues = [] && (Tab.find q v.binds).isSome)
    if !(elementOp op || (memory && past)) || fetches || (f.nb = 2 && h.wrote.contains f.sa.toNat) || isQueueLoad op f then none
    else
      let s := if past then h.s else match v.work.run with
        | none => h.s
        | some r => match ({ h.s with share := .upTo (i + 1) } : State).runVector tid r with
          | .next s => s
          | _ => h.s
      let w := (s.vthread tid).work
      let ended := w.run.map (fun r => r.word) ≠ v.work.run.map (fun r => r.word)
      if w.faulted || !(ended || decide (i < w.vstart)) then none
      else some { s := if ended then s else s.endVector tid f, wrote := f.vd.toNat :: h.wrote, streams := if memory then f.rs.toNat :: h.streams else h.streams }

/-- The chain past the next `n` instructions of a block. -/
def chainTo (tid i : Nat) (h : Chain) : Nat → Option Chain
  | 0 => some h
  | n + 1 => (chainTo tid i h n).bind (fun h => chainPast h tid i)

/-- The groups that the pops of an instruction find delivered, whole and not struck; none where one of them would find another. -/
def groupsFor (queues : Tab (List Group)) : List Nat → Option (List Group)
  | [] => some []
  | q :: qs => match Tab.get [] q queues with
    | g :: gs => if g.struck then none else (groupsFor (Tab.put q gs queues) qs).map (fun r => g :: r)
    | [] => none

/-- Element `i` of the instruction `n` places on in the block performs before VSTART comes to it: a load in execution binds it (R122), or
a store behind the instructions that give it its data performs it (R374; log 47). -/
def earlyTurn (s : State) (tid n i : Nat) : State :=
  if !s.vectorRuns tid then s
  else if n = 0 then
    match (s.vthread tid).work.insn, s.insnHere tid with
    | some _, some (x, w) => (s.earlyLoad tid i x w).getD s
    | _, _ => s
  else match chainTo tid i { s := s, wrote := [], streams := [] } n with
    | none => s
    | some h => match h.s.insnHere tid with
      | none => s
      | some (x, w) => match Accesses.of x with
        | none => s
        | some a =>
          match groupsFor (h.s.vthread tid).queues ((a.codes.filter isQueue).map (fun c => c.toNat - 32)) with
          | none => s
          | some gs =>
            let c : Reading := { v := h.s.vthread tid, f := a.f, groups := gs, stop := 0 }
            if !a.store || h.streams.contains a.f.rs.toNat || (a.f.fmt = 16 && bits c.geom 61 58 = 0) then s
            else (s.performEarly tid n (h.s.wordNo tid) i w a { c with stop := c.total }).getD s

/-- A load behind a SYRD, SYTAS or SYADD that acquires nothing, or behind a WFE of other bytes, binds its value before it
(R119, R130, R167, R446; log 48). -/
def preloadTurn (s : State) (tid : Nat) (space : BitVec 2) (ea : Word) (n : Nat) : State :=
  let t := s.thread tid
  let passes := fun (l : Loc) => match s.fetchControl tid with
    | .word w _ => match decodeScalarBytes (leBytes 4 w) with
      | .ok (.wfe _ a _ p) => match s.check (s.agentOf tid false) (s.regionOf t) .read true false p (s.reg tid a) 8 with
        | .ok (.here l' _, _) => !l'.meets 8 l n
        | _ => false
      | .ok (.syrd _ _ o _) => o = 0
      | _ => false
    | _ => false
  if !t.live || t.wait ≠ .none || t.early.isSome || !(n = 1 || n = 2 || n = 4 || n = 8) then s
  else
    let s' := s.orderScalar tid
    match s'.check (s'.agentOf tid false) (s'.regionOf t) .read true false space ea n with
    | .ok (.here l key, s') =>
      if !passes l then s
      else match s'.loadAt tid ea l key n with
        | .ok (v, s') => s'.setThread tid { s'.thread tid with early := some (space, ea, n, v) }
        | .error _ => s
    | _ => s

/-- A fetch cache takes in a word that nothing has asked for yet (R155; log 87). -/
def prefetchTurn (s : State) (tid : Nat) (addr : Word) (block : Bool) : State :=
  if !(s.thread tid).live then s
  else match s.fetch tid (if block then .blockFetch else .fetch) addr 1 with
    | .word _ s => s
    | _ => s

/-- The step of an actor that has been taken from the agenda. -/
def turn (s : State) (a : Actor) : Result :=
  let on := fun (tid : Nat) (defer stale : Bool) (share : Share) => ({ s with cur := tid, defer := defer, stale := stale, share := share } : State)
  match a with
  | .control tid defer stale => (on tid defer stale .whole).controlTurn tid
  | .vector tid defer stale share => (on tid defer stale share).vectorTurn tid
  | .early tid n i stale => .next ((on tid false stale .whole).earlyTurn tid n i)
  | .ahead tid n stale => exec (.runaheadLoad tid n) (on tid false stale .whole)
  | .preload tid space ea n => .next ((on tid false false .whole).preloadTurn tid space ea n)
  | .prefetch tid addr block => .next ((on tid false false .whole).prefetchTurn tid addr block)
  | .event i share => exec i { s with defer := false, stale := false, share := share }
  | .drain tid stream k => .next (s.drainOne tid stream k)
  | .evict line => .next { s with links := Tab.del line s.links }
  | .loopback i => execLoopback i s
  | .clock core n => .next (s.setCore core { s.core core with cycle := (s.core core).cycle + n })

/-- The agenda after its head has moved: a thread's own actor goes to the end, everything else is done once (log 2). -/
def nextAgenda : List Actor → List Actor
  | [] => []
  | .control t d x :: rest => rest ++ [.control t d x]
  | .vector t d x k :: rest => rest ++ [.vector t d x k]
  | _ :: rest => rest

/-- One step of the module. Without power only a module reset has an effect, and with none to come nothing can follow (R455). -/
def advance (s : State) : Result :=
  match s.agenda with
  | [] => if s.platform.power then .next s else .fault .noPower
  | a :: rest =>
    let resets := match a with
      | .event (.moduleReset _) _ => true
      | _ => false
    if s.platform.power || resets then { s with agenda := nextAgenda (a :: rest) }.turn a
    else .next { s with agenda := rest }

/-- The virtual address, and the HBM address under it, at which `placeWord` puts an instruction. -/
def placedAt : Nat := 0x20000

/-- One virtual interface whose address space 0 maps the 64 GiB from address 0 to HBM, every access allowed, A and D set. -/
def placeTables (s : State) : State :=
  let word := fun (m : Memory) (a v : Nat) => Memory.writeList m a (leBytes 8 v)
  { s with
    vis := [(0, { Vi.absent with created := true, astbase := 0x10000, keys := [(0, 0)] })]
    hbm := word (word (word s.hbm 0x10000 0x12001) 0x12000 0x14001) 0x14000 0xFF }

/-- A gang of one supervisor task on control thread 0 of core 0, whose next instruction stands at `placedAt`. -/
def placeTask (s : State) : State :=
  { s with
    gangs := [(0, { vi := 0, id := 0, region := 0, asn := 0, ntask := 1, percore := 1, split := 1, span := false, sup := true
                    entry := BitVec.ofNat 64 placedAt, done := 0, save := 0, args := [], st := .placed, die := 0, level := 0, order := 0
                    since := 0, placedOrder := 0, quantumFrom := 0, cores := [0], held := [0], freed := [], ended := [], uids := [1]
                    fresh := false, saved := [], splits := [], pads := [], seed := 0, owed := none, stopping := false, raised := 0, saving := false })]
    threads := [(0, { CThread.vacant with live := true, uid := 1, pc := BitVec.ofNat 64 placedAt, priv := .supervisor })]
    ids := s.ids + 2 }

/-- A block entry that vector thread 0 of core 0 has begun, its first word at `placedAt`. -/
def placeBlock (s : State) : State :=
  let e : VcqEntry := { seq := 0, op := .block (BitVec.ofNat 64 placedAt) 0, nested := false, aside := false }
  let r : BlockRun := { addr := BitVec.ofNat 64 placedAt, word := 0, geom := 0, seq := 0, nested := false, drain := none }
  { s with vthreads := [(0, { VThread.fresh with work := { VectorWork.idle with vcq := [e], run := some r } })] }

/-- Places an instruction of `nbits` bits where the next step fetches it (log 2). -/
def placeWord (s : State) (nbits w : Nat) : State :=
  let s := s.placeTables.placeTask
  let s := { s with hbm := Memory.writeList s.hbm placedAt (leBytes (if nbits ≤ 32 then 4 else 16) w) }
  if nbits ≤ 32 then { s with agenda := .control 0 false false :: s.agenda }
  else { s.placeBlock with agenda := .vector 0 false false .whole :: s.agenda }

end State

end Sys2Proof.Machine
end

