-- ==== Sys2Proof/Safety.lean ====
section
/-! DEFINITION. The terms claims are stated in: what an instruction answers, when nothing else is due, and what a step leaves unchanged. -/

namespace Sys2Proof.Machine

/-- The meaning of `i` at `s` is the next state `t`, once what follows from `t` at once has followed (`State.settle`). -/
def Ends (i : Instr) (s t : State) : Prop := exec i s = .next t.settle

/-- Nothing follows from the state by itself: no stop, launch, start write or loss of power is due, no stop is under way, no gang is over, owes a
completion word, is about to be pre-empted or being saved, and no park record stands. -/
structure Quiet (s : State) : Prop where
  stops : s.hub.stops = []
  halting : s.hub.halting = []
  shutting : s.platform.shutting = false
  launches : s.hub.launches = []
  starts : ∀ v ∈ s.vis, v.2.start.waiting = []
  gangs : ∀ g ∈ s.gangs, g.2.owed = none ∧ g.2.st ≠ .over ∧ g.2.stopping = false ∧ g.2.saving = false
  recs : s.recs = []

/-- HBM, every scratchpad and every page outside HBM is in its canonical form. -/
structure MemoriesCanonical (s : State) : Prop where
  hbm : s.hbm.wf = true
  scratch : ∀ c ∈ s.cores, c.2.scratch.wf = true
  store : ∀ p ∈ s.store, p.2.data.wf = true

/-- The two states differ at most in one control thread. -/
structure OnlyThread (s t : State) (tid : Nat) : Prop where
  rest : { t with threads := s.threads } = s
  others : ∀ x, x ≠ tid → t.thread x = s.thread x

/-- The two states differ at most in one vector thread. -/
structure OnlyVector (s t : State) (tid : Nat) : Prop where
  rest : { t with vthreads := s.vthreads } = s
  others : ∀ x, x ≠ tid → t.vthread x = s.vthread x

/-- A control thread has retired an instruction: register `d` holds `v` (g0 reads zero), the pc stands at `pc`, ICOUNT has counted
one, and nothing else has changed, here or elsewhere. -/
structure Wrote (s t : State) (tid : Nat) (d : Reg) (v pc : Word) : Prop where
  only : OnlyThread s t tid
  dest : t.reg tid d = if d = 0 then 0 else v
  regs : ∀ r, r ≠ d → t.reg tid r = s.reg tid r
  pc : (t.thread tid).pc = pc
  rest : { t.thread tid with regs := (s.thread tid).regs, pc := (s.thread tid).pc } =
    { s.thread tid with icount := (s.thread tid).icount + 1, wait := .none }

/-- A control thread stands at its trap handler with the trap registers written (R241), and nothing else has changed. -/
structure Trapped (s t : State) (tid : Nat) (cause : BitVec 6) (tval tpc : Word) (retired : Bool) : Prop where
  only : OnlyThread s t tid
  pc : (t.thread tid).pc = (s.thread tid).tvec
  priv : (t.thread tid).priv = .supervisor
  tcause : (t.thread tid).tcause = cause
  tval : (t.thread tid).tval = tval
  tpc : (t.thread tid).tpc = tpc
  ret : (t.thread tid).ret = retired
  nest : (t.thread tid).nest = true
  ppriv : (t.thread tid).ppriv = if (s.thread tid).priv = .supervisor then 1 else 0
  zeros : (t.thread tid).tseq = 0 ∧ (t.thread tid).tblk = 0 ∧ (t.thread tid).tvaddr = 0
  rest : { t.thread tid with pc := (s.thread tid).pc, priv := (s.thread tid).priv, tcause := (s.thread tid).tcause, tval := (s.thread tid).tval, tpc := (s.thread tid).tpc, ret := (s.thread tid).ret, nest := (s.thread tid).nest, ppriv := (s.thread tid).ppriv, tseq := (s.thread tid).tseq, tblk := (s.thread tid).tblk, tvaddr := (s.thread tid).tvaddr, icount := (s.thread tid).icount } = s.thread tid

/-- An entry has entered the thread's vector command queue behind the others, with the next sequence number; the thread's instruction has
retired with `v` in `d`, and nothing else has changed. -/
structure Enqueued (s t : State) (tid : Nat) (op : VcqOp) (d : Reg) (v : Word) : Prop where
  rest : { t with threads := s.threads, vthreads := s.vthreads } = s
  others : ∀ x, x ≠ tid → t.thread x = s.thread x ∧ t.vthread x = s.vthread x
  queue : (t.vthread tid).work.vcq = (s.vthread tid).work.vcq ++
    [{ seq := (s.thread tid).vseq + 1, op := op, nested := (s.thread tid).nest || (s.thread tid).vh, aside := (s.thread tid).wh }]
  vector : { t.vthread tid with work := { (t.vthread tid).work with vcq := (s.vthread tid).work.vcq } } = s.vthread tid
  vseq : (t.thread tid).vseq = (s.thread tid).vseq + 1
  dest : t.reg tid d = if d = 0 then 0 else v
  regs : ∀ r, r ≠ d → t.reg tid r = s.reg tid r
  pc : (t.thread tid).pc = (s.thread tid).pc + 4

/-- A location of bytes in this module: HBM or a scratchpad. -/
def Loc.isByte : Loc → Bool
  | .hbm _ => true
  | .scratch _ _ => true
  | .cell _ _ => false
  | .remote _ _ _ => false
  | .line _ _ _ => false

/-- The access of a thread's scalar stream at `ea` reaches `l` of this module with the key of its page: every check of R35 passed. -/
def Reaches (s : State) (tid : Nat) (k : Kind) (cells : Bool) (space : BitVec 2) (ea : Word) (n : Nat) (l : Loc) (key : BitVec 256) (s' : State) : Prop :=
  s.check (s.agentOf tid false) (s.regionOf (s.thread tid)) k true cells space ea n = .ok (.here l key, s')

/-- `n` bytes at a location, as an agent of a die reads them with a key. -/
def Holds (s : State) (die : Nat) (key : BitVec 256) (l : Loc) (bs : List Byte) : Prop :=
  s.loadBytes die key l bs.length = bs

/-- Every byte outside `n` bytes at `l` reads with `key` as before, at its home and on every die, and so does every synchronisation cell. -/
structure KeepsOutside (s t : State) (key : BitVec 256) (l : Loc) (n : Nat) : Prop where
  bytes : ∀ b, l.covers n b = false → t.homeByte key b = s.homeByte key b ∧ ∀ d, t.loadByte d key b = s.loadByte d key b
  cells : t.cells = s.cells

/-- Every byte reads as before, with every key and on every die, and so does every synchronisation cell. -/
structure KeepsMemory (s t : State) : Prop where
  bytes : ∀ key b, t.homeByte key b = s.homeByte key b ∧ ∀ d, t.loadByte d key b = s.loadByte d key b
  cells : t.cells = s.cells

/-- A vector instruction of the thread's block may begin, in a turn that performs all that is left of it (R209), and what it reads is
`c`; `s'` is the state with its queue groups popped. -/
structure Begins (s : State) (tid : Nat) (f : VFields) (codes : List (BitVec 6)) (regs : List Nat) (c : Reading) (s' : State) : Prop where
  runs : s.vectorRuns tid = true
  whole : s.share = .whole
  reads : s.begin_ tid f codes regs = .ok (c, s')
  shape : c.v.vl ≤ 256 ∧ c.v.vr ≤ 8

/-- The flat index is one the instruction has still to do, and is active (R228, R281). -/
def Reading.todo (c : Reading) (i : Nat) : Prop := c.v.work.vstart ≤ i ∧ i < c.total ∧ c.active i = true

/-- The instruction wrote vd by R281 with `x` as its results, and no other vector register. -/
structure Swept (s t : State) (tid : Nat) (c : Reading) (x : Nat → Elem) : Prop where
  active : ∀ i, c.todo i → (t.vthread tid).elem c.f.vd.toNat (c.row i) (c.col i) = x i
  masked : ∀ i, i < c.total → ¬ c.todo i → (t.vthread tid).elem c.f.vd.toNat (c.row i) (c.col i) =
    if c.v.work.vstart ≤ i ∧ c.f.mask = 2 then c.v.fill else (s.vthread tid).elem c.f.vd.toNat (c.row i) (c.col i)
  tail : ∀ r e, r < 8 → e < maxlOf (s.core (tid / 4)).split → ¬ (r < c.v.vr ∧ e < c.v.vl) → (t.vthread tid).elem c.f.vd.toNat r e =
    if c.f.tail = 0 then (s.vthread tid).elem c.f.vd.toNat r e else c.v.fill
  others : ∀ n, n ≠ c.f.vd.toNat → Tab.get [] n (t.vthread tid).regs = Tab.get [] n (s.vthread tid).regs

/-- The flags that the elements to do raise are merged: a bit of FSTAT is set when it was or some element raises it (R266). -/
def Flagged (s t : State) (tid : Nat) (c : Reading) (fl : Nat → FlagSet) : Prop :=
  ∀ k, k < 5 → ((t.vthread tid).fstat.getLsbD k = true ↔ (s.vthread tid).fstat.getLsbD k = true ∨ ∃ i, c.todo i ∧ (fl i).getLsbD k = true)

/-- The vector instruction is complete: the block goes on behind its word and literal, and nothing outside its vector thread (and
the record of struck data) has changed (R279). -/
structure Completed (s t : State) (tid : Nat) (f : VFields) : Prop where
  word : (t.vthread tid).work.run = (s.vthread tid).work.run.map (fun r => { r with word := r.word + (if f.l = 1 then 2 else 1) })
  vstart : (t.vthread tid).work.vstart = 0 ∧ (t.vthread tid).work.popped = none ∧ (t.vthread tid).work.vcq = (s.vthread tid).work.vcq
  rest : { t with vthreads := s.vthreads, poison := s.poison, mended := s.mended } = s
  others : ∀ x, x ≠ tid → t.vthread x = s.vthread x

/-- One element-wise instruction: its operand fields in their order, and the result and flags of a flat index. -/
structure ElementOp where
  instr : Instr
  codes : List (BitVec 6)
  value : Reading → Nat → Elem × FlagSet

/-- The element-wise instructions with an operand word `f` and their results (R325, R329 to R341): a float form on the values of the
elements (type codes 0 and 1), an integer form on their bits. -/
def elementTable (f : VFields) : List ElementOp :=
  let float := decide (f.ty.toNat ≤ 1)
  let b16 := decide (f.ty = 1)
  let mode := Rounding.ofCode (f.rs.toNat / 2)
  let fl := readFloat b16
  let int := intOf f.ty
  let two := fun (i : Instr) (g : Elem → Elem → Elem × FlagSet) => ({ instr := i, codes := [f.sa, f.sb], value := fun c n => g (c.srcA n) (c.srcB n) } : ElementOp)
  let one := fun (i : Instr) (g : Elem → Elem × FlagSet) => ({ instr := i, codes := [f.sa], value := fun c n => g (c.srcA n) } : ElementOp)
  let three := fun (i : Instr) (g : Elem → Elem → Elem → Elem × FlagSet) =>
    ({ instr := i, codes := [f.sa, f.sb, f.sc], value := fun c n => g (c.srcA n) (c.srcB n) (c.srcC n) } : ElementOp)
  [ two (.vadd f) (fun a b => if float then addFl b16 mode (fl a) (fl b) else (a + b, 0)),
    two (.vsub f) (fun a b => if float then addFl b16 mode (fl a) (fl b).negate else (a - b, 0)),
    two (.vmul f) (fun a b => if float then mulFl b16 mode (fl a) (fl b) else (a * b, 0)),
    three (.vfma f) (fun a b c => fmaFl b16 mode (fl a) (fl b) (fl c)),
    three (.vfms f) (fun a b c => fmaFl b16 mode (fl a) (fl b) (fl c).negate),
    three (.vfnma f) (fun a b c => fmaFl b16 mode (fl a).negate (fl b) (fl c)),
    two (.vdiv f) (fun a b => divFl b16 mode (fl a) (fl b)),
    one (.vsqrt f) (fun a => sqrtFl b16 mode (fl a)),
    one (.vexp2 f) (fun a => exp2Fl b16 mode (fl a)),
    one (.vlog2 f) (fun a => log2Fl b16 mode (fl a)),
    two (.vmin f) (fun a b => if float then pickFl b16 false a b else (if int a ≤ int b then a else b, 0)),
    two (.vmax f) (fun a b => if float then pickFl b16 true a b else (if int a ≤ int b then b else a, 0)),
    one (.vabs f) (fun a => if float then signElem f.ty true a else (if f.ty = 2 then (if a.toInt < 0 then -a else a) else a, 0)),
    one (.vneg f) (fun a => if float then signElem f.ty false a else (-a, 0)),
    three (.vclamp f) (fun a b c => clampElem f.ty a b c),
    three (.vfcsa f) (fun a b c => scaleAdd mode a b c) ]
  ++
  [ two (.vmulh f) (fun a b => (BitVec.ofInt 32 (int a * int b / 2 ^ 32), 0)),
    two (.vand f) (fun a b => (a &&& b, 0)), two (.vor f) (fun a b => (a ||| b, 0)), two (.vxor f) (fun a b => (a ^^^ b, 0)),
    one (.vnot f) (fun a => (~~~a, 0)),
    two (.vshl f) (fun a b => (a <<< (b.toNat % 32), 0)), two (.vshr f) (fun a b => (a >>> (b.toNat % 32), 0)),
    two (.vsra f) (fun a b => (a.sshiftRight (b.toNat % 32), 0)),
    one (.vpopc f) (fun a => (BitVec.ofNat 32 ((List.range 32).filter a.getLsbD).length, 0)),
    one (.vclz f) (fun a => (BitVec.ofNat 32 (32 - (if a = 0 then 0 else a.toNat.log2 + 1)), 0)),
    two (.vsadd f) (fun a b => (saturate f.ty (int a + int b), 0)), two (.vssub f) (fun a b => (saturate f.ty (int a - int b), 0)),
    two (.vcmp f) (fun a b => compareElem f.ty (f.ext.toNat % 8) a b),
    three (.vsel f) (fun a b c => (if c.getLsbD 0 then a else b, 0)),
    one (.vmov f) (fun a => (a, 0)),
    { instr := .viota f, codes := [f.sa], value := fun c n => (c.srcA n + BitVec.ofNat 32 n, 0) },
    one (.vcvt f) (fun a => convertElem mode (f.ext.toNat % 4) f.ty a),
    one (.vkey f) (fun a => (keyOf f.ty.toNat a, 0)) ]

/-- The cross-lane instructions that place one read element at each index (R342, R345, R353): splat, gather, the slides and conflict detection. -/
def crossTable (f : VFields) : List ElementOp :=
  let all := fun (c : Reading) (j : Nat) => if j < c.total then c.plainA (j / c.v.vl) (j % c.v.vl) else c.v.fill
  let rows := f.ext.getLsbD 0
  let slide := fun (c : Reading) (k : Int) (i : Nat) =>
    if rows then (if 0 ≤ (i % c.v.vl : Nat) + k ∧ (i % c.v.vl : Nat) + k < c.v.vl then c.plainA (i / c.v.vl) ((i % c.v.vl : Nat) + k).toNat else c.v.fill)
    else (if 0 ≤ (i : Int) + k ∧ (i : Int) + k < c.total then all c ((i : Int) + k).toNat else c.v.fill)
  [ { instr := .vsplat f, codes := [f.sa], value := fun c _ => (all c c.count, 0) },
    { instr := .vgath f, codes := [f.sa, f.sb], value := fun c i => (all c (c.srcB i).toNat, 0) },
    { instr := .vslup f, codes := [f.sa], value := fun c i => (slide c (-(c.count : Int)) i, 0) },
    { instr := .vsldn f, codes := [f.sa], value := fun c i => (slide c c.count i, 0) },
    { instr := .vconf f, codes := [f.sa],
      value := fun c i => (BitVec.ofNat 32 ((List.range i).filter (fun j => c.active j && all c j = all c i)).length, 0) } ]

/-- The values that the accesses of one element read, under the accesses' numbers. -/
def readVals (s : State) (tid : Nat) (ps : List (VAcc × Spot)) : List (Nat × Word) :=
  ps.foldl (fun r p => (p.1.idx, (s.vectorRead tid p).1) :: r) []

/-- The element that a checked load gives index `i`, by its format (R255 to R257, R358, R359). -/
def loadedAt (s : State) (tid : Nat) (c : Reading) (good : List Checked) (i : Nat) : Elem :=
  ((good.find? (fun g => g.1.idx = i)).bind (fun g => c.loaded i (readVals s tid g.2))).getD 0

/-- Every access of some checked elements stands in this module. -/
def AllHere (good : List Checked) : Prop := ∀ g ∈ good, ∀ p ∈ g.2, ∃ l key, p.2 = .here l key

/-- The checked elements stand, one access each, in bytes whose home is the die, under one key, with no byte to keep, and none of them
waits behind a buffered store. -/
def PlainHere (s : State) (die : Nat) (key : BitVec 256) (good : List Checked) : Prop :=
  ∀ g ∈ good, ∃ a l, g.2 = [(a, .here l key)] ∧ a.idx = g.1.idx ∧ a.keep = 0 ∧ l.isByte = true ∧ l.home = die ∧ s.egressHolds die l a.n = false

/-- Of checked elements stored in order, each that no later one overlaps stands in memory, and every byte that none covers is as before. -/
structure Stored (s t : State) (die : Nat) (key : BitVec 256) (good : List Checked) : Prop where
  last : ∀ (n : Nat) (g : Checked) (a : VAcc) (l : Loc), good[n]? = some g → g.2 = [(a, .here l key)] →
    (∀ (m : Nat) (h : Checked), n < m → good[m]? = some h → ∀ p ∈ h.2, ∀ k key', p.2 = .here k key' → l.meets a.n k p.1.n = false) →
    Holds t die key l (leBytes a.n a.data.toNat)
  outside : ∀ b, (∀ g ∈ good, ∀ p ∈ g.2, ∀ l k, p.2 = .here l k → l.covers p.1.n b = false) →
    t.homeByte key b = s.homeByte key b ∧ ∀ d, t.loadByte d key b = s.loadByte d key b

/-- The command at place `k` of an engine is `c`, of a code, has no result, has done nothing yet, may start, and its engine has power (R143, R144, R456). -/
structure Starts (s : State) (eng k code : Nat) (c : Cmd) : Prop where
  here : (s.cmds eng)[k]? = some c
  code : c.code = code
  open_ : c.result = none
  may : (if eng < 64 then copyMay eng s ((s.cmds eng).take k) c else pageMay s ((s.cmds eng).take k) c) = true
  power : s.powered (engineDie eng) = true
  fresh : c.done = 0 ∧ c.buf = [] ∧ c.run = none ∧ c.req = none ∧ c.wr = 0 ∧ c.mem = []

/-- The command as it has started, and the state in which its engine then acts. -/
def Cmd.begun (c : Cmd) : Cmd := { c with started := true }
def State.begun (s : State) (eng : Nat) (c : Cmd) : State := s.setCmd eng c.begun

/-- The command at place `k` has ended with a status and a value, and waits to be posted (R434). -/
def Posts (u : State) (eng k : Nat) (c : Cmd) (status value : Nat) : Prop :=
  ∃ x r, (u.cmds eng)[k]? = some x ∧ x.id = c.id ∧ x.result = some r ∧
    r.word = BitVec.ofNat 64 (status * 2 ^ 56 + bits c.header 47 40 * 2 ^ 48 + value)

end Sys2Proof.Machine

/-- The rows of the table that have no word: engine commands, which a thread enters as header and argument words, and the events of
the units, the fabric, the host and the platform (R430). -/
def Sys2Proof.Instr.wordless : Instr → Bool
  | .copy2d .. | .filltile .. | .zeroMemory .. | .zeroSlot .. | .slabnew .. | .slabgrow .. | .slabfree .. | .exportPrefix ..
  | .importPrefix .. | .promote .. | .demote .. | .redalloc .. | .redfree .. | .pullset .. | .mcast .. | .engineResultPost ..
  | .vcqEntryExecute .. | .splitChange .. | .runaheadLoad .. | .egressStorePerform .. | .syncMirrorUpdate .. | .pageWalk .. | .wfeWake ..
  | .registerRetention .. | .takeHeldTrap .. | .watchdogExpiry .. | .wmuStep .. | .wmacsBlockStart .. | .wmacsDrainRun ..
  | .quantumExpiry .. | .starveRaise .. | .domstop .. | .fqresRetry .. | .fqresRefuse .. | .wdogWrite .. | .tstatusVhDiscard ..
  | .tstatusWhDiscard .. | .registerWrite .. | .agingCheck .. | .demotionDone .. | .promotionDone .. | .parkSaveDone .. | .hotWindowDone ..
  | .hotWindowFail .. | .slabChunkCopied .. | .hostAccessHoldTimeout .. | .fabricTargetRequest .. | .keepWaitingNotice ..
  | .noticeReceived .. | .fabricReply .. | .fabricTimeout .. | .combineArrival .. | .decombineReply .. | .decombineRecordDrop ..
  | .linkCrcError .. | .linkRetrainFail .. | .reductionLineArrival .. | .pullLoad .. | .migrate .. | .handoverDrained ..
  | .handoverCopied .. | .handoverShootdownDone .. | .handoverFreeFrame .. | .raceRoundDecide .. | .hostWindowRead .. | .hostWindowWrite ..
  | .start .. | .hwbase .. | .mbxbase .. | .getMeasurements .. | .keyExchange .. | .setkey .. | .clrkey .. | .settenant .. | .bindtag ..
  | .tdispMessage .. | .stopInterface .. | .ideKm .. | .firmwareUpdate .. | .moduleReset .. | .powerCap .. | .dieThrottle ..
  | .dieShutdown .. | .coreFence .. | .pldmMonitoring .. | .illegalInstruction .. | .instructionFetchFault .. | .eccError ..
  | .endSession .. | .createVirtualInterface .. | .linkRetrainDone .. | .fabricNodeFailure .. | .powerFail .. | .coolantLimit ..
  | .firmwareMailboxRequest .. | .egressQueueDeparture .. | .raceBestReceived .. => true
  | _ => false
end

