-- ==== Sys2Proof/Certificates/Slice0/Obligations.lean ====
section
/-! DEFINITION. The statements about the model, each with the rules of spec/ or the sections it rests on. -/

open Sys2Proof
open Sys2Proof.Machine

/-- Every register operation answers the state in which gd holds the operation's result on the sources as they stood (also where gd is a source), g0 discards it, every other register keeps its value, the pc moves on by 4 and nothing else in the module changes; products are stated as bits of the 128-bit product, CLZ by the position of the highest one bit, POPC as the number of one bits. The immediate operations, LIMC and ADDPC complete in every state with the result the tables give: ADDI, SLTI and SLTNI sign-extend the immediate and ANDI, ORI and XORI zero-extend it, the shifts take a 6-bit count, LIMC replaces the 16 bits of its chunk and keeps the other 48 of gd (bit by bit), and ADDPC adds the sign-extended immediate times 4 to the pc; no other register and nothing else changes. -/
def Obligations.RegisterOperations : Prop :=
  (∀ (s : State) (d a b : Reg),
    let x := s.reg s.cur a
    let y := s.reg s.cur b
    let Gives := fun (i : Instr) (v : Word) => ∃ t, exec i s = .next t ∧ Wrote s t s.cur d v ((s.thread s.cur).pc + 4)
    Gives (.add d a b) (x + y) ∧ Gives (.sub d a b) (x - y)
    ∧ Gives (.and d a b) (x &&& y) ∧ Gives (.or d a b) (x ||| y) ∧ Gives (.xor d a b) (x ^^^ y)
    ∧ Gives (.shl d a b) (x <<< (y.toNat % 64)) ∧ Gives (.shr d a b) (x >>> (y.toNat % 64))
    ∧ Gives (.sra d a b) (x.sshiftRight (y.toNat % 64))
    ∧ Gives (.mul d a b) ((x.setWidth 128 * y.setWidth 128).extractLsb' 0 64)
    ∧ Gives (.mulh d a b) ((x.signExtend 128 * y.signExtend 128).extractLsb' 64 64)
    ∧ Gives (.mulhn d a b) ((x.setWidth 128 * y.setWidth 128).extractLsb' 64 64)
    ∧ Gives (.div d a b) (if y = 0 then 0xFFFFFFFFFFFFFFFF else x.sdiv y) ∧ Gives (.rem d a b) (x.srem y)
    ∧ Gives (.divn d a b) (if y = 0 then 0xFFFFFFFFFFFFFFFF else x / y) ∧ Gives (.remn d a b) (x % y)
    ∧ Gives (.slt d a b) (if x.toInt < y.toInt then 1 else 0) ∧ Gives (.sltn d a b) (if x.toNat < y.toNat then 1 else 0)
    ∧ Gives (.min d a b) (BitVec.ofInt 64 (Min.min x.toInt y.toInt)) ∧ Gives (.max d a b) (BitVec.ofInt 64 (Max.max x.toInt y.toInt))
    ∧ Gives (.minn d a b) (BitVec.ofNat 64 (Min.min x.toNat y.toNat)) ∧ Gives (.maxn d a b) (BitVec.ofNat 64 (Max.max x.toNat y.toNat))
    ∧ (∃ n, n ≤ 64 ∧ x.toNat < 2 ^ (64 - n) ∧ (n < 64 → 2 ^ (63 - n) ≤ x.toNat) ∧ Gives (.clz d a) (BitVec.ofNat 64 n))
    ∧ Gives (.popc d a) (BitVec.ofNat 64 ((List.range 64).filter x.getLsbD).length))
  ∧ (∀ (s : State) (d a : Reg) (i : BitVec 16) (n : BitVec 6) (c : BitVec 2),
    let x := s.reg s.cur a
    let pc := (s.thread s.cur).pc
    let Gives := fun (i : Instr) (v : Word) => ∃ t, exec i s = .next t ∧ Wrote s t s.cur d v (pc + 4)
    Gives (.addi d a i) (x + i.signExtend 64) ∧ Gives (.andi d a i) (x &&& i.setWidth 64)
    ∧ Gives (.ori d a i) (x ||| i.setWidth 64) ∧ Gives (.xori d a i) (x ^^^ i.setWidth 64)
    ∧ Gives (.shli d a n) (x <<< n.toNat) ∧ Gives (.shri d a n) (x >>> n.toNat) ∧ Gives (.srai d a n) (x.sshiftRight n.toNat)
    ∧ Gives (.slti d a i) (if x.toInt < i.toInt then 1 else 0)
    ∧ Gives (.sltni d a i) (if x.toNat < (i.signExtend 64).toNat then 1 else 0)
    ∧ Gives (.addpc d i) (BitVec.ofInt 64 (pc.toInt + i.toInt * 4))
    ∧ (∃ v : Word, Gives (.limc d c i) v
        ∧ ∀ k, k < 64 → v.getLsbD k = if k / 16 = c.toNat then i.getLsbD (k % 16) else (s.reg s.cur d).getLsbD k))

/-- DIV, DIVN, REM and REMN always complete, write gd and change nothing else but the pc; a zero divisor gives a quotient of all ones and the dividend as remainder; for −2^63 by −1 the quotient is −2^63 and the remainder 0; in every other case dividend = quotient × divisor + remainder exactly, the remainder is smaller in magnitude than the divisor, and the signed remainder has the sign of the dividend. -/
def Obligations.Divisions : Prop :=
  ∀ (s : State) (d a b : Reg),
    let x := s.reg s.cur a
    let y := s.reg s.cur b
    let Gives := fun (i : Instr) (v : Word) => ∃ t, exec i s = .next t ∧ Wrote s t s.cur d v ((s.thread s.cur).pc + 4)
    ∃ q r qn rn : Word,
      Gives (.div d a b) q ∧ Gives (.rem d a b) r ∧ Gives (.divn d a b) qn ∧ Gives (.remn d a b) rn
      ∧ (if y = 0 then q = 0xFFFFFFFFFFFFFFFF ∧ r = x ∧ qn = 0xFFFFFFFFFFFFFFFF ∧ rn = x
         else
           (if x.toInt = -(2 ^ 63) ∧ y.toInt = -1 then q = x ∧ r = 0
            else x.toInt = q.toInt * y.toInt + r.toInt ∧ r.toInt.natAbs < y.toInt.natAbs ∧ (0 ≤ x.toInt → 0 ≤ r.toInt) ∧ (x.toInt ≤ 0 → r.toInt ≤ 0))
           ∧ x.toNat = qn.toNat * y.toNat + rn.toNat ∧ rn.toNat < y.toNat)

/-- A branch continues at pc + sext(off16) × 4 when its condition on the two registers holds and at pc + 4 otherwise, and writes no register; JMP continues at pc + sext(off26) × 4, CALL does the same and sets g31 to pc + 4, and JMPR computes ga + sext(imm16) from the registers as they stood, sets gd to pc + 4 and continues there, aligned or not (a misaligned target is the next fetch's fault); nothing else changes and none of them traps. -/
def Obligations.BranchesAndJumps : Prop :=
  ∀ (s : State) (d a b : Reg) (i : BitVec 16) (j : BitVec 26),
    let x := s.reg s.cur a
    let y := s.reg s.cur b
    let pc := (s.thread s.cur).pc
    let goal := fun (k : Int) => BitVec.ofInt 64 (pc.toInt + k * 4)
    let Goes := fun (i : Instr) (d : Reg) (v pc' : Word) => ∃ t, exec i s = .next t ∧ Wrote s t s.cur d v pc'
    let Branches := fun (br : Instr) (taken : Prop) => (taken → Goes br 0 0 (goal i.toInt)) ∧ (¬ taken → Goes br 0 0 (pc + 4))
    Branches (.beq a b i) (x = y) ∧ Branches (.bne a b i) (x ≠ y)
    ∧ Branches (.blt a b i) (x.toInt < y.toInt) ∧ Branches (.bge a b i) (y.toInt ≤ x.toInt)
    ∧ Branches (.bltn a b i) (x.toNat < y.toNat) ∧ Branches (.bgen a b i) (y.toNat ≤ x.toNat)
    ∧ Goes (.jmp j) 0 0 (goal j.toInt) ∧ Goes (.call j) 31 (pc + 4) (goal j.toInt)
    ∧ Goes (.jmpr d a i) d (pc + 4) (x + i.signExtend 64)

/-- An LD of a thread that waits for nothing and has bound nothing ahead (R130), whose access passes every check of R35 and reaches a byte location of this module that holds no struck data, writes to gd the little-endian value of its n bytes as its die reads them, sign-extended for the codes .8i, .16i and .32i and zero-extended for the others, retires, and leaves every byte of memory, every cell, every other register and every other thread as they stood once the access had been translated; a load of a cell gives the mirror of the reader's die. -/
def Obligations.ScalarLoads : Prop :=
  ∀ (s s' : State) (g a : Reg) (c : BitVec 3) (p : BitVec 2) (o : BitVec 11) (l : Loc) (key : BitVec 256),
    let tid := s.cur
    let n := 2 ^ (c.toNat / 2)
    (s.thread tid).wait = .none → (s.thread tid).early = none → c ≠ 7 →
    Reaches ((s.orderScalar tid).forgetEarly tid) tid .read (n = 8) p (s.reg tid a + o.signExtend 64) n l key s' →
    s'.readsPoison (tid / 64) l n = false →
    ∃ t, Ends (.ld g a c p o) s t ∧ KeepsMemory s' t ∧ t.cells = s'.cells
      ∧ (∀ r, r ≠ g → t.reg tid r = s'.reg tid r) ∧ (∀ x, x ≠ tid → t.thread x = s'.thread x)
      ∧ (t.thread tid).pc = (s'.thread tid).pc + 4
      ∧ t.reg tid g = (if g = 0 then 0 else match l with
          | .cell d i => extendLoad c (s'.mirror (tid / 64) d i)
          | _ => let v := leNat (s'.loadBytes (tid / 64) key l n)
                 if c = 0 ∨ c = 2 ∨ c = 4 then BitVec.ofInt 64 (if v < 2 ^ (8 * n - 1) then v else v - 2 ^ (8 * n)) else BitVec.ofNat 64 v)

/-- An ST whose effect is not deferred, whose access passes every check of R35 and reaches HBM or scratchpad bytes whose home is the thread's own die, leaves those n bytes reading as the low n bytes of g in little-endian order, every other byte (read with the key it was stored under), every cell, every register and every other thread as they stood once the access had been translated, and retires; the address is the one R302 computes, ga + sext(off11). An ST whose effect is not deferred and whose access reaches bytes of another die's home enters the youngest place of its die's egress buffer with the task in its cumulative set: its own die then reads the stored bytes, while the home value of every byte and what every other die reads stay as they were. -/
def Obligations.ScalarStores : Prop :=
  (∀ (s s' : State) (g a : Reg) (c : BitVec 3) (p : BitVec 2) (o : BitVec 11) (l : Loc) (key : BitVec 256),
    let tid := s.cur
    let n := 2 ^ (c.toNat / 2)
    s.defer = false → c ≠ 7 →
    Reaches ((s.orderScalar tid).forgetEarly tid) tid .write (n = 8) p (s.reg tid a + o.signExtend 64) n l key s' →
    s'.defer = false → l.isByte → l.home = tid / 64 → s'.egressHolds (tid / 64) l n = false →
    ∃ t, Ends (.st g a c p o) s t
      ∧ Holds t (tid / 64) key l (leBytes n (s.reg tid g).toNat)
      ∧ KeepsOutside s' t key l n
      ∧ (∀ r, t.reg tid r = s'.reg tid r) ∧ (∀ x, x ≠ tid → t.thread x = s'.thread x)
      ∧ (t.thread tid).pc = (s'.thread tid).pc + 4)
  ∧ (∀ (s s' : State) (g a : Reg) (c : BitVec 3) (p : BitVec 2) (o : BitVec 11) (l : Loc) (key : BitVec 256),
    let tid := s.cur
    let n := 2 ^ (c.toNat / 2)
    s.defer = false → c ≠ 7 →
    Reaches ((s.orderScalar tid).forgetEarly tid) tid .write (n = 8) p (s.reg tid a + o.signExtend 64) n l key s' →
    s'.defer = false → l.isByte → l.home ≠ tid / 64 →
    ∃ t e, Ends (.st g a c p o) s t
      ∧ (t.die (tid / 64)).egress = (s'.die (tid / 64)).egress ++ [e]
      ∧ e.loc = l ∧ e.data = leBytes n (s.reg tid g).toNat ∧ e.owners = [(s'.thread tid).uid] ∧ e.req = none
      ∧ Holds t (tid / 64) key l (leBytes n (s.reg tid g).toNat)
      ∧ (∀ k b, t.homeByte k b = s'.homeByte k b) ∧ (∀ d, d ≠ tid / 64 → ∀ k b, t.loadByte d k b = s'.loadByte d k b)
      ∧ (∀ r, t.reg tid r = s'.reg tid r) ∧ (t.thread tid).pc = (s'.thread tid).pc + 4)

/-- An AMO of a thread that waits for nothing, whose address passes every check, whose release (if its order holds one) is ready and leads to s'', and whose location is HBM or scratchpad that no buffered store of its die touches and no struck data lies in, writes to memory the W-bit value R305 gives from the old value and gb (nothing for a failed CAS), gives gd the old value zero-extended for MINN and MAXN and sign-extended from W bits for every other op, retires, and leaves every other byte, cell, register and thread as in s''. -/
def Obligations.ScalarAtomics : Prop :=
  ∀ (s s' s'' : State) (d a b : Reg) (lo w : BitVec 1) (o : BitVec 2) (c : BitVec 3) (l : Loc) (key : BitVec 256),
    let tid := s.cur
    let n := if w = 1 then 8 else 4
    (s.thread tid).wait = .none →
    Reaches ((s.orderScalar tid).forgetEarly tid) tid .atomic false (if lo = 1 then spaceLocal else spaceGlobal) (s.reg tid a) n l key s' →
    (if orderReleases o then s'.releaseReady tid c else .ok s') = .ok s'' →
    l.isByte → s''.egressHolds (tid / 64) l n = false → (s''.poison = [] ∨ s''.poisoned l n = false) →
    let old := leNat ((List.range n).map (fun i => s''.homeByte key (l.plus i)))
    let m := 2 ^ (8 * n)
    let bv := (s.reg tid b).toNat % m
    let sg := fun (x : Nat) => if x < m / 2 then (x : Int) else x - m
    let Does := fun (i : Instr) (new : Option Nat) (zext : Bool) => ∃ t, Ends i s t
      ∧ t.reg tid d = (if d = 0 then 0 else if zext then BitVec.ofNat 64 old else BitVec.ofInt 64 (sg old))
      ∧ (∀ r, r ≠ d → t.reg tid r = s''.reg tid r) ∧ (∀ x, x ≠ tid → t.thread x = s''.thread x) ∧ (t.thread tid).pc = (s''.thread tid).pc + 4
      ∧ (match new with
          | some v => (List.range n).map (fun i => t.homeByte key (l.plus i)) = leBytes n v ∧ KeepsOutside s'' t key l n
          | none => KeepsMemory s'' t)
    Does (.amoAdd d a b lo o c w) (some ((old + bv) % m)) false
    ∧ Does (.amoAnd d a b lo o c w) (some (old &&& bv)) false
    ∧ Does (.amoOr d a b lo o c w) (some (old ||| bv)) false
    ∧ Does (.amoXor d a b lo o c w) (some (old ^^^ bv)) false
    ∧ Does (.amoSwp d a b lo o c w) (some bv) false
    ∧ Does (.amoCas d a b lo o c w) (if old = (s.reg tid d).toNat % m then some bv else none) false
    ∧ Does (.amoMin d a b lo o c w) (some (if sg bv < sg old then bv else old)) false
    ∧ Does (.amoMax d a b lo o c w) (some (if sg old < sg bv then bv else old)) false
    ∧ Does (.amoMinn d a b lo o c w) (some (Min.min old bv)) true
    ∧ Does (.amoMaxn d a b lo o c w) (some (Max.max old bv)) true

/-- With its index below the interface's count, and once the issued scalar stores to this module are in effect (each is an access of the scalar stream): SYRD gives gd the mirror of the reader's die; with a release that its order holds ready (leading to s1) and no buffered store to the cell, SYADD adds gb to the cell and SYTAS writes gb to a cell that reads zero and leaves any other alone, both giving gd the old home value; the cell's home shows the new value at once, the mirrors of the other dies keep theirs until SYNC_MIRROR_UPDATE, and no byte of memory, no other cell, register or thread changes. SYADD, SYTAS and an acquiring SYRD forget what a later load has bound ahead, and a relaxed SYRD keeps it: that is the model's reading (log 94). -/
def Obligations.SynchronisationCells : Prop :=
  ∀ (s s1 : State) (d a b : Reg) (o : BitVec 2) (o1 : BitVec 1) (c : BitVec 3),
    let tid := s.cur
    let ea := (s.reg tid a).toNat
    let s0 := (s.orderScalar tid).forgetEarly tid
    let sr := if o1 = 1 then s0 else s.orderScalar tid
    let v := s.vi (s.thread tid).vi
    let die := ea / 2 ^ 12 % 4
    let i := v.syncFirst + ea % 2 ^ 12
    let gb := s.reg tid b
    (s.thread tid).wait = .none → ea < 2 ^ 14 → ea % 2 ^ 12 < v.syncCount →
    let Does := fun (ins : Instr) (s2 : State) (new gd : Word) => ∃ t, Ends ins s t
      ∧ t.cell die i = new ∧ (∀ x y, x * 4096 + y ≠ die * 4096 + i → t.cell x y = s2.cell x y)
      ∧ (∀ x, (t.die x).mirrors = (s2.die x).mirrors)
      ∧ (∀ k x, t.homeByte k x = s2.homeByte k x) ∧ (∀ x, x ≠ tid → t.thread x = s2.thread x)
      ∧ t.reg tid d = (if d = 0 then 0 else gd) ∧ (∀ r, r ≠ d → t.reg tid r = s2.reg tid r)
      ∧ (t.thread tid).pc = (s2.thread tid).pc + 4
    Does (.syrd d a o1 c) sr (sr.cell die i) (sr.mirror (tid / 64) die i)
    ∧ ((if orderReleases o then s0.releaseReady tid c else .ok s0) = .ok s1 → s1.egressHolds (tid / 64) (.cell die i) 8 = false →
        let old := s1.cell die i
        Does (.syadd d a b o c) s1 (old + gb) old ∧ Does (.sytas d a b o c) s1 (if old = 0 then gb else old) old)

/-- A load or store whose effective address is not a multiple of its size traps MISALIGN; a local address at or beyond 2^22 and a peer address at or beyond 2^28 trap SPACE_RANGE; a sync access narrower than 8 bytes traps SPACE_RANGE; a global address whose bits [63:56] do not repeat bit 55 traps CANONICAL: each is an instruction trap with the address in TVAL, after the thread's issued stores to this module have taken effect. A sync address with an index at or above the window's count, or with a bit above 13 set, traps SYNC_RANGE in a 64-bit LD or ST, SYADD, SYTAS and SYRD; a peer access of LD, ST or WFE to a core that is fenced, or that no gang of the task's interface and fault domain holds, traps PEER_ABSENT; an AMO traps MISALIGN, SPACE_RANGE or CANONICAL by its width and its space, and a WFE likewise by its 8 bytes, and SPACE_RANGE for a sync address. -/
def Obligations.AccessChecks : Prop :=
  (∀ (s : State) (g a : Reg) (c : BitVec 3) (p : BitVec 2) (o : BitVec 11) (cause : BitVec 6),
    let tid := s.cur
    let n := 2 ^ (c.toNat / 2)
    let ea := s.reg tid a + o.signExtend 64
    (s.thread tid).wait = .none → s.defer = false → c ≠ 7 →
    ((p = spaceSync ∧ n ≠ 8 ∧ cause = causeSpaceRange)
      ∨ (p ≠ spaceSync ∧ ea.toNat % n ≠ 0 ∧ cause = causeMisalign)
      ∨ (p = spaceLocal ∧ ea.toNat % n = 0 ∧ 2 ^ 22 ≤ ea.toNat ∧ cause = causeSpaceRange)
      ∨ (p = spacePeer ∧ ea.toNat % n = 0 ∧ 2 ^ 28 ≤ ea.toNat ∧ cause = causeSpaceRange)
      ∨ (p = spaceGlobal ∧ ea.toNat % n = 0 ∧ ¬ (ea.toNat < 2 ^ 55 ∨ 2 ^ 64 - 2 ^ 55 ≤ ea.toNat) ∧ cause = causeCanonical)) →
    Ends (.ld g a c p o) s (((s.orderScalar tid).forgetEarly tid).takeTrap tid cause ea (some 0) false)
    ∧ Ends (.st g a c p o) s (((s.orderScalar tid).forgetEarly tid).takeTrap tid cause ea (some 1) false))
  ∧ (∀ (s : State) (g d a b : Reg) (c sc : BitVec 3) (p o : BitVec 2) (lo w o1 : BitVec 1) (off : BitVec 11),
    let tid := s.cur
    let t := s.thread tid
    let s0 := (s.orderScalar tid).forgetEarly tid
    let sr := if o1 = 1 then s0 else s.orderScalar tid
    let x := s.reg tid a
    let ea := x + off.signExtend 64
    let n := 2 ^ (c.toNat / 2)
    let m := if w = 1 then 8 else 4
    let amos := [Instr.amoAdd d a b lo o sc w, .amoAnd d a b lo o sc w, .amoOr d a b lo o sc w, .amoXor d a b lo o sc w, .amoSwp d a b lo o sc w,
      .amoCas d a b lo o sc w, .amoMin d a b lo o sc w, .amoMax d a b lo o sc w, .amoMinn d a b lo o sc w, .amoMaxn d a b lo o sc w]
    let Traps := fun (i : Instr) (u : State) (cause : BitVec 6) (y kind : Word) => Ends i s (u.takeTrap tid cause y (some kind) false)
    let noCell := fun (y : Word) => 2 ^ 14 ≤ y.toNat ∨ (s.vi t.vi).syncCount ≤ y.toNat % 2 ^ 12
    let region := s0.regionOf (s0.thread tid)
    let absent := fun (k : Nat) => (s0.core k).fenced = true ∨ ∀ key h, s0.gangOn k = some (key, h) →
      h.vi ≠ t.vi ∨ (h.region ≠ region ∧ ¬ ∃ r, s0.domain t.vi region = some r ∧ s0.domain t.vi h.region = some r)
    let wide := fun (y : Word) => ¬ (y.toNat < 2 ^ 55 ∨ 2 ^ 64 - 2 ^ 55 ≤ y.toNat)
    t.wait = .none → s.defer = false →
    (noCell ea → Traps (.ld g a 6 spaceSync off) s0 causeSyncRange ea 0 ∧ Traps (.st g a 6 spaceSync off) s0 causeSyncRange ea 1)
    ∧ (noCell x → Traps (.syadd d a b o sc) s0 causeSyncRange x 3 ∧ Traps (.sytas d a b o sc) s0 causeSyncRange x 3 ∧ Traps (.syrd d a o1 sc) sr causeSyncRange x 0)
    ∧ (c ≠ 7 → ea.toNat % n = 0 → ea.toNat < 2 ^ 28 → absent (ea.toNat / 2 ^ 22) →
        Traps (.ld g a c spacePeer off) s0 causePeerAbsent ea 0 ∧ Traps (.st g a c spacePeer off) s0 causePeerAbsent ea 1)
    ∧ (x.toNat % 8 = 0 → x.toNat < 2 ^ 28 → absent (x.toNat / 2 ^ 22) → Traps (.wfe d a b spacePeer) s0 causePeerAbsent x 0)
    ∧ (∀ i ∈ amos, (x.toNat % m ≠ 0 → Traps i s0 causeMisalign x 3)
        ∧ (lo = 1 → x.toNat % m = 0 → 2 ^ 22 ≤ x.toNat → Traps i s0 causeSpaceRange x 3) ∧ (lo = 0 → x.toNat % m = 0 → wide x → Traps i s0 causeCanonical x 3))
    ∧ ((p = spaceSync → Traps (.wfe d a b p) s0 causeSpaceRange x 0) ∧ (p ≠ spaceSync → x.toNat % 8 ≠ 0 → Traps (.wfe d a b p) s0 causeMisalign x 0)
        ∧ (x.toNat % 8 = 0 → (p = spaceLocal ∧ 2 ^ 22 ≤ x.toNat) ∨ (p = spacePeer ∧ 2 ^ 28 ≤ x.toNat) → Traps (.wfe d a b p) s0 causeSpaceRange x 0)
        ∧ (x.toNat % 8 = 0 → p = spaceGlobal → wide x → Traps (.wfe d a b p) s0 causeCanonical x 0)))

/-- Where the first three checks of R238 pass, CSRR completes with the register's value (csrValue) in gd, once the vector work before it has drained where the register asks for that; CSRW, CSRS and CSRC of a writable register that takes effect at once complete with the effect of the register (csrStore) on ga, on old OR ga and on old AND NOT ga and with the old value in gd, when the first two set no reserved bit and the register's own rule does not refuse the value; CSRW, CSRS and CSRC of a queued register complete by entering the queue while it holds fewer than 32 entries, and change no scalar register. CSRs 0x030 to 0x037 and 0x80C read TCAUSE, TPC, TVAL, TSEQ, TBLK, TSTATUS (WH at bit 7, VH at 6, RET at 5, NEST at 3, PPRIV in [1:0]), TVEC, TSCRATCH and TVADDR; 0x042, 0x043 and 0x045 the core, die and thread numbers; MAXL reads 256, 128 or 64 for a split of 1, 2 or 4 and MAXR reads 8; VSEQ, VL and VR read the latest of program order, and CYCLE, ICOUNT and AGECLK their counts; TCAUSE, TPC, TVAL, TVEC, TSCRATCH, WDOG and ASTBASE read back what was written (TCAUSE its low six bits). -/
def Obligations.CsrReadsAndWrites : Prop :=
  (∀ (s : State) (d a : Reg) (f : BitVec 12),
    let tid := s.cur
    let x := s.reg tid a
    let old := csrValue s tid f
    let Completes := fun (i : Instr) (u : State) => exec i s = .next u.settle
    let Writes := fun (i : Instr) (new : Word) => csrRefuses s tid f new = false → Completes i (((csrStore s tid f new).setReg tid d old).retire tid)
    let Queues := fun (i : Instr) (mode : Nat) => ∃ t, Completes i t ∧ (t.vthread tid).work.vcq = (s.vthread tid).work.vcq ++
      [{ seq := (s.thread tid).vseq + 1, op := .csr f mode x, nested := (s.thread tid).nest || (s.thread tid).vh, aside := (s.thread tid).wh }]
      ∧ (∀ r, t.reg tid r = s.reg tid r) ∧ (t.thread tid).pc = (s.thread tid).pc + 4
    csrMapped f = true → f.toNat < 0xC00 → (isSupervisorCsr f = true → (s.thread tid).priv = .supervisor) →
    (isVectorCsr f = true → s.hasVector tid = true) →
    ((csrWaits f = true → s.vectorQuiet tid = true) → Completes (.csrr d f) ((s.setReg tid d old).retire tid))
    ∧ ∀ m, csrMask f = some m →
        (csrQueued f = false →
          (x &&& ~~~m = 0 → Writes (.csrw d a f) x) ∧ ((old ||| x) &&& ~~~m = 0 → Writes (.csrs d a f) (old ||| x))
          ∧ Writes (.csrc d a f) (old &&& ~~~x))
        ∧ (csrQueued f = true → (s.vthread tid).work.entries < 32 →
          (x &&& ~~~m = 0 → Queues (.csrw d a f) 1 ∧ Queues (.csrs d a f) 2) ∧ Queues (.csrc d a f) 3))
  ∧ (∀ (s : State) (v : Word),
    let tid := s.cur
    let t := s.thread tid
    csrValue s tid 0x030 = t.tcause.setWidth 64 ∧ csrValue s tid 0x031 = t.tpc ∧ csrValue s tid 0x032 = t.tval
    ∧ csrValue s tid 0x033 = t.tseq.setWidth 64 ∧ csrValue s tid 0x034 = t.tblk.setWidth 64
    ∧ (∀ k, k < 64 → (csrValue s tid 0x035).getLsbD k =
        ((k = 7 && t.wh) || (k = 6 && t.vh) || (k = 5 && t.ret) || (k = 3 && t.nest) || (decide (k < 2) && t.ppriv.getLsbD k)))
    ∧ csrValue s tid 0x036 = t.tvec ∧ csrValue s tid 0x037 = t.tscratch ∧ csrValue s tid 0x80C = t.tvaddr
    ∧ (csrValue s tid 0x042).toNat = tid / 4 % 2 ^ 64 ∧ (csrValue s tid 0x043).toNat = tid / 64 % 2 ^ 64 ∧ (csrValue s tid 0x045).toNat = tid % 4
    ∧ csrValue s tid 0x002 = (match (s.core (tid / 4)).split with | 1 => 256 | 2 => 128 | _ => 64) ∧ csrValue s tid 0x003 = 8
    ∧ csrValue s tid 0x006 = t.vseq.setWidth 64 ∧ (csrValue s tid 0x000).toNat = t.pvl % 2 ^ 64 ∧ (csrValue s tid 0x001).toNat = t.pvr % 2 ^ 64
    ∧ (csrValue s tid 0x050).toNat = (s.core (tid / 4)).cycle % 2 ^ 64 ∧ (csrValue s tid 0x051).toNat = t.icount % 2 ^ 64
    ∧ (csrValue s tid 0x052).toNat = (s.die (tid / 64)).ageclk % 2 ^ 64
    ∧ csrValue (csrStore s tid 0x030 v) tid 0x030 = v &&& 0x3F
    ∧ csrValue (csrStore s tid 0x031 v) tid 0x031 = v ∧ csrValue (csrStore s tid 0x032 v) tid 0x032 = v
    ∧ csrValue (csrStore s tid 0x036 v) tid 0x036 = v ∧ csrValue (csrStore s tid 0x037 v) tid 0x037 = v
    ∧ csrValue (csrStore s tid 0x80B v) tid 0x80B = v ∧ csrValue (csrStore s tid 0x800 v) tid 0x800 = v)

/-- A CSR instruction on a number that the map leaves reserved raises ILLEGAL at any privilege; else a supervisor CSR accessed in task privilege and every firmware CSR raise PRIV; else a vector CSR accessed by a thread without a vector thread raises BAD_SPLIT; else a write to a read-only CSR, and a CSRW or CSRS whose new value (for a queued CSR: whose ga) sets a reserved bit, raise ILLEGAL: always the instruction trap with its word in TVAL, and nothing else changed. In supervisor privilege a CSRW, CSRS or CSRC of TSTATUS whose new value would set VH or WH from 0 to 1, or change RET, raises ILLEGAL with its word in TVAL and changes nothing else. -/
def Obligations.CsrRefusals : Prop :=
  (∀ (s : State) (d a : Reg) (f : BitVec 12),
    let tid := s.cur
    let x := s.reg tid a
    let All := fun (cause : BitVec 6) => ∀ i ∈ [Instr.csrr d f, .csrw d a f, .csrs d a f, .csrc d a f], Ends i s (s.takeTrap tid cause i.word none false)
    let Some := fun (l : List Instr) => ∀ i ∈ l, Ends i s (s.takeTrap tid causeIllegal i.word none false)
    if csrMapped f = false then All causeIllegal
    else if 0xC00 ≤ f.toNat ∨ (isSupervisorCsr f = true ∧ (s.thread tid).priv = .task) then All causePriv
    else if isVectorCsr f = true ∧ s.hasVector tid = false then All causeBadSplit
    else match csrMask f with
      | none => Some [.csrw d a f, .csrs d a f, .csrc d a f]
      | some m => (x &&& ~~~m ≠ 0 → Some [.csrw d a f]) ∧ ((if csrQueued f then x else csrValue s tid f ||| x) &&& ~~~m ≠ 0 → Some [.csrs d a f]))
  ∧ (∀ (s : State) (d a : Reg),
    let tid := s.cur
    let t := s.thread tid
    let x := s.reg tid a
    let old := csrValue s tid 0x035
    t.priv = .supervisor →
    ∀ p ∈ [(Instr.csrw d a 0x035, x), (.csrs d a 0x035, old ||| x), (.csrc d a 0x035, old &&& ~~~x)],
      (p.2.getLsbD 6 = true ∧ t.vh = false) ∨ (p.2.getLsbD 7 = true ∧ t.wh = false) ∨ p.2.getLsbD 5 ≠ t.ret →
      Ends p.1 s (s.takeTrap tid causeIllegal p.1.word none false))

/-- With NEST = 0, TVEC not zero and nothing waiting, TRAP answers the state at TVEC in supervisor privilege with TCAUSE TRAP_INSN, TVAL the code, TPC the next instruction and RET = 1, counted as retired; BRK the one with BREAK, TVAL 0, TPC its own address and RET = 0, not counted; both set NEST, save the privilege in PPRIV, zero TSEQ, TBLK and TVADDR, and change no other register, no memory and no other thread. Where NEST is 1 or TVEC is 0, taking a trap of any cause adds the stop of the task's region with reason 2 (DOUBLE_FAULT) to the stops that are due, and changes no register, privilege, pc or trap register of any thread but the wait it abandons. -/
def Obligations.TrapAndBreak : Prop :=
  (∀ (s : State) (c : BitVec 12),
    let tid := s.cur
    let t := s.thread tid
    t.nest = false → t.tvec ≠ 0 → t.wait = .none → (∀ n, (s.core (tid / 4)).pendSplit ≠ some (n, tid)) →
    (∃ u, Ends (.trap c) s u ∧ Trapped s u tid causeTrapInsn (c.setWidth 64) (t.pc + 4) true ∧ (u.thread tid).icount = t.icount + 1)
    ∧ (∃ u, Ends .brk s u ∧ Trapped s u tid causeBreak 0 t.pc false ∧ (u.thread tid).icount = t.icount))
  ∧ (∀ (s : State) (tid : Nat) (cause : BitVec 6) (tval : Word) (x : Option Word) (retired : Bool),
    let t := s.thread tid
    let u := s.takeTrap tid cause tval x retired
    (t.nest = true ∨ t.tvec = 0) →
    u.hub.stops = s.hub.stops ++ [(t.vi, s.regionOf t, 2)]
    ∧ (∀ y, { u.thread y with wait := .none } = { s.thread y with wait := .none }))

/-- RTE completes in supervisor privilege with PPRIV 00 or 01 and, where vector work is held, the thread's queue empty and none of its vector instructions executing: held vector work becomes the thread's vector work again (its VSTART and popped groups with it) with no scalar store before it still to take effect, and VH is 0; held WMU operations stand behind those of the unit, in their order and at their steps, and WH is 0; the privilege is PPRIV, NEST is 0, the thread stands at TPC, and every general register and every other thread keeps its value; with nothing held HBM, cores and dies are untouched. In task privilege RTE raises PRIV and with PPRIV 10 or 11 ILLEGAL, with the RTE word in TVAL; with VH = 1 and vector work of the handler left it waits with nothing changed. In supervisor privilege TSTATUS_VH_DISCARD with VH = 1 leaves the thread without held vector work and with VH = 0, and TSTATUS_WH_DISCARD with WH = 1 without held WMU operations, WSTEP 0 and WH = 0; neither changes a general register or a vector thread, nor (while no accumulator of the thread drains) an accumulator. A CSRW of TSTATUS that sets no reserved bit and that its rule allows completes with VH, WH, NEST and PPRIV as ga gives them, without held vector work when ga clears a VH of 1 and without held WMU operations when it clears a WH of 1. -/
def Obligations.ReturnFromTrap : Prop :=
  (∀ s : State,
    let tid := s.cur
    let t := s.thread tid
    if t.priv = .task then exec .rte s = .next (s.takeTrap tid causePriv Instr.rte.word none false).settle
    else if 2 ≤ t.ppriv.toNat then exec .rte s = .next (s.takeTrap tid causeIllegal Instr.rte.word none false).settle
    else if t.vh = true ∧ s.vectorQuiet tid = false then exec .rte s = .next s.settle
    else ∃ u : State, exec .rte s = .next u.settle
      ∧ (u.thread tid).pc = t.tpc ∧ (u.thread tid).nest = false ∧ (u.thread tid).vh = false ∧ (u.thread tid).wh = false
      ∧ (u.thread tid).priv = (if t.ppriv = 1 then .supervisor else .task)
      ∧ (∀ r, u.reg tid r = s.reg tid r) ∧ (∀ x, x ≠ tid → u.thread x = s.thread x)
      ∧ (t.vh = true → (u.thread tid).pend = [] ∧ ∀ w, t.heldV = some w → (u.vthread tid).work = w)
      ∧ (t.vh = false → u.vthread tid = s.vthread tid)
      ∧ (t.wh = true → (u.core (tid / 4)).wops = (s.core (tid / 4)).wops ++ t.heldW.map (fun o => { o with halted := false }) ∧ (u.thread tid).heldW = [])
      ∧ (t.vh = false → t.wh = false → u.hbm = s.hbm ∧ u.cores = s.cores ∧ u.dies = s.dies))
  ∧ (∀ (s : State) (d a : Reg),
    let tid := s.cur
    let t := s.thread tid
    let x := s.reg tid a
    (t.live = true → t.priv = .supervisor →
      (∀ e ∈ (s.core (tid / 4)).accs, e.2.own = tid % 4 → e.2.st ≠ .draining) →
      (t.vh = true → ∃ u, Ends .tstatusVhDiscard s u ∧ (u.thread tid).vh = false ∧ (u.thread tid).heldV = none
        ∧ (∀ r, u.reg tid r = s.reg tid r) ∧ u.vthreads = s.vthreads ∧ (u.core (tid / 4)).accs = (s.core (tid / 4)).accs)
      ∧ (t.wh = true → ∃ u, Ends .tstatusWhDiscard s u ∧ (u.thread tid).wh = false ∧ (u.thread tid).heldW = [] ∧ (u.thread tid).wstep = 0
        ∧ (∀ r, u.reg tid r = s.reg tid r) ∧ u.vthreads = s.vthreads ∧ (u.core (tid / 4)).accs = (s.core (tid / 4)).accs))
    ∧ (t.priv = .supervisor → x &&& ~~~0xEB#64 = 0 → csrRefuses s tid 0x035 x = false →
        ∃ u, Ends (.csrw d a 0x035) s u ∧ (u.thread tid).vh = x.getLsbD 6 ∧ (u.thread tid).wh = x.getLsbD 7
          ∧ (u.thread tid).nest = x.getLsbD 3 ∧ (u.thread tid).ppriv = x.setWidth 2
          ∧ (t.vh = true → x.getLsbD 6 = false → (u.thread tid).heldV = none) ∧ (t.wh = true → x.getLsbD 7 = false → (u.thread tid).heldW = [])))

/-- When a live thread with NEST = 0, a handler and no wait has a pending held cause that is no double fault and the first in the order of R245, TAKE_HELD_TRAP answers the state at the handler with TCAUSE, TVAL, TSEQ, TBLK and TVADDR as the cause reported them, TPC the instruction that would execute next and RET = 0, and removes the cause from those pending; a vector cause sets the thread's vector work aside whole, sets VH and leaves the queue empty; a cause of no vector work leaves the vector thread alone; a WMU cause holds its operation, stopped, before all other held ones and sets WH and WSTEP; a fabric-store or watchdog cause leaves every core alone. -/
def Obligations.HeldTraps : Prop :=
  ∀ (s : State) (p : Pending),
    let tid := s.cur
    let t := s.thread tid
    t.live = true → t.nest = false → t.tvec ≠ 0 → t.wait = .none → (∀ n, (s.core (tid / 4)).pendSplit ≠ some (n, tid)) →
    t.nextHeld = some p → p.nested = false →
    ∃ u, Ends .takeHeldTrap s u
      ∧ (u.thread tid).pc = t.tvec ∧ (u.thread tid).priv = .supervisor ∧ (u.thread tid).nest = true ∧ (u.thread tid).ret = false
      ∧ (u.thread tid).tcause = p.cause ∧ (u.thread tid).tval = p.tval ∧ (u.thread tid).tpc = t.pc
      ∧ (u.thread tid).tseq = p.tseq ∧ (u.thread tid).tblk = p.tblk ∧ (u.thread tid).tvaddr = p.tvaddr
      ∧ (∀ q ∈ (u.thread tid).pending, q ∈ t.pending.erase p) ∧ ((∀ op, p.kind ≠ .wmu op) → (u.thread tid).pending = t.pending.erase p)
      ∧ (∀ r, u.reg tid r = s.reg tid r)
      ∧ (p.kind = .vector → (u.thread tid).vh = true ∧ (u.thread tid).heldV = some { (s.vthread tid).work with faulted := false, early := [] }
          ∧ (u.vthread tid).work = VectorWork.idle ∧ (u.vthread tid).regs = (s.vthread tid).regs)
      ∧ (p.kind ≠ .vector → u.vthread tid = s.vthread tid ∧ (u.thread tid).vh = t.vh)
      ∧ (∀ op o, p.kind = .wmu op → (s.core (tid / 4)).wops.find? (fun o => o.id = op) = some o →
          (u.thread tid).wh = true ∧ (u.thread tid).heldW.head? = some o ∧ (u.thread tid).wstep = wstepOf o)
      ∧ (p.kind = .fabricStore ∨ p.kind = .watchdog → u.cores = s.cores)
      ∧ (∀ q ∈ t.pending, q.takeable t = true → (t.parked = none ∨ q.kind = .vector) → p.kind.rank ≤ q.kind.rank)

/-- On a thread that has a vector thread whose queue holds fewer than 32 entries, SETLEN and SETLEN.2D enter the shape that R310 computes from MAXL and MAXR (and give gd VL × VR, or VR × 2^32 + VL), VARG enters its 64 bits, VF enters its block (whose 8-byte aligned address R315 computes) with the thread's geometry, FENCE.VV enters as itself, and FENCE.SV with the scalar stores before it put into effect as it is enqueued (the model's moment, log 95): each behind every earlier entry, with the sequence number after the last, and each retires with no other register, thread or state changed. While its queue holds 32 entries an instruction that would make another leaves the state as it is and its thread at the same pc; on a thread without a vector thread SETLEN, VARG, VPOP, VQWAIT, VSEQ, VF and VMERGE raise BAD_SPLIT; a VF whose address is not a multiple of 8 raises MISALIGN with that address. -/
def Obligations.QueueEntries : Prop :=
  (∀ (s : State) (d a : Reg) (k : BitVec 3) (i : BitVec 16),
    let tid := s.cur
    let x := s.reg tid a
    let maxl := match (s.core (tid / 4)).split with | 1 => 256 | 2 => 128 | _ => 64
    let flat := if maxl ≤ x.toNat then (maxl, Min.min (x.toNat / maxl) 8) else (x.toNat, 1)
    let two := (Min.min (x.toNat % 2 ^ 32) maxl, Min.min (x.toNat / 2 ^ 32) 8)
    let Enters := fun (ins : Instr) (s0 : State) (op : VcqOp) (d : Reg) (v : Word) => ∃ t, Ends ins s t ∧ Enqueued s0 t tid op d v
    s.hasVector tid = true → (s.vthread tid).work.entries < 32 →
    Enters (.setlen d a) s (.setlen flat.1 flat.2) d (BitVec.ofNat 64 (flat.1 * flat.2))
    ∧ Enters (.setlen2d d a) s (.setlen two.1 two.2) d (BitVec.ofNat 64 (two.2 * 2 ^ 32 + two.1))
    ∧ Enters (.varg a k) s (.varg k.toNat x) 0 0
    ∧ (let at_ := BitVec.ofInt 64 (x.toInt + i.toInt * 8)
       at_.toNat % 8 = 0 → Enters (.vfReg a i) s (.block at_ (s.thread tid).geom) 0 0)
    ∧ Enters (.vfLabel i) s (.block (BitVec.ofInt 64 (((s.thread tid).pc &&& ~~~7#64).toInt + i.toInt * 8)) (s.thread tid).geom) 0 0
    ∧ Enters .fenceSv (s.flushScalar tid) .fenceSv 0 0 ∧ Enters .fenceVv s .fenceVv 0 0)
  ∧ (∀ (s : State) (d a : Reg) (k : BitVec 3) (i : BitVec 16),
    let tid := s.cur
    (s.hasVector tid = true → 32 ≤ (s.vthread tid).work.entries →
      ∀ j ∈ [Instr.setlen d a, .setlen2d d a, .varg a k, .vfLabel i, .fenceVv], Ends j s s)
    ∧ (s.hasVector tid = false →
      ∀ j ∈ [Instr.setlen d a, .setlen2d d a, .varg a k, .vpop d, .vqwait a, .vqwaitAll, .vseq d, .vfLabel i, .vfReg a i, .vmerge],
        Ends j s (s.takeTrap tid causeBadSplit j.word none false))
    ∧ (s.hasVector tid = true → let at_ := BitVec.ofInt 64 ((s.reg tid a).toInt + i.toInt * 8)
       at_.toNat % 8 ≠ 0 → Ends (.vfReg a i) s (s.takeTrap tid causeMisalign at_ (some 4) false)))

/-- On a thread that has a vector thread: VPOP completes with the oldest entry of a return queue that holds one in gd, and waits on an empty one; VSEQ completes with the sequence number of the last entry and of the latest completed one in gd; VQWAIT completes when no entry of that number stands in the queue, in execution or in held work and the latest completed number has reached it (at most 2^15 behind), and waits while an entry of that number stands in the queue; VQWAIT.ALL completes once the queue is empty and nothing executes, else it waits with nothing changed; FENCE.VS waits while vector work enqueued before it may still access memory, and once none may (an empty queue, or one of nothing but VARG, SETLEN, CSR and fence entries, among others) enters the queue with every issued vector store put into effect (that it does so then, and what counts as still accessing memory, are the model's, log 95). A scoped FENCE completes in any thread whose vector work accesses no more memory and whose release (if its order holds one) is ready and leads to s1: it enters the queue of a thread that has a vector thread, and retires alone in one that has none, as FENCE.SV, FENCE.VS and FENCE.VV do there, and forgets what a later load has bound ahead; while vector work may still access memory it waits with nothing changed (log 95). When the current vector thread runs no block and has no fault pending, VCQ_ENTRY_EXECUTE of an entry at the head completes it (it leaves the queue, its number is the latest completed, and no scalar register changes): a VARG puts its value into its block argument, a SETLEN its shape into VL and VR, a queued CSR write sets FILL, RAD, FSTAT or FCTL from its operand and the value it finds (CSRW the operand, CSRS with its bits set, CSRC with its bits cleared, within the register's width), FENCE.VV leaves no issued vector store without effect (log 95), and the other fences only complete. -/
def Obligations.QueueProgress : Prop :=
  ((∀ (s : State) (d a : Reg),
    let tid := s.cur
    let v := s.vthread tid
    let t := s.thread tid
    let n := (s.reg tid a).setWidth 16
    s.hasVector tid = true →
    (∀ x xs, v.ret = x :: xs → ∃ u, exec (.vpop d) s = .next u.settle ∧ Wrote (s.setVthread tid { v with ret := xs }) u tid d x (t.pc + 4))
    ∧ (v.ret = [] → exec (.vpop d) s = .next s.settle)
    ∧ (∃ u, exec (.vseq d) s = .next u.settle ∧ Wrote s u tid d (BitVec.ofNat 64 (t.vseq.toNat * 2 ^ 16 + t.vdone.toNat)) (t.pc + 4))
    ∧ ((∀ e ∈ v.work.vcq, e.seq ≠ n) → v.work.run = none → t.heldV = none → t.behind = none → (t.vdone - n).toNat ≤ 2 ^ 15 →
        ∃ u, exec (.vqwait a) s = .next u.settle ∧ Wrote s u tid 0 0 (t.pc + 4))
    ∧ ((∃ e ∈ v.work.vcq, e.seq = n) → exec (.vqwait a) s = .next s.settle)
    ∧ (s.vectorQuiet tid = true → ∃ u, exec .vqwaitAll s = .next u.settle ∧ Wrote s u tid 0 0 (t.pc + 4))
    ∧ (s.vectorQuiet tid = false → exec .vqwaitAll s = .next s.settle)
    ∧ (s.accessesMade tid = false → exec .fenceVs s = .next s.settle)
    ∧ (s.accessesMade tid = true → v.work.entries < 32 →
        ∃ u, exec .fenceVs s = .next u.settle ∧ Enqueued ((s.flushVector tid (fun _ => true)).forgetEarly tid) u tid .fenceVs 0 0)
    ∧ (v.work.run = none → t.behind = none → (∀ e ∈ v.work.vcq, (∀ p g, e.op ≠ .block p g) ∧ ∀ k, e.op ≠ .wmacs k) → s.accessesMade tid = true)
    ∧ (∀ e rest p g f w lit, v.work.run = none → v.work.vcq = e :: rest → e.op = .block p g → s.instrAt tid p 0 = some (.vld f, w, lit) → s.accessesMade tid = false))
  ∧ (∀ (s s1 : State) (o : BitVec 2) (c : BitVec 3),
    let tid := s.cur
    (s.accessesMade tid = false → exec (.fenceScoped o c) s = .next s.settle)
    ∧ (s.accessesMade tid = true → (s.vthread tid).work.entries < 32 → (if orderReleases o then s.releaseReady tid c else .ok s) = .ok s1 →
        let s2 := s1.forgetEarly tid
        ∃ u, exec (.fenceScoped o c) s = .next u.settle
          ∧ (if s.hasVector tid then Enqueued s2 u tid (.fence o c) 0 0 else Wrote s2 u tid 0 0 ((s.thread tid).pc + 4)))
    ∧ (s.hasVector tid = false → ∀ i ∈ [Instr.fenceSv, .fenceVs, .fenceVv], ∃ u, exec i s = .next u.settle ∧ Wrote s u tid 0 0 ((s.thread tid).pc + 4))))
  ∧ (∀ (s : State) (e : VcqEntry) (rest : List VcqEntry),
    let tid := s.cur
    let v := s.vthread tid
    v.work.vcq = e :: rest → v.work.run = none → v.work.faulted = false →
    let Done := fun (t : State) => (t.vthread tid).work.vcq = rest ∧ (t.thread tid).vdone = e.seq ∧ (∀ r, t.reg tid r = s.reg tid r)
    let new := fun (mode : Nat) (old x : Word) => (if mode = 1 then x else if mode = 2 then old ||| x else old &&& ~~~x : Word)
    (∀ k x, e.op = .varg k x → ∃ t, Ends .vcqEntryExecute s t ∧ Done t ∧ Tab.get 0 k (t.vthread tid).bargs = x
      ∧ ∀ j, j ≠ k → Tab.get 0 j (t.vthread tid).bargs = Tab.get 0 j v.bargs)
    ∧ (∀ vl vr, e.op = .setlen vl vr → ∃ t, Ends .vcqEntryExecute s t ∧ Done t ∧ (t.vthread tid).vl = vl ∧ (t.vthread tid).vr = vr ∧ (t.vthread tid).regs = v.regs)
    ∧ (∀ mode x, e.op = .csr 0x005 mode x → ∃ t, Ends .vcqEntryExecute s t ∧ Done t
      ∧ ((t.vthread tid).fill.setWidth 64 : Word) = new mode (v.fill.setWidth 64) x &&& 0xFFFFFFFF)
    ∧ (∀ mode x, e.op = .csr 0x007 mode x → ∃ t, Ends .vcqEntryExecute s t ∧ Done t
      ∧ (t.vthread tid).rad = (new mode (BitVec.ofNat 64 v.rad) x).toNat % 64)
    ∧ (∀ mode x, e.op = .csr 0x010 mode x → ∃ t, Ends .vcqEntryExecute s t ∧ Done t
      ∧ ((t.vthread tid).fstat.setWidth 64 : Word) = new mode (v.fstat.setWidth 64) x &&& 0x1F)
    ∧ (∀ mode x, e.op = .csr 0x016 mode x → ∃ t, Ends .vcqEntryExecute s t ∧ Done t
      ∧ ((t.vthread tid).fctl.setWidth 64 : Word) = new mode (v.fctl.setWidth 64) x &&& 0x1F)
    ∧ (e.op = .fenceVv → ∃ t, Ends .vcqEntryExecute s t ∧ Done t ∧ (t.vthread tid).pend = [])
    ∧ (e.op = .fenceVs ∨ e.op = .fenceSv ∨ (∃ o c, e.op = .fence o c) → ∃ t, Ends .vcqEntryExecute s t ∧ Done t))

/-- With no split asked for, no held vector work on the core, no vector work on it and VL of vector thread 0 at most the new MAXL, VSPLIT to n and VMERGE to 1 set the core's split, clear every vector register, queue and binding of the core, keep VL, VR, FILL, RAD, FSTAT, FCTL, FIDX and the return queue of vector thread 0, start vector threads 1 to 3 with these zero and empty, and retire; while vector work remains the split is asked for and the thread waits, and SPLIT_CHANGE carries the pending split out once it has drained. With VH = 1 VSPLIT and VMERGE raise ILLEGAL; so does VSPLIT, at once or as it is carried out, when VL of vector thread 0 exceeds the new MAXL, and then the split stays and none is asked for any more. -/
def Obligations.SplitsAndMerges : Prop :=
  ∀ (s : State) (n : BitVec 12),
    let tid := s.cur
    let core := tid / 4
    let k := s.core core
    let Changed := fun (m : Nat) (t : State) => (t.core core).split = m ∧ (t.core core).pendSplit = none
      ∧ (∀ i, i < 4 → (t.vthread (4 * core + i)).regs = [] ∧ (t.vthread (4 * core + i)).queues = [] ∧ (t.vthread (4 * core + i)).binds = []
        ∧ (t.vthread (4 * core + i)).bargs = [])
      ∧ (let v := t.vthread (4 * core)
         let v0 := s.vthread (4 * core)
         v.vl = v0.vl ∧ v.vr = v0.vr ∧ v.fill = v0.fill ∧ v.rad = v0.rad ∧ v.fstat = v0.fstat ∧ v.fctl = v0.fctl ∧ v.fidx = v0.fidx ∧ v.ret = v0.ret)
      ∧ (∀ i, 0 < i → i < 4 →
          let v := t.vthread (4 * core + i)
          let c := t.thread (4 * core + i)
          v.vl = 0 ∧ v.vr = 0 ∧ v.fill = 0 ∧ v.rad = 0 ∧ v.fstat = 0 ∧ v.fctl = 0 ∧ v.fidx = [] ∧ v.ret = []
          ∧ c.pvl = 0 ∧ c.pvr = 0 ∧ c.pfill = 0 ∧ c.prad = 0 ∧ c.pfctl = 0 ∧ c.vseq = (s.thread (4 * core + i)).vseq ∧ c.vdone = (s.thread (4 * core + i)).vdone)
      ∧ (t.thread tid).pc = (s.thread tid).pc + 4 ∧ (∀ r, t.reg tid r = s.reg tid r)
    let most := if n = 1 then 256 else if n = 2 then 128 else 64
    let Illegal := fun (i : Instr) => Ends i s (s.takeTrap tid causeIllegal i.word none false)
    (n = 1 ∨ n = 2 ∨ n = 4) →
    ((s.thread tid).vh = true → Illegal (.vsplit n) ∧ (s.hasVector tid = true → Illegal .vmerge))
    ∧ ((s.thread tid).vh = false → k.pendSplit = none → splitReady s core tid = true → most < (s.vthread (4 * core)).vl →
        Ends (.vsplit n) s ((s.setCore core { k with pendSplit := none }).takeTrap tid causeIllegal (Instr.vsplit n).word none false))
    ∧ (k.pendSplit = some (n.toNat, tid) → splitReady s core tid = true → most < (s.vthread (4 * core)).vl →
        Ends (.splitChange core) s ((s.setCore core { k with pendSplit := none }).takeTrap tid causeIllegal (Instr.vsplit n).word none false))
    ∧ ((s.thread tid).vh = false →
    (k.pendSplit = none → splitReady s core tid = true → (s.vthread (4 * core)).vl ≤ most →
      ∃ t, Ends (.vsplit n) s t ∧ Changed n.toNat t)
    ∧ (k.pendSplit = none → splitReady s core tid = true → s.hasVector tid = true → (s.vthread (4 * core)).vl ≤ 256 → ∃ t, Ends .vmerge s t ∧ Changed 1 t)
    ∧ (k.pendSplit = none → splitReady s core tid = false → Ends (.vsplit n) s (s.setCore core { k with pendSplit := some (n.toNat, tid) }))
    ∧ (k.pendSplit = some (n.toNat, tid) → splitReady s core tid = true → (s.vthread (4 * core)).vl ≤ most →
      ∃ t, Ends (.splitChange core) s t ∧ Changed n.toNat t))

/-- A WFE of a thread that has bound nothing ahead (R130), whose access passes its checks at 8 bytes and reaches an unstruck byte location of this module gives gd the eight-byte word and retires when the word differs from gb; when it equals gb the thread stays at the WFE and waits; WFE_WAKE of a waiting thread does the same with the operands the thread waits under; no memory changes. -/
def Obligations.WaitForEvent : Prop :=
  ∀ (s s' : State) (d a b : Reg) (p : BitVec 2) (l : Loc) (key : BitVec 256),
    let tid := s.cur
    (∀ i, (s.thread tid).wait ≠ .request i) → (s.thread tid).early = none → l.isByte → p ≠ spaceSync →
    Reaches ((s.orderScalar tid).forgetEarly tid) tid .read false p (s.reg tid a) 8 l key s' → s'.readsPoison (tid / 64) l 8 = false →
    let x := BitVec.ofNat 64 (leNat (s'.loadBytes (tid / 64) key l 8))
    let Reads := fun (i : Instr) => (x ≠ s.reg tid b → ∃ t, Ends i s t ∧ t.reg tid d = (if d = 0 then 0 else x) ∧ (∀ r, r ≠ d → t.reg tid r = s'.reg tid r)
        ∧ (t.thread tid).pc = (s'.thread tid).pc + 4 ∧ (t.thread tid).wait = .none ∧ KeepsMemory s' t)
      ∧ (x = s.reg tid b → ∃ t, Ends i s t ∧ (t.thread tid).wait = .wfe d a b p ∧ (∀ r, t.reg tid r = s'.reg tid r)
        ∧ (t.thread tid).pc = (s'.thread tid).pc ∧ KeepsMemory s' t)
    Reads (.wfe d a b p) ∧ ((s.thread tid).wait = .wfe d a b p → Reads (.wfeWake tid))

/-- For a control thread an undefined word raises ILLEGAL with the word in TVAL and a faulting fetch raises its cause with the address in TVAL and LEVEL, REASON and KIND fetch in XINFO, as instruction traps; for a vector thread whose block is in execution the same become one held vector cause, pending with the sequence number of the entry, the word's offset in its block and its address, and the thread's vector work stands still; a block that runs to word 256 raises BLOCK_OVERRUN with the block's address (the number 256 stands in TBLK modulo 256, log 107). -/
def Obligations.IllegalWordsAndFetchFaults : Prop :=
  ∀ (s : State) (w addr : Word) (cause : BitVec 6) (level reason : Nat) (r : BlockRun),
    let tid := s.cur
    let Held := fun (i : Instr) (c : BitVec 6) (tval : Word) (x : Option Word) => ∃ t, Ends i s t ∧ (t.vthread tid).work.faulted = true
      ∧ (t.thread tid).pending = (s.thread tid).pending ++ [{ kind := .vector, cause := c, tval := tval, tvaddr := r.addr + BitVec.ofNat 64 (8 * r.word), tseq := r.seq, tblk := BitVec.ofNat 8 r.word, nested := r.nested, xinfo := x }]
      ∧ (∀ y, t.reg tid y = s.reg tid y) ∧ (t.thread tid).pc = (s.thread tid).pc ∧ (t.vthread tid).regs = (s.vthread tid).regs
    Ends (.illegalInstruction false w) s (s.takeTrap tid causeIllegal w none false)
    ∧ Ends (.instructionFetchFault false addr (.address cause level reason)) s
        (s.takeTrap tid cause addr (some (BitVec.ofNat 64 (reason * 256 + level * 16 + 2))) false)
    ∧ Ends (.instructionFetchFault false addr .machineCheck) s (s.takeTrap tid causeMachineCheck addr none false)
    ∧ ((s.vthread tid).work.run = some r → (s.thread tid).pending = [] →
        Held (.illegalInstruction true w) causeIllegal w none
        ∧ Held (.instructionFetchFault true addr (.address cause level reason)) cause addr (some (BitVec.ofNat 64 (reason * 256 + level * 16 + 4)))
        ∧ Held (.instructionFetchFault true addr .overrun) causeBlockOverrun r.addr none
        ∧ Held (.instructionFetchFault true addr .machineCheck) causeMachineCheck addr none)

/-- EXIT waits while the thread has vector work or a command of its task stands in a copy, page or collective engine queue; otherwise its issued stores take effect, its shard of a race ends, and the task ends: when another task of its gang still runs on the core, the thread holds no task any more, its operand slots and accumulators are gone from the core, and the gang goes on. The exit of a gang's last task ends the gang: the thread is vacant and its tiles are gone, every core of the gang is free of it, and the dispatchers decide. While an access of its tasks has not performed at its home, the gang stays over, counted in CHELD and owing its completion word (1; none where DONE is 0); else CHELD of its regions drops by its cores, and a gang that owes no word is gone. A gang that owes a word and whose cores no region counts writes it at DONE, at the home or into its die's egress buffer, where the translation of DONE allows that, and is gone. -/
def Obligations.TaskExits : Prop :=
  (∀ (s : State) (g : Gang),
    let tid := s.cur
    let t := s.thread tid
    let busy := s.cores.any (fun c => c.2.copyQ.any (fun k => k.uid = t.uid)) || s.dies.any (fun d => d.2.pageQ.any (fun k => k.uid = t.uid))
      || s.hub.fcQ.any (fun k => k.uid = t.uid)
    (s.vectorQuiet tid = false ∨ busy = true → Ends .exit s s)
    ∧ (s.vectorQuiet tid = true → busy = false → t.race = none → t.pend = [] → (s.vthread tid).pend = [] → s.gang? t.gang = some g →
        (s.tidsOf t.gang).any (fun x => x ≠ tid && x / 4 = tid / 4) = true →
        ∃ u, Ends .exit s u ∧ u.thread tid = CThread.vacant ∧ u.vthread tid = VThread.fresh
          ∧ (∀ x ∈ (u.core (tid / 4)).slots, x.2.own ≠ tid % 4) ∧ (∀ x ∈ (u.core (tid / 4)).accs, x.2.own ≠ tid % 4)
          ∧ (∃ g', u.gang? t.gang = some g' ∧ g'.ended = t.index :: g.ended ∧ g'.st = g.st)
          ∧ ∀ x, x ≠ tid → u.thread x = s.thread x))
  ∧ ((∀ (s : State) (g : Gang),
    let tid := s.cur
    let t := s.thread tid
    let busy := s.cores.any (fun c => c.2.copyQ.any (fun k => k.uid = t.uid)) || s.dies.any (fun d => d.2.pageQ.any (fun k => k.uid = t.uid))
      || s.hub.fcQ.any (fun k => k.uid = t.uid)
    let late := g.uids.any (fun u => s.unperformed u true)
    s.vectorQuiet tid = true → busy = false → t.race = none → t.pend = [] → (s.vthread tid).pend = [] → s.gang? t.gang = some g → g.cores ≠ [] → g.held.Nodup →
    (s.gangs.map (fun e => e.1)).Pairwise (fun x y => x < y) → (s.threads.map (fun e => e.1)).Pairwise (fun x y => x < y) → (∀ x ∈ s.tidsOf t.gang, x = tid) →
    ∃ u : State, Ends .exit s u.decideAll ∧ u.thread tid = CThread.vacant ∧ u.vthread tid = VThread.fresh
      ∧ (∀ x ∈ (u.core (tid / 4)).slots, x.2.own ≠ tid % 4) ∧ (∀ x ∈ (u.core (tid / 4)).accs, x.2.own ≠ tid % 4)
      ∧ (∀ k key h, u.gangOn k = some (key, h) → key ≠ t.gang)
      ∧ (late = true → u.regionUse = s.regionUse ∧ u.gang? t.gang = some { g with ended := t.index :: g.ended, st := .over, freed := g.cores, saved := [], owed := if g.done = 0 then none else some 1 })
      ∧ (late = false → (∀ x ∈ g.held, (u.useOf g.vi x).cores = (s.useOf g.vi x).cores - g.cores.length) ∧ (g.done = 0 → u.gang? t.gang = none)))
  ∧ (∀ (z z' : State) (key v : Nat) (g : Gang) (l : Loc) (k : BitVec 256),
    z.gang? key = some g → g.cores = [] → g.owed = some v → l.isByte = true →
    z.translateGlobal (engineAgent g.vi g.asn g.die (waiterDispatch key) true) .write false g.done = .ok (.here l k, z') →
    let u := z.writeDone key
    u.gang? key = none
    ∧ (l.home = g.die → (List.range 8).map (fun i => u.homeByte k (l.plus i)) = leBytes 8 v)
    ∧ (l.home ≠ g.die → ∃ e, (u.die g.die).egress = (z'.die g.die).egress ++ [e] ∧ e.loc = l ∧ e.key = k ∧ e.data = leBytes 8 v)))

/-- YIELD retires, and the quantum check of its placed gang (which is not stopping) is made at once; QUANTUM_EXPIRY of a placed gang whose effective QUANTUM is not 0 and has passed makes the same check: where QUANTUM is 0 or no queued gang of its level or above would fit in its place, the gang keeps its cores and its quantum starts again from its dispatcher's clock before the dispatchers decide; else the gang is pre-empted before they decide. STARVE_RAISE of a queued gang below level 15 that has waited for STARVE raises its level by one and starts its wait again, before the dispatchers decide. When a live thread's count has reached a LIMIT that is not zero, WATCHDOG_EXPIRY restarts the count and, with ACT = 0, leaves one held WATCHDOG cause pending with LIMIT in TVAL, or with ACT = 1 asks for the stop of the task's region with reason 5; a supervisor's write of WDOG with no reserved bit set stores the value and restarts the count; no register, pc or memory changes. A pre-emption waits while stopsLater says so (what it lets end is R38 and R228; a page that moves is log 102), and else saves each task (with nothing issued, pending or waiting) whole, leaves its thread vacant, and queues the gang with no core and no region counted and its scratchpads kept (log 90), or, where a save area cannot be written, leaves it stopped with stop 3 asked for. Saving takes a task's registers, vector registers, queues and tiles with their state off its core; putting it back on a thread restores them. -/
def Obligations.QuantaAndStarvation : Prop :=
  ((∀ (s : State) (g : Gang) (key : Nat) (c : List (Nat × Rcb)),
    s.gang? key = some g → s.chain g.vi g.region = some c →
    let now := (s.die g.die).ageclk
    let Checked := fun (i : Instr) (u : State) =>
      if effective 4 c = 0 ∨ u.quantumDue g = false then Ends i s (u.setGang key { g with quantumFrom := now }).decideAll
      else Ends i s (u.preempt key g).decideAll
    (g.isPlaced = true → g.stopping = false →
      ((s.thread s.cur).gang = key → Checked .yield (s.retire s.cur))
      ∧ (effective 4 c ≠ 0 → g.quantumFrom + effective 4 c ≤ now → Checked (.quantumExpiry key) s))
    ∧ (s.retire s.cur).chain g.vi g.region = some c
    ∧ ((s.retire s.cur).thread s.cur).pc = (s.thread s.cur).pc + 4 ∧ (∀ r, (s.retire s.cur).reg s.cur r = s.reg s.cur r)
    ∧ (g.isQueued = true → effective 5 c ≠ 0 → g.level < 15 → g.since + effective 5 c ≤ now →
        Ends (.starveRaise key) s (s.setGang key { g with level := g.level + 1, since := now, raised := g.raised + 1 }).decideAll))
  ∧ (∀ (s : State) (tid : Nat) (v : Word),
    let t := s.thread tid
    let limit := t.wdog.toNat % 2 ^ 32
    let Same := fun (u : State) (x : Nat) => (∀ r, u.reg x r = s.reg x r) ∧ (u.thread x).pc = (s.thread x).pc ∧ u.hbm = s.hbm ∧ u.cores = s.cores
    (t.live = true → limit ≠ 0 → limit ≤ t.wdogCount →
      (t.wdog.getLsbD 63 = false → t.pending = [] → ∃ u, Ends (.watchdogExpiry tid) s u ∧ (u.thread tid).wdogCount = 0
        ∧ (u.thread tid).pending = [{ kind := .watchdog, cause := causeWatchdog, tval := BitVec.ofNat 64 limit, tvaddr := 0, tseq := 0, tblk := 0, nested := false, xinfo := none }] ∧ Same u tid)
      ∧ (t.wdog.getLsbD 63 = true → ∃ u, Ends (.watchdogExpiry tid) s u ∧ (u.thread tid).wdogCount = 0
        ∧ u.hub.stops = s.hub.stops ++ [(t.vi, s.regionOf t, 5)] ∧ Same u tid))
    ∧ ((s.thread s.cur).live = true → (s.thread s.cur).priv = .supervisor → v &&& 0x7FFFFFFF00000000#64 = 0 →
        ∃ u, Ends (.wdogWrite v) s u ∧ (u.thread s.cur).wdog = v ∧ (u.thread s.cur).wdogCount = 0 ∧ Same u s.cur)))
  ∧ ((∀ (s : State) (key : Nat) (g : Gang),
    s.gang? key = some g → g.isPlaced = true → g.held.Nodup → (s.gangs.map (fun e => e.1)).Pairwise (fun x y => x < y) → (s.threads.map (fun e => e.1)).Pairwise (fun x y => x < y) →
    let u := s.preempt key g
    (s.stopsLater key g = true → u = s.setGang key { g with stopping := true })
    ∧ (s.stopsLater key g = false → ((s.tidsOf key).map (fun t => (s.thread t).index)).Nodup →
        (∀ t ∈ s.tidsOf key, (s.thread t).pending = [] ∧ (s.thread t).pend = [] ∧ (s.thread t).wait = .none ∧ (s.vthread t).pend = []
          ∧ ∀ o ∈ (s.core (t / 4)).wops, o.uid ≠ (s.thread t).uid) →
        ∃ g', u.gang? key = some g'
          ∧ (∀ t ∈ s.tidsOf key, u.thread t = CThread.vacant ∧ u.vthread t = VThread.fresh ∧ ∃ sv, Tab.find (s.thread t).index g'.saved = some sv
              ∧ sv.ct = { s.thread t with live := false, early := none } ∧ sv.vt.regs = (s.vthread t).regs ∧ sv.vt.queues = (s.vthread t).queues)
          ∧ ((g'.st = .queued ∧ g'.cores = [] ∧ g'.held = [] ∧ g'.stopping = false ∧ ((∀ d, (s.die d).egress = []) → g'.pads = g.cores.map (fun c => (s.core c).scratch))
                ∧ ∀ x ∈ g.held, (u.useOf g.vi x).cores = (s.useOf g.vi x).cores - g.cores.length)
            ∨ (g'.st = .failed ∧ g'.cores = g.cores ∧ u.hub.stops = s.hub.stops ++ [(g.vi, g.region, 3)]))))
  ∧ (∀ (s v : State) (tid dst : Nat),
    let t := s.thread tid
    let x := s.vthread tid
    let sv := (s.takeTask tid).1
    let u := (s.takeTask tid).2
    let w := v.putTask dst sv
    sv.ct = { t with wait := s.waitKept t.wait, live := false, early := none }
    ∧ sv.vt.regs = x.regs ∧ sv.vt.queues = x.queues ∧ sv.vt.binds = x.binds ∧ sv.vt.bargs = x.bargs ∧ sv.vt.ret = x.ret ∧ sv.vt.vl = x.vl ∧ sv.vt.vr = x.vr
    ∧ sv.vt.fill = x.fill ∧ sv.vt.rad = x.rad ∧ sv.vt.fstat = x.fstat ∧ sv.vt.fctl = x.fctl ∧ sv.vt.fidx = x.fidx
    ∧ sv.vt.work.vcq = x.work.vcq ∧ sv.vt.work.run = x.work.run ∧ sv.vt.work.vstart = x.work.vstart ∧ sv.vt.work.popped = x.work.popped
    ∧ sv.slots = (s.core (tid / 4)).slots.filter (fun e => e.2.own = tid % 4) ∧ sv.accs = (s.core (tid / 4)).accs.filter (fun e => e.2.own = tid % 4)
    ∧ sv.wops = (s.core (tid / 4)).wops.filter (fun o => o.uid = t.uid)
    ∧ u.thread tid = CThread.vacant ∧ u.vthread tid = VThread.fresh ∧ u.hbm = s.hbm ∧ (∀ y, y ≠ tid → u.thread y = s.thread y ∧ u.vthread y = s.vthread y)
    ∧ (∀ e ∈ (u.core (tid / 4)).slots, e.2.own ≠ tid % 4) ∧ (∀ e ∈ (u.core (tid / 4)).accs, e.2.own ≠ tid % 4)
    ∧ w.thread dst = { sv.ct with live := true } ∧ w.vthread dst = { sv.vt with idleFrom := (v.core (dst / 4)).cycle } ∧ (∀ y, y ≠ dst → w.thread y = v.thread y)
    ∧ ((sv.slots.map (fun e => e.1)).Nodup → ∀ e ∈ sv.slots, w.slot (dst / 4) e.1 = e.2) ∧ ((sv.accs.map (fun e => e.1)).Nodup → ∀ e ∈ sv.accs, w.acc (dst / 4) e.1 = e.2)
    ∧ (w.core (dst / 4)).wops = (v.core (dst / 4)).wops ++ sv.wops))

/-- In supervisor privilege, DOMSTOP of a region with a valid chain asks for the stop of that region with reason 1 and of any other region changes nothing; FQRES removes the entry of its sequence number from the fault queue, and with ACTION refuse every request held under it is refused and held no longer; a write of a register without behaviour of its own, with no reserved bit and no refused value, stores it. A domain stop leaves every placed, queued or failed gang of the interface whose region lies in the fault domain, and that no park record keeps (log 29), without tasks, their threads vacant, and every other gang as it was; when the commands its tasks have started have finished it ends: those gangs' cores are scrubbed, and the gangs are gone (or owe the completion word 3), STOPS is one more and LASTSTOP the reason, and a stop of region 0 raises vector 0 and counts in STOPCNT; then the dispatchers decide. A scrub leaves nothing of a tenant on the core: scratchpad, tiles, WMU and copy queues, links, translations and fetch caches empty, its vector threads new, nothing in it struck; it changes no other scratchpad, no byte of HBM and no control thread. -/
def Obligations.SupervisorRegisterEvents : Prop :=
  (∀ (s : State) (region : BitVec 12) (seq : BitVec 32) (f : BitVec 12) (v : Word),
    let vi := (s.thread s.cur).vi
    (s.thread s.cur).live = true → (s.thread s.cur).priv = .supervisor →
    ((s.chain vi region.toNat).isSome = true → ∃ t, Ends (.domstop region) s t ∧ t.hub.stops = s.hub.stops ++ [(vi, region.toNat, 1)] ∧ t.threads = s.threads)
    ∧ (s.chain vi region.toNat = none → Ends (.domstop region) s s)
    ∧ (∀ e, s.hub.fq.find? (fun e => e.vi = vi && e.seq % 2 ^ 32 = seq.toNat) = some e →
        (∃ t, Ends (.fqresRefuse seq) s t ∧ (∀ x, x ∈ t.hub.fq ↔ x ∈ s.hub.fq ∧ x ≠ e) ∧ t.threads = s.threads
          ∧ (∀ p, p ∈ t.hub.held ↔ p ∈ s.hub.held ∧ ¬ (p.vi = vi ∧ p.entry = some e.seq)))
        ∧ Ends (.fqresRetry seq) s ((s.setHub { s.hub with fq := s.hub.fq.filter (fun x => x ≠ e) }).retryHeld (fun p => p.vi = vi && p.entry = some e.seq)))
    ∧ (∀ m, csrMask f = some m → v &&& ~~~m = 0 → csrRefuses s s.cur f v = false → Ends (.registerWrite f v) s (s.storeCsr s.cur f v)))
  ∧ ((∀ (s : State) (vi region reason : Nat), (s.gangs.map (fun e => e.1)).Pairwise (fun x y => x < y) →
    let root := (s.domain vi region).getD region
    let hit := fun (g : Gang) => g.vi = vi ∧ (s.domain vi g.region).getD g.region = root ∧ (g.st = .placed ∨ g.st = .queued ∨ g.st = .failed) ∧ s.keptByRecord g = false
    ∃ (w : State) (i : Nat), s.stopDomain vi region reason = w.endStops ∧ w.hub.halting = s.hub.halting ++ [{ id := i, vi := vi, root := root, region := region, reason := reason }]
      ∧ ∀ key g, s.gang? key = some g → (¬ hit g → w.gang? key = some g)
        ∧ (hit g → w.gang? key = some { g with st := .stopped i, stopping := false, saved := [] } ∧ ∀ t ∈ s.tidsOf key, w.thread t = CThread.vacant ∧ w.vthread t = VThread.fresh))
  ∧ (∀ (s : State) (d : DomainStop), ∃ w : State, s.finishStop d = w.decideAll ∧ (∀ x ∈ w.hub.halting, x.id ≠ d.id)
      ∧ (w.useOf d.vi d.root).stops = (s.useOf d.vi d.root).stops + 1 ∧ (w.useOf d.vi d.root).lastStop = d.reason
      ∧ (d.root = 0 → (w.vi d.vi).stopcnt = (s.vi d.vi).stopcnt + 1 ∧ (w.vi d.vi).signalled = (s.vi d.vi).signalled ++ [0])
      ∧ ∀ e ∈ s.gangs, e.2.st = .stopped d.id →
          (∀ c ∈ e.2.cores, c ∉ e.2.freed → (w.core c).scratch = [] ∧ (w.core c).slots = [] ∧ (w.core c).accs = [] ∧ (w.core c).copyQ = [] ∧ (w.core c).dirty = true)
          ∧ (e.2.done = 0 → w.gang? e.1 = none) ∧ ∀ g, w.gang? e.1 = some g → g.st = .over ∧ g.owed = some 3 ∧ g.cores = [])
  ∧ (∀ (s : State) (core : Nat),
    let u := s.scrub core
    let k := u.core core
    k.scratch = [] ∧ k.slots = [] ∧ k.accs = [] ∧ k.wops = [] ∧ k.wmacs = [] ∧ k.copyQ = [] ∧ k.links = [] ∧ k.tlb = [] ∧ k.icache = [] ∧ k.bcache = [] ∧ k.last = none ∧ k.dirty = false
    ∧ (∀ i, i < 4 → u.vthread (4 * core + i) = VThread.fresh) ∧ (∀ c, c ≠ core → (u.core c).scratch = (s.core c).scratch) ∧ u.hbm = s.hbm ∧ u.threads = s.threads
    ∧ ∀ n, .scratchWord core n ∉ u.poison ∧ .operandSlot core n ∉ u.poison ∧ .accumulator core n ∉ u.poison ∧ ∀ i, i < 4 → .vectorRegister (4 * core + i) n ∉ u.poison))

/-- IFLUSH completes and leaves the core without cached instruction and block words, while a vector thread of the core whose queue holds entries keeps, beside what it keeps already, the cached block words under the number of its last entry (what an IFLUSH keeps is the model's reading, log 87); no register, byte of HBM, queue or other core changes. TLBINV in task privilege raises PRIV; in supervisor privilege, when the thread waits for nothing and no access of the module is outstanding (what counts as one is log 45), it completes with every translation of the task's interface that its kind names gone from the cores of its scope (the core itself, its die, or all) and from the table entries their dies' walkers hold, and every other translation kept, and changes no register; for an address of slab space it names the slab's descriptor and the pages of its targets. While an access that TLBINV has found outstanding has neither performed nor ended the instruction waits with nothing changed, and once all have it completes. -/
def Obligations.CachesAndTranslations : Prop :=
  (∀ (s : State) (a : Reg) (c : BitVec 3) (n : BitVec 4),
    let tid := s.cur
    let vi := (s.thread tid).vi
    let va := (s.reg tid a).toNat % 2 ^ 56
    let scope := fun (k : Nat) => if c = 0 then k = tid / 4 else if c = 1 then k / 16 = tid / 64 else True
    let Drops := fun (i : Instr) (named : TlbEntry → Prop) => ∃ t, Ends i s t
      ∧ (∀ k e, e ∈ (t.core k).tlb ↔ e ∈ (s.core k).tlb ∧ ¬ (scope k ∧ e.vi = vi ∧ named e))
      ∧ (∀ d e, d < 4 → (e ∈ (t.die d).walks ↔ e ∈ (s.die d).walks ∧ ¬ ((∃ k, k < 16 ∧ scope (16 * d + k)) ∧ e.vi = vi ∧ named e)))
      ∧ (∀ r, t.reg tid r = s.reg tid r) ∧ (t.thread tid).pc = (s.thread tid).pc + 4 ∧ t.hbm = s.hbm
    (∃ t, exec .iflush s = .next t ∧ (t.core (tid / 4)).icache = [] ∧ (t.core (tid / 4)).bcache = []
      ∧ (∀ k, k ≠ tid / 4 → t.core k = s.core k) ∧ t.hbm = s.hbm ∧ (∀ r, t.reg tid r = s.reg tid r) ∧ (t.thread tid).pc = (s.thread tid).pc + 4
      ∧ (∀ x, (t.vthread x).work.vcq = (s.vthread x).work.vcq)
      ∧ (∀ x, x / 4 = tid / 4 → (t.vthread x).work.kept = (s.vthread x).work.kept ++
          (if (s.vthread x).work.vcq = [] then [] else [((s.thread x).vseq, (s.core (tid / 4)).bcache)])))
    ∧ ((s.thread tid).priv = .task → ∀ i ∈ [Instr.tlbinvPg a c n, .tlbinvAs c n, .tlbinvVi c], Ends i s (s.takeTrap tid causePriv i.word none false))
    ∧ ((s.thread tid).priv = .supervisor → (s.thread tid).wait = .none → (∀ d, (s.die d).egress = []) → s.hub.reqs = [] →
        (∀ x, (s.thread x).pend = [] ∧ (s.vthread x).pend = []) → (∀ d ∈ s.dies, d.2.egress = []) →
        Drops (.tlbinvVi c) (fun _ => True) ∧ Drops (.tlbinvAs c n) (fun e => e.asn = n.toNat)
        ∧ (va / 2 ^ 48 ≠ 0xFE → Drops (.tlbinvPg a c n) (fun e => e.asn = n.toNat ∧ e.level ≠ 4 ∧ e.page = va / 2 ^ (16 + 10 * e.level)))
        ∧ (va / 2 ^ 48 = 0xFE → Drops (.tlbinvPg a c n) (fun e => e.asn = n.toNat ∧
            (if e.level = 4 then e.page = va / 2 ^ 34 % 2 ^ 14 else ∃ x ∈ invalidated s tid n.toNat va, e.page = x / 2 ^ (16 + 10 * e.level))))))
  ∧ (∀ (s : State) (a : Reg) (c : BitVec 3) (n : BitVec 4) (ids : List Nat),
    (s.thread s.cur).priv = .supervisor → (s.thread s.cur).wait = .inval ids →
    ∀ i ∈ [Instr.tlbinvPg a c n, .tlbinvAs c n, .tlbinvVi c], Ends i s (if s.stillOut ids then s else s.retire s.cur))

/-- A LAUNCH that waits for nothing, whose descriptor passes its checks as one 128-byte access and lies unstruck in this module, whose task may launch into the region it names (any supervisor; a task only into its own region or below it, and no supervisor gang) and whose release at module scope is ready, retires: with gd = 2^63 + reason × 2^56 and no gang when the launch is judged to fail, and otherwise, while the dispatcher's queue holds fewer than 1024 gangs, with gd the interface's launch count modulo 2^20 and the gang accepted by its dispatcher. Placing a new gang on cores that its tasks fit prepares each core (scrubbed where its last holder was another interface or fault domain, its split the descriptor's), counts them in CHELD of every region of its chain, and starts task i on thread i mod PERCORE of its core at the entry with args in g1 to g7 and i in g8, every other register and trap register zero, in the privilege of the descriptor; the gang's quantum starts at its home die's clock. -/
def Obligations.Launches : Prop :=
  (∀ (s s1 s2 s3 : State) (d a : Reg) (l : Loc) (key : BitVec 256),
    let tid := s.cur
    let t := s.thread tid
    let s0 := s.flushScalar tid
    t.wait = .none →
    s0.check (s0.agentOf tid false) (s0.regionOf t) .read false false spaceGlobal (s.reg tid a) 128 = .ok (.here l key, s1) →
    s1.readsPoison (tid / 64) l 128 = false → s2 = s1.observe (tid / 64) t.uid l 128 →
    let w := (List.range 16).map (fun j => BitVec.ofNat 64 (leNat (s1.loadBytes (tid / 64) key (l.plus (8 * j)) 8)))
    let region := s2.regionOf (s2.thread tid)
    ((s2.thread tid).priv = .supervisor ∨ (descSup w = false ∧ (descRegion w = region
      ∨ ∃ c, s2.chain (s2.thread tid).vi (descRegion w) = some c ∧ ∃ x ∈ c, x.1 = region))) →
    s2.releaseReady tid 3 = .ok s3 →
    (∀ reason, s3.judgeLaunch (s2.thread tid).vi w = .error reason →
      Ends (.launch d a) s ((s3.setReg tid d (BitVec.ofNat 64 (2 ^ 63 + reason * 2 ^ 56))).retire tid))
    ∧ (∀ c, s3.judgeLaunch (s2.thread tid).vi w = .ok c → s3.queueLength (effective 2 c) < 1024 →
      Ends (.launch d a) s (((s3.setReg tid d (BitVec.ofNat 64 ((s3.vi (s2.thread tid).vi).launched % 2 ^ 20))).retire tid).acceptGang (s2.thread tid).vi w c none).2))
  ∧ (∀ (s : State) (key : Nat) (g : Gang) (chain : List (Nat × Rcb)) (cores : List Nat),
    g.fresh = true → g.saved = [] → cores.Nodup → 0 < g.percore → g.percore ≤ 4 → g.ntask ≤ g.percore * cores.length → (chain.map (fun x => x.1)).Nodup →
    let u := s.place key g chain cores
    let other := fun (c : Nat) => (s.core c).dirty = true ∨ ∃ x, (s.core c).last = some x ∧ x ≠ (g.vi, domainOf chain)
    (∃ g', u.gang? key = some g' ∧ g'.st = .placed ∧ g'.cores = cores ∧ g'.held = chain.map (fun x => x.1) ∧ g'.quantumFrom = (s.die g.die).ageclk ∧ g'.fresh = false
      ∧ g'.asn = effective 1 chain)
    ∧ (∀ x ∈ chain, (u.useOf g.vi x.1).cores = (s.useOf g.vi x.1).cores + cores.length)
    ∧ (∀ c ∈ cores, (u.core c).split = g.split ∧ (u.core c).last = some (g.vi, domainOf chain) ∧ (other c → (u.core c).scratch = [] ∧ (u.core c).slots = [] ∧ (u.core c).accs = []))
    ∧ ∀ i, i < g.ntask →
        let tid := 4 * cores.getD (i / g.percore) 0 + i % g.percore
        let t := u.thread tid
        t.live = true ∧ t.vi = g.vi ∧ t.gang = key ∧ t.index = i ∧ t.pc = g.entry ∧ t.priv = (if g.sup then .supervisor else .task)
        ∧ (∀ r : Reg, t.reg r = if 1 ≤ r.toNat ∧ r.toNat ≤ 7 then g.args.getD (r.toNat - 1) 0 else if r = 8 then BitVec.ofNat 64 i else 0)
        ∧ { t with live := false, uid := 0, vi := 0, gang := 0, index := 0, regs := [], pc := 0, priv := .task } = CThread.vacant)

/-- A PARK whose pages pass their checks (its header then lies at x under key, and holds no struck data), and, once the stores to its control word that the die has buffered have performed (s2), whose record is aligned, well formed and ready to park, whose slabs are valid and unparked, whose gang has one task, and whose task holds no tile, accumulator or race, enters a record in SAVING with its address, gd, wake, dwell and hot-window values (zero taking its default) and the task parked under it with its pc unmoved (u), and does at once what a further turn of the PARK does in u; while the queue has not drained or a command of the task is outstanding that is to wait there. The turn of a PARK under a record of its address, once its queue has drained, no command of its task is outstanding and the release at system scope is ready (leading to v1), with the context area on no page that moves and writable (v2), completes the saving: the thread is vacant, its vector thread fresh, its tiles gone and its core free; its gang is parked with no core and no region counted, and keeps the task under the record's seed, its registers and trap registers as they stood, the pc at the PARK, its vector thread's registers, queues, return queue and CSRs, and the core's scratchpad (log 90); the record stays in SAVING as it was, with its gd, and its CTXMAC is written at the home. Then the dispatchers decide. -/
def Obligations.Parking : Prop :=
  (∀ (s s1 : State) (d a : Reg) (x : Nat) (key : BitVec 256) (g : Gang),
    let tid := s.cur
    let t := s.thread tid
    let ga := s.reg tid a
    let s2 := s1.awaitEgress (tid / 64) (.hbm x) 8
    let w := fun (off : Nat) => s2.physWord (tid / 64) key (x + off)
    let n := bits (w 0) 7 4
    t.parked = none →
    parkChecks (s.flushScalar tid) tid (parkPages ga (contextBytes (s.core (tid / 4)).split)) none = .ok (some (.here (.hbm x) key), s1) →
    s2.poison = [] →
    ga.toNat % 256 = 0 → ga.toNat / 2 ^ 48 % 256 ≠ 0xFE → bits (w 0) 63 8 = 0 → n ≤ 8 →
    (∀ i, i < n → parkSlabOk s2 tid (bits (w (0x40 + 8 * i)) 13 0) = true) →
    s2.gangOfTask (s2.thread tid) = some g → g.ntask ≤ 1 → (bits (w 0) 2 0 = 0 ∨ bits (w 0) 2 0 = 5) →
    (∀ e ∈ s2.recs, ¬ (e.2.at_ = x ∧ e.2.vi = (s2.thread tid).vi)) →
    (∀ e ∈ (s2.core (tid / 4)).slots, e.2.st = .empty ∨ e.2.own ≠ tid % 4) → (∀ e ∈ (s2.core (tid / 4)).accs, e.2.st = .empty ∨ e.2.own ≠ tid % 4) →
    (s2.thread tid).race = none →
    ∃ u r, exec (.park d a) s = exec (.park d a) u ∧ u.cur = tid ∧ u.thread tid = { s2.thread tid with parked := some s2.ids } ∧ u.rec? s2.ids = some r
      ∧ r.st = .saving ∧ r.va = ga ∧ r.at_ = x ∧ r.key = key ∧ r.gang = (s2.thread tid).gang ∧ r.gd = d
      ∧ r.hotTokens = (if bits (w 0x10) 31 0 = 0 then 4096 else bits (w 0x10) 31 0)
      ∧ r.d1 = (if bits (w 0x18) 31 0 = 0 then 20000 else bits (w 0x18) 31 0)
      ∧ r.d2 = (if bits (w 0x18) 63 32 = 0 then 2000000 else bits (w 0x18) 63 32)
      ∧ r.slabs = (List.range n).map (fun i => bits (w (0x40 + 8 * i)) 13 0)
      ∧ (u.vectorQuiet tid = false ∨ u.hub.fcQ.any (fun c => c.uid = t.uid) = true → Ends (.park d a) s u))
  ∧ (∀ (v v1 v2 : State) (d a : Reg) (m : Nat) (r : ParkRec) (g : Gang),
    let tid := v.cur
    let t := v.thread tid
    let mine := fun (l : List Cmd) => l.any (fun c => c.uid = t.uid)
    t.parked = some m → v.rec? m = some r → r.va = v.reg tid a → r.st = .saving → t.wait = .none →
    v.vectorQuiet tid = true → (v.cores.any (fun c => mine c.2.copyQ) || v.dies.any (fun c => mine c.2.pageQ) || mine v.hub.fcQ) = false →
    v.releaseReady tid 4 = .ok v1 → v1.gang? t.gang = some g → (v1.gangs.map (fun e => e.1)).Pairwise (fun x y => x < y) → g.held.Nodup →
    let split := (v1.core (tid / 4)).split
    let area := (r.va.toNat + 256) % 2 ^ 56
    v1.areaMoves r.die r.vi r.asn area (contextBytes split) = false →
    (v1.takeTask tid).2.writeArea r.die r.vi r.asn area (contextBytes split) r.seed = some v2 →
    ∃ (u : State) (g' : Gang) (sv : SavedTask), Ends (.park d a) v u.decideAll
      ∧ u.thread tid = CThread.vacant ∧ u.vthread tid = VThread.fresh
      ∧ (∀ e ∈ (u.core (tid / 4)).slots, e.2.own ≠ tid % 4) ∧ (∀ e ∈ (u.core (tid / 4)).accs, e.2.own ≠ tid % 4)
      ∧ (∀ key h, u.gangOn (tid / 4) = some (key, h) → key ≠ t.gang)
      ∧ (∀ x ∈ g.held, (u.useOf g.vi x).cores = (v1.useOf g.vi x).cores - g.cores.length)
      ∧ u.gang? t.gang = some g' ∧ g'.st = .parked ∧ g'.cores = [] ∧ g'.held = [] ∧ g'.seed = r.seed ∧ g'.saved = [(t.index, sv)]
      ∧ g'.pads = [(v1.core (tid / 4)).scratch] ∧ g'.splits = [split]
      ∧ sv.ct = { v1.thread tid with live := false, early := none } ∧ sv.ct.pc = t.pc ∧ sv.ct.regs = t.regs ∧ sv.ct.parked = some m
      ∧ (let x := v1.vthread tid
         sv.vt.regs = x.regs ∧ sv.vt.queues = x.queues ∧ sv.vt.binds = x.binds ∧ sv.vt.bargs = x.bargs ∧ sv.vt.ret = x.ret
         ∧ sv.vt.vl = x.vl ∧ sv.vt.vr = x.vr ∧ sv.vt.fill = x.fill ∧ sv.vt.rad = x.rad ∧ sv.vt.fstat = x.fstat ∧ sv.vt.fctl = x.fctl ∧ sv.vt.fidx = x.fidx)
      ∧ (∃ x, u.rec? m = some x ∧ { x with woken := r.woken } = r)
      ∧ (∀ i, i < 48 → u.hbmByte r.key (r.at_ + 0x80 + i) = Config.ctxMac r.seed i))

/-- An instruction that begins at its first element with no bound queue among its operands reads vector registers for codes 0 to 31, block arguments (their low 32 bits) for 36 to 43, the literal for 44 and FILL for 45 and above; the neighbour modifiers read the element before or behind in the row and FILL at the row's end; a queue operand pops the oldest group of its queue, whose elements beyond its shape read FILL, and the queue keeps the groups behind it. -/
def Obligations.VectorOperands : Prop :=
  ∀ (s s' : State) (f : VFields) (c : Reading) (i : Nat),
    let tid := s.cur
    let v := s.vthread tid
    Begins s tid f [f.sa] [] c s' → s.poison = [] → v.work.popped = none → v.work.vstart = 0 → v.binds = [] → i < c.total →
    let r := i / v.vl
    let e := i % v.vl
    (f.sa.toNat < 32 → f.nb = 0 → c.srcA i = Tab.get 0 (r * 256 + e) (Tab.get [] f.sa.toNat v.regs))
    ∧ (f.sa.toNat < 32 → f.nb = 1 → c.srcA i = if e = 0 then v.fill else Tab.get 0 (r * 256 + (e - 1)) (Tab.get [] f.sa.toNat v.regs))
    ∧ (f.sa.toNat < 32 → f.nb = 2 → c.srcA i = if e + 1 = v.vl then v.fill else Tab.get 0 (r * 256 + (e + 1)) (Tab.get [] f.sa.toNat v.regs))
    ∧ (36 ≤ f.sa.toNat → f.sa.toNat ≤ 43 → f.nb = 0 → c.srcA i = (Tab.get 0 (f.sa.toNat - 36) v.bargs).setWidth 32)
    ∧ (f.sa.toNat = 44 → f.nb = 0 → c.srcA i = f.lit.setWidth 32) ∧ (45 ≤ f.sa.toNat → f.nb = 0 → c.srcA i = v.fill)
    ∧ (∀ q g gs, f.sa.toNat = 32 + q → q < 4 → f.nb = 0 → Tab.get [] q v.queues = g :: gs →
        c.srcA i = (if r < g.vr ∧ e < g.vl then g.data.getD (r * g.vl + e) v.fill else v.fill) ∧ Tab.get [] q (s'.vthread tid).queues = gs)

/-- For every element-wise instruction (elementTable names each with its operand fields and the result and flags of one element), one that may begin, in a turn that performs all that is left of it, names no register of vd through a neighbour modifier and raises no flag that FCTL enables completes: each active element from VSTART on holds the result, a masked-off one keeps its value or holds FILL by its mask policy, the tail keeps its values or holds FILL, no other vector register changes, FSTAT gains the flags of the active elements, the block goes on behind the word, and nothing outside the vector thread changes. In a turn that performs n + 1 element groups of such an instruction, where these do not reach its end, the active elements from VSTART up to the end of the last of these groups hold their results, every other element that is active or outside the tile keeps its value, VSTART names the element behind them, and the instruction stays in execution. For VSPLAT, VGATH, VSLUP, VSLDN and VCONF (crossTable gives the element each index reads: FILL where the named index lies outside the tile, or outside its row for a row slide; VCONF the number of active lower indices with an equal element), one that may begin, in a turn that performs all of it, and whose source is not vd (nor vd v0 under a mask) completes and places its results as R281 says. -/
def Obligations.ElementwiseInstructions : Prop :=
  ((∀ (s s' : State) (f : VFields) (c : Reading), ∀ op ∈ elementTable f,
    let tid := s.cur
    Begins s tid f op.codes [] c s' → (f.nb = 0 ∨ f.sa.toNat ≠ f.vd.toNat) →
    (∀ i, c.todo i → (op.value c i).2 &&& c.v.fctl = 0) →
    ∃ t, Ends op.instr s t ∧ Swept s' t tid c (fun i => (op.value c i).1) ∧ Flagged s' t tid c (fun i => (op.value c i).2) ∧ Completed s' t tid f)
  ∧ (∀ (s s1 : State) (f : VFields) (c : Reading) (n : Nat), ∀ op ∈ elementTable f,
    let tid := s.cur
    let size := 64 / (s.core (tid / 4)).split
    let stop := (c.v.work.vstart / size + n + 1) * size
    s.vectorRuns tid = true → s.share = .groups n → s.begin_ tid f op.codes [] = .ok (c, s1) → c.v.vl ≤ 256 ∧ c.v.vr ≤ 8 → c.v.work.packets = [] →
    (f.nb = 0 ∨ f.sa.toNat ≠ f.vd.toNat) → stop < c.total → (∀ i, c.todo i → (op.value c i).2 &&& c.v.fctl = 0) →
    ∃ t, Ends op.instr s t
      ∧ (∀ i, c.todo i → (t.vthread tid).elem f.vd.toNat (c.row i) (c.col i) = if i < stop then (op.value c i).1 else (s1.vthread tid).elem f.vd.toNat (c.row i) (c.col i))
      ∧ (∀ r e, ¬ (r < c.v.vr ∧ e < c.v.vl) → e < 256 → (t.vthread tid).elem f.vd.toNat r e = (s1.vthread tid).elem f.vd.toNat r e)
      ∧ (t.vthread tid).work.vstart = stop ∧ (t.vthread tid).work.run = (s1.vthread tid).work.run
      ∧ (∀ r, t.reg tid r = s1.reg tid r) ∧ (t.thread tid).pc = (s1.thread tid).pc))
  ∧ (∀ (s s' : State) (f : VFields) (c : Reading), ∀ op ∈ crossTable f,
    let tid := s.cur
    Begins s tid f op.codes [] c s' → f.sa.toNat ≠ f.vd.toNat → (f.vd = 0 → f.mask = 0) →
    ∃ t, Ends op.instr s t ∧ Swept s' t tid c (fun i => (op.value c i).1) ∧ Completed s' t tid f)

/-- When active element i of an element-wise instruction raises a flag whose FCTL bit is 1 and no active element below it from VSTART on does, the results of the active elements up to and including i stand in vd, those above keep their values, the flags of the elements up to i are merged, VSTART names the element behind i, and the thread holds FP_TRAP pending with i in TVAL; the instruction does not complete and the control thread's registers and pc do not change. An element-wise instruction whose neighbour modifier stands on the register that vd names, and a cross-lane instruction that places results whose source is that register or whose vd is v0 under a mask, becomes a held OPERAND_OVERLAP with its word in TVAL, pops no group and writes no register. -/
def Obligations.EnabledFlagsTrap : Prop :=
  (∀ (s s' : State) (f : VFields) (c : Reading) (i : Nat) (r : BlockRun), ∀ op ∈ elementTable f,
    let tid := s.cur
    Begins s tid f op.codes [] c s' → (f.nb = 0 ∨ f.sa.toNat ≠ f.vd.toNat) → (s'.vthread tid).work.run = some r → (s'.thread tid).pending = [] →
    c.todo i → (op.value c i).2 &&& c.v.fctl ≠ 0 → (∀ j, j < i → c.todo j → (op.value c j).2 &&& c.v.fctl = 0) →
    ∃ t, Ends op.instr s t
      ∧ (∀ j, c.todo j → (t.vthread tid).elem f.vd.toNat (c.row j) (c.col j) = if j ≤ i then (op.value c j).1 else (s'.vthread tid).elem f.vd.toNat (c.row j) (c.col j))
      ∧ (t.vthread tid).work.vstart = i + 1 ∧ (t.vthread tid).work.run = some r ∧ (t.vthread tid).work.faulted = true
      ∧ (∀ k, k < 5 → ((t.vthread tid).fstat.getLsbD k = true ↔ (s'.vthread tid).fstat.getLsbD k = true ∨ ∃ j, j ≤ i ∧ c.todo j ∧ (op.value c j).2.getLsbD k = true))
      ∧ (∃ p, (t.thread tid).pending = [p] ∧ p.kind = .vector ∧ p.cause = causeFpTrap ∧ p.tval = BitVec.ofNat 64 i ∧ p.tseq = r.seq)
      ∧ (∀ x, t.reg tid x = s'.reg tid x) ∧ (t.thread tid).pc = (s'.thread tid).pc)
  ∧ (∀ (s : State) (f : VFields) (r : BlockRun),
    let tid := s.cur
    s.vectorRuns tid = true → (s.vthread tid).work.run = some r → (s.thread tid).pending = [] →
    let Held := fun (i : Instr) => ∃ t p, Ends i s t ∧ (t.thread tid).pending = [p] ∧ p.kind = .vector ∧ p.cause = causeOperandOverlap ∧ p.tval = i.word
      ∧ (t.vthread tid).regs = (s.vthread tid).regs ∧ (t.vthread tid).queues = (s.vthread tid).queues ∧ (t.vthread tid).work.run = some r
    (f.nb ≠ 0 → f.sa.toNat = f.vd.toNat → ∀ op ∈ elementTable f, Held op.instr)
    ∧ (f.sa.toNat = f.vd.toNat ∨ (f.vd = 0 ∧ f.mask ≠ 0) →
        (∀ op ∈ crossTable f, Held op.instr)
        ∧ ∀ i ∈ [Instr.vcmpr f, .vrsum f, .vrmin f, .vrmax f, .vrts f, .vfold f, .vscan f], Held i))

/-- With its operands there, no overlap, VSTART 0 and room in the return queue, a one-step instruction completes: VCMPR packs the active elements of sa in order at the lowest indices and pushes their number when asked to; on integers VRSUM gives the sum modulo 2^32, and VRMIN and VRMAX the least and greatest of the active elements (the identity when none is active) at index 0, on floats the pairwise tree of R348 over 2048 places, and VRTS the two-sum tree's high and low parts at indices 0 and 1, each pushing its result when asked to; when an enabled flag is raised the instruction does not complete so (this statement asks that none is). -/
def Obligations.Reductions : Prop :=
  ∀ (s s' : State) (f : VFields) (c : Reading),
    let tid := s.cur
    Begins s tid f [f.sa] [] c s' → f.sa.toNat ≠ f.vd.toNat → (f.vd = 0 → f.mask = 0) → c.v.work.vstart = 0 → (s'.vthread tid).ret.length < 16 →
    let xs := (List.range c.total).filter c.active
    let at0 := fun (j : Nat) => c.plainA (j / c.v.vl) (j % c.v.vl)
    let push := f.ext.getLsbD 0
    let Gives := fun (i : Instr) (n : Nat) (x : Nat → Elem) (entry : Word) => ∃ t, Ends i s t ∧ Completed s' t tid f
      ∧ (∀ j, j < n → (t.vthread tid).elem f.vd.toNat (c.row j) (c.col j) = x j)
      ∧ (∀ m, m ≠ f.vd.toNat → Tab.get [] m (t.vthread tid).regs = Tab.get [] m (s'.vthread tid).regs)
      ∧ (t.vthread tid).ret = (s'.vthread tid).ret ++ (if push then [entry] else [])
    let wide := fun (x : Elem) => (if f.ty = 2 then x.signExtend 64 else x.setWidth 64 : Word)
    let ints := xs.map (fun j => intOf f.ty (at0 j))
    Gives (.vcmpr f) xs.length (fun j => at0 (xs.getD j 0)) (BitVec.ofNat 64 xs.length)
    ∧ (2 ≤ f.ty.toNat → let x := BitVec.ofInt 32 ints.sum
        Gives (.vrsum f) 1 (fun _ => x) (wide x))
    ∧ (2 ≤ f.ty.toNat →
        (let x : Elem := match ints with | [] => identity f.ty 1 | y :: ys => BitVec.ofInt 32 (ys.foldl Min.min y)
         Gives (.vrmin f) 1 (fun _ => x) (wide x))
        ∧ (let x : Elem := match ints with | [] => identity f.ty 2 | y :: ys => BitVec.ofInt 32 (ys.foldl Max.max y)
           Gives (.vrmax f) 1 (fun _ => x) (wide x)))
    ∧ (f.ty.toNat ≤ 1 → ∀ op x fl, op ≤ 2 →
        (tree (combine f op) (identity f.ty op) 11 ((List.range c.total).map (fun j => if c.active j then at0 j else identity f.ty op))) = ([x], fl) →
        fl &&& c.v.fctl = 0 → Gives (if op = 0 then .vrsum f else if op = 1 then .vrmin f else .vrmax f) 1 (fun _ => x) (wide x))
    ∧ (2 ≤ c.v.vl → ∀ hi lo fl,
        tree twoSumNode (0x80000000, 0x80000000) 11 ((List.range c.total).map (fun j => (if c.active j then at0 j else 0x80000000, 0x80000000))) = ([(hi, lo)], fl) →
        fl &&& c.v.fctl = 0 → Gives (.vrts f) 2 (fun j => if j = 0 then hi else lo) (BitVec.ofNat 64 (lo.toNat * 2 ^ 32 + hi.toNat)))

/-- With its operands there and VSTART 0: while the return queue holds fewer than 16 entries VMPOP pushes the number of active elements whose bit 0 is set, VMFIRST the lowest such index or all ones, and (on integers) VRMINI and VRMAXI the least or greatest active element with the lowest index that holds it, and the instruction completes with no vector register changed; while it holds 16 the instruction does not complete and pushes nothing. For every type VRMINI and VRMAXI push the active element, not NaN, that is least or greatest in key order (of b16 its upper half), at the lowest index among equals; with no such element they push the identity with index FFFFFFFFH; an active signalling NaN raises invalid (here not enabled). -/
def Obligations.ReturnQueuePushes : Prop :=
  (∀ (s s' : State) (f : VFields) (c : Reading),
    let tid := s.cur
    Begins s tid f [f.sa] [] c s' → c.v.work.vstart = 0 →
    let bits := (List.range c.total).filter (fun j => c.active j && (c.srcA j).getLsbD 0)
    let at0 := fun (j : Nat) => c.plainA (j / c.v.vl) (j % c.v.vl)
    let Pushes := fun (i : Instr) (entry : Word) => ∃ t, Ends i s t ∧ Completed s' t tid f ∧ (t.vthread tid).regs = (s'.vthread tid).regs
      ∧ (t.vthread tid).ret = (s'.vthread tid).ret ++ [entry]
    ((s'.vthread tid).ret.length < 16 →
      Pushes (.vmpop f) (BitVec.ofNat 64 bits.length)
      ∧ Pushes (.vmfirst f) (match bits with | j :: _ => BitVec.ofNat 64 j | [] => 0xFFFFFFFFFFFFFFFF)
      ∧ (2 ≤ f.ty.toNat → f.ty.toNat ≤ 3 → ∀ j, j < c.total → c.active j = true →
          ((∀ k, k < c.total → c.active k = true → intOf f.ty (at0 j) ≤ intOf f.ty (at0 k) ∧ (at0 k = at0 j → j ≤ k)) →
            Pushes (.vrmini f) (BitVec.ofNat 64 (j * 2 ^ 32 + (at0 j).toNat)))
          ∧ ((∀ k, k < c.total → c.active k = true → intOf f.ty (at0 k) ≤ intOf f.ty (at0 j) ∧ (at0 k = at0 j → j ≤ k)) →
            Pushes (.vrmaxi f) (BitVec.ofNat 64 (j * 2 ^ 32 + (at0 j).toNat)))))
    ∧ ((s'.vthread tid).ret.length = 16 → ∀ i ∈ [Instr.vmpop f, .vmfirst f, .vrmini f, .vrmaxi f], Ends i s s'))
  ∧ (∀ (s s' : State) (f : VFields) (c : Reading),
    let tid := s.cur
    let at0 := fun (j : Nat) => c.plainA (j / c.v.vl) (j % c.v.vl)
    let float := decide (f.ty.toNat ≤ 1)
    let Signals := ∃ i, i < c.total ∧ c.active i = true ∧ (readFloat (f.ty = 1) (at0 i)).signals = true
    let In := fun (i : Nat) => i < c.total ∧ c.active i = true ∧ (float = true → (readFloat (f.ty = 1) (at0 i)).isNan = false)
    let val := fun (i : Nat) => if f.ty = 1 then at0 i &&& 0xFFFF0000 else at0 i
    let key := fun (i : Nat) => (keyOf f.ty.toNat (at0 i)).toNat
    let top : Elem := if float then 0x7F800000 else if f.ty = 2 then 0x7FFFFFFF else 0xFFFFFFFF
    let bottom : Elem := if float then 0xFF800000 else if f.ty = 2 then 0x80000000 else 0
    Begins s tid f [f.sa] [] c s' → c.v.work.vstart = 0 → (s'.vthread tid).ret.length < 16 → f.ty.toNat ≤ 3 →
    ∀ fl : FlagSet, (float = true → Signals → fl = flagNv) → (float = false ∨ ¬ Signals → fl = 0) → fl &&& c.v.fctl = 0 →
    let Pushes := fun (i : Instr) (entry : Nat) => ∃ t, Ends i s t ∧ Completed s' t tid f ∧ (t.vthread tid).regs = (s'.vthread tid).regs
      ∧ (t.vthread tid).ret = (s'.vthread tid).ret ++ [BitVec.ofNat 64 entry] ∧ (t.vthread tid).fstat = (s'.vthread tid).fstat ||| fl
    (∀ j, In j → (∀ k, In k → key j ≤ key k ∧ (key k = key j → j ≤ k)) → Pushes (.vrmini f) (j * 2 ^ 32 + (val j).toNat))
    ∧ (∀ j, In j → (∀ k, In k → key k ≤ key j ∧ (key k = key j → j ≤ k)) → Pushes (.vrmaxi f) (j * 2 ^ 32 + (val j).toNat))
    ∧ ((∀ j, ¬ In j) → Pushes (.vrmini f) (0xFFFFFFFF * 2 ^ 32 + top.toNat) ∧ Pushes (.vrmaxi f) (0xFFFFFFFF * 2 ^ 32 + bottom.toNat)))

/-- On integers, with operands there, no overlap and VSTART 0: VSCAN gives each active index the combination (sum, least, greatest or exclusive or by the operation code) of the active elements up to and including it, or below it for the exclusive form, from the identity; VFOLD gives row 0 of each column the combination of the column's active elements by the tree of R351; VSCAN places the rest of vd by mask and tail, VFOLD leaves or fills everything outside row 0 by its tail policy, and both complete. On floats, b16 read as b16, when no combination raises an enabled flag: VSCAN combines in flat order from the identity (an inactive element enters as it), VFOLD over the tree, a sum rounded in the mode each time, the least or greatest in key order with a NaN losing to a number; both raise the flags of all their combinations. -/
def Obligations.FoldsAndScans : Prop :=
  (∀ (s s' : State) (f : VFields) (c : Reading),
    let tid := s.cur
    Begins s tid f [f.sa] [] c s' → f.sa.toNat ≠ f.vd.toNat → (f.vd = 0 → f.mask = 0) → c.v.work.vstart = 0 → 2 ≤ f.ty.toNat → f.ty.toNat ≤ 3 →
    let op := f.ext.toNat % 4
    let at0 := fun (j : Nat) => c.plainA (j / c.v.vl) (j % c.v.vl)
    let id := identity f.ty op
    let running := fun (n : Nat) => ((List.range n).filter c.active).foldl (fun a j => (combine f op a (at0 j)).1) id
    (∃ t, Ends (.vscan f) s t ∧ Completed s' t tid f ∧ Swept s' t tid c (fun i => running (if f.ext.getLsbD 2 then i else i + 1)))
    ∧ (∃ t, Ends (.vfold f) s t ∧ Completed s' t tid f
        ∧ (∀ e, e < c.v.vl → (t.vthread tid).elem f.vd.toNat 0 e =
            ((tree (combine f op) id 3 ((List.range 8).map (fun r => if r < c.v.vr ∧ c.active (r * c.v.vl + e) then c.plainA r e else id))).1.head?).getD id)
        ∧ (∀ r e, r < 8 → e < maxlOf (s'.core (tid / 4)).split → ¬ (r = 0 ∧ e < c.v.vl) → (t.vthread tid).elem f.vd.toNat r e =
            if f.tail = 0 then (s'.vthread tid).elem f.vd.toNat r e else c.v.fill)
        ∧ (∀ m, m ≠ f.vd.toNat → Tab.get [] m (t.vthread tid).regs = Tab.get [] m (s'.vthread tid).regs)))
  ∧ (∀ (s s' : State) (f : VFields) (c : Reading),
    let tid := s.cur
    let op := f.ext.toNat % 4
    Begins s tid f [f.sa] [] c s' → f.sa.toNat ≠ f.vd.toNat → (f.vd = 0 → f.mask = 0) → c.v.work.vstart = 0 → f.ty.toNat ≤ 1 → op ≤ 2 →
    let read := readFloat (f.ty = 1)
    let g := fun (a b : Elem) => if op = 0 then addFl (f.ty = 1) (modeOf f) (read a) (read b) else pick f.ty (decide (op = 2)) a b
    let id : Elem := if op = 0 then 0x80000000 else if op = 1 then 0x7F800000 else 0xFF800000
    let leaf := fun (j : Nat) => if c.active j then c.plainA (j / c.v.vl) (j % c.v.vl) else id
    let acc := fun (n : Nat) => (List.range n).foldl (fun a j => (g a (leaf j)).1) id
    let column := fun (e : Nat) => tree g id 3 ((List.range 8).map (fun r => if r < c.v.vr ∧ c.active (r * c.v.vl + e) then c.plainA r e else id))
    let Raises := fun (t : State) (n : Nat) (fl : Nat → FlagSet) => ∀ k, k < 5 →
      ((t.vthread tid).fstat.getLsbD k = true ↔ (s'.vthread tid).fstat.getLsbD k = true ∨ ∃ i, i < n ∧ (fl i).getLsbD k = true)
    ((∀ i, i < c.total → (g (acc i) (leaf i)).2 &&& c.v.fctl = 0) → ∃ t, Ends (.vscan f) s t ∧ Completed s' t tid f
      ∧ Swept s' t tid c (fun i => acc (if f.ext.getLsbD 2 then i else i + 1)) ∧ Raises t c.total (fun i => (g (acc i) (leaf i)).2))
    ∧ ((∀ e, e < c.v.vl → (column e).2 &&& c.v.fctl = 0) → ∃ t, Ends (.vfold f) s t ∧ Completed s' t tid f
      ∧ (∀ e, e < c.v.vl → (t.vthread tid).elem f.vd.toNat 0 e = ((column e).1.head?).getD id) ∧ Raises t c.v.vl (fun e => (column e).2)
      ∧ (∀ r e, r < 8 → e < maxlOf (s'.core (tid / 4)).split → ¬ (r = 0 ∧ e < c.v.vl) → (t.vthread tid).elem f.vd.toNat r e =
          if f.tail = 0 then (s'.vthread tid).elem f.vd.toNat r e else c.v.fill)
      ∧ (∀ m, m ≠ f.vd.toNat → Tab.get [] m (t.vthread tid).regs = Tab.get [] m (s'.vthread tid).regs))
    ∧ (∀ (high : Bool) (a b : Elem),
        let half := fun (x : Elem) => if f.ty = 1 then x &&& 0xFFFF0000 else x
        let p := pick f.ty high a b
        ((read a).isNan = true → (read b).isNan = true → p.1 = 0x7FC00000) ∧ ((read a).isNan = true → (read b).isNan = false → p.1 = half b)
        ∧ ((read a).isNan = false → (read b).isNan = true → p.1 = half a)
        ∧ ((read a).isNan = false → (read b).isNan = false → (p.1 = half a ∨ p.1 = half b)
          ∧ ∀ x ∈ [a, b], if high then (keyOf f.ty.toNat x).toNat ≤ (keyOf f.ty.toNat p.1).toNat else (keyOf f.ty.toNat p.1).toNat ≤ (keyOf f.ty.toNat x).toNat)
        ∧ p.2 = (if (read a).signals || (read b).signals then flagNv else 0)))

/-- Rounding the magnitude n/d of a signed quotient at the units place gives the quotient itself, exact, when d divides n; otherwise it is inexact and gives: to nearest, an integer at most one half away and the even one at exactly one half; towards zero, the integer below in magnitude; downwards or upwards, the integer on that side for the sign. -/
def Obligations.RoundingToIntegers : Prop :=
  ∀ (neg : Bool) (n d : Nat), 0 < d →
    let q := fun (m : Rounding) => (roundAt m neg n d 0).1
    (∀ m, (roundAt m neg n d 0).2 = false ↔ d ∣ n) ∧ (d ∣ n → ∀ m, q m = n / d)
    ∧ (2 * (max (q .rne * d) n - min (q .rne * d) n) ≤ d) ∧ (2 * (max (q .rne * d) n - min (q .rne * d) n) = d → q .rne % 2 = 0)
    ∧ q .rtz = n / d
    ∧ (¬ d ∣ n → q .rdn = (if neg then n / d + 1 else n / d) ∧ q .rup = (if neg then n / d else n / d + 1))

/-- In a running block VNOP completes and changes nothing else; VSBAR completes with no store put into effect (it keeps the order by a mark among the issued stores, log 95) and no register changed, and from then on an issued store of a stream it names has to take effect before an access that any stream it names makes by a later instruction; VSTOP of a block that is the head entry ends the block, takes the entry off the queue, makes its sequence number the latest completed and keeps the vector registers, the queues and VL and VR; REGISTER_RETENTION of a partition idle for 8192 cycles marks it retained and keeps its contents. VSTRM completes with its queue bound to the cursor, the count (sb's low 32 bits), the stream, the space and the format it names, or unbound at a count of zero, and no other queue's binding changed. RUNAHEAD_LOAD of a VLD with Q = 1 that the access unit reaches (walkTo) less than RAD instructions ahead (RAD as the entries before the load set it), with room for its rows, none of its registers still to be written and no earlier access of its stream still to be made, whose accesses pass and stand in this module, keeps its group for it and changes no register, queue or memory. -/
def Obligations.BlocksAndBarriers : Prop :=
  (∀ (s : State) (f : VFields) (r : BlockRun) (e : VcqEntry) (rest : List VcqEntry),
    let tid := s.cur
    let v := s.vthread tid
    (s.vectorRuns tid = true → (∃ t, Ends (.vnop f) s t ∧ Completed s t tid f ∧ (t.vthread tid).regs = v.regs ∧ (t.vthread tid).queues = v.queues)
      ∧ (∃ t, Ends (.vsbar f) s t ∧ Completed s t tid f ∧ (t.vthread tid).pend = v.pend ∧ (t.vthread tid).regs = v.regs
        ∧ (∀ p ∈ v.pend, ∀ b n, p.stream < 8 → b < 8 → f.ext.getLsbD p.stream = true → f.ext.getLsbD b = true → p.insn ≤ v.issued → v.issued < n →
            barred (t.vthread tid).bars p.stream p.insn b n = true)))
    ∧ (s.vectorRuns tid = true → v.work.run = some r → r.drain = none → v.work.vcq = e :: rest →
        ∃ t, Ends (.vstop f) s t ∧ (t.vthread tid).work.run = none ∧ (t.vthread tid).work.vcq = rest ∧ (t.thread tid).vdone = e.seq
          ∧ (t.vthread tid).regs = v.regs ∧ (t.vthread tid).queues = v.queues ∧ (t.vthread tid).vl = v.vl ∧ (t.vthread tid).vr = v.vr)
    ∧ (s.hasVector tid = true → s.vectorQuiet tid = true → v.retained = false → 8192 ≤ (s.core (tid / 4)).cycle - v.idleFrom →
        Ends (.registerRetention tid) s (s.setVthread tid { v with retained := true })))
  ∧ (∀ (s s1 s2 s3 : State) (f : VFields) (c b : Reading) (n x lit : Nat) (w : Walk) (good : List Checked),
    let tid := s.cur
    let v := s.vthread tid
    (Begins s tid f [] [] b s1 → ∃ t, Ends (.vstrm f) s t ∧ Completed s1 t tid f ∧ (t.vthread tid).regs = (s1.vthread tid).regs
      ∧ (∀ q, q ≠ f.queue → Tab.find q (t.vthread tid).binds = Tab.find q (s1.vthread tid).binds)
      ∧ (let count := (b.v.word f f.sb).toNat % 2 ^ 32
         Tab.find f.queue (t.vthread tid).binds = if count = 0 then none
           else some { cursor := b.base, left := count, stream := f.rs.toNat, space := f.space, fmt := f.fmt, ty := f.ty }))
    ∧ ((s.thread tid).live = true → s.hasVector tid = true → v.work.faulted = false → 0 < n → n < w.v.rad → s.walkTo tid n = some w →
        s.heldRows tid + w.v.vr ≤ 64 → s.instrAt tid w.addr w.word = some (.vld f, x, lit) → Tab.find (State.aheadKey w.seq w.word 0) v.ahead = none →
        f.q = true → (f.mask ≠ 0 → 0 ∉ w.wrote) → f.rs.toNat ∉ w.streams → (f.fmt = 16 → bits w.geom 61 58 ≠ 0) → s.poison = [] →
        c = w.reading f → s2 = s.orderVector tid f.rs.toNat n →
        s2.sound tid .read f.space false (fun _ => none) (vldPlan c) = (good, none, s3) → AllHere good →
        (∀ g ∈ good, (c.loaded g.1.idx (readVals s3 tid g.2)).isSome = true) → (good.map (fun g => g.1.idx)).Nodup →
        ∃ t, Ends (.runaheadLoad tid n) s t
          ∧ Tab.find (State.aheadKey w.seq w.word 0) (t.vthread tid).ahead =
              some (State.groupSoFar c (good.map (fun g => (g.1.idx, loadedAt s3 tid c good g.1.idx))), State.insnCode (x, lit))
          ∧ (t.vthread tid).regs = (s3.vthread tid).regs ∧ (t.vthread tid).queues = (s3.vthread tid).queues ∧ (t.vthread tid).work = (s3.vthread tid).work ∧ KeepsMemory s3 t))

/-- VLD, VLDS, VLDX and VGLL, the indexed ones once their sounding pass has let them on (soundAll), at their first element, with nothing performed ahead or sent, whose element addresses (contiguous, strided, indexed) all pass their checks and stand in this module, and whose bytes hold no reserved code, complete: without a queue each active element of vd holds the value its bytes give by format and type, the rest of vd is placed by mask and tail; with a queue, and room for its rows, one group of the VR × VL elements, FILL at the inactive ones, is delivered behind the queue's groups; no byte and no cell changes; VGLL also links the line of every element it read to the thread and stream. -/
def Obligations.VectorLoads : Prop :=
  ∀ (s s' s1 s2 : State) (f : VFields) (c : Reading) (good : List Checked), ∀ x ∈ [(Instr.vld f, ([] : List (BitVec 6)), vldPlan c), (.vlds f, [], c.loadPlan c.stridedEa),
        (.vldx f, [f.sb], c.loadPlan c.indexedEa), (.vgll f, [f.sb], c.loadPlan c.indexedEa)],
    let tid := s.cur
    Begins s tid f x.2.1 [] c s' → (bfpReady s tid f x.1.word).isOk = true → c.v.work.vstart = 0 → c.v.work.part = none → c.v.ahead = [] → c.v.work.early = [] → c.v.work.packets = [] →
    (if x.2.1 = [] then Except.ok s' else s'.soundAll tid .read f.space x.2.2) = .ok s1 →
    (s1.orderVector tid f.rs.toNat 0).sound tid .read f.space false (fun _ => none) x.2.2 = (good, none, s2) → AllHere good →
    (∀ g ∈ good, (c.loaded g.1.idx (readVals s2 tid g.2)).isSome = true) →
    ∃ t, Ends x.1 s t ∧ KeepsMemory s2 t
      ∧ (t.vthread tid).work.run = (s2.vthread tid).work.run.map (fun r => { r with word := r.word + (if f.l = 1 then 2 else 1) }) ∧ t.threads = s2.threads
      ∧ (f.q = false ∨ f.w = true → Swept s2 t tid c (loadedAt s2 tid c good))
      ∧ (f.q = true → f.w = false → (t.vthread tid).regs = (s2.vthread tid).regs)
      ∧ (f.q = true → s2.queuedRows tid + c.v.vr ≤ 64 → ∃ g : Group, Tab.get [] f.queue (t.vthread tid).queues = Tab.get [] f.queue (s2.vthread tid).queues ++ [g]
          ∧ g.vr = c.v.vr ∧ g.vl = c.v.vl ∧ g.data.length = c.total
          ∧ ∀ i, i < c.total → g.data[i]? = some (if c.active i then loadedAt s2 tid c good i else c.v.fill))
      ∧ (f.q = false → (t.vthread tid).queues = (s2.vthread tid).queues)
      ∧ (x.1 = .vgll f → ∀ g ∈ good, ∀ p ∈ g.2, ∀ l key, p.2 = .here l key → l.isByte = true → t.linkOf l = some (tid, f.rs.toNat))

/-- VST, VSTS and VSTX.o of a plain format, at their first element, not deferred, with nothing performed ahead or sent, the indexed ones sounded (soundAll), whose elements raise no enabled flag and whose addresses all pass their checks (leading to s1) and stand under one key in bytes whose home is the thread's die, complete once the stores ordered before them have taken effect (s2): each element that no later one overlaps stands in memory narrowed by format and type, every byte that no element covers is as before, no vector register, queue or scalar register changes, and the block goes on; VSTX.u does the same when no two elements go to one location. Deferred, a store of a plain format issues its elements' bytes in their order and changes no memory (that it may is log 3). VST of a block floating-point or raw-mantissa format, so begun and not deferred, rewrites each byte by the accesses to it in their order, each keeping the bits of other elements: an element's v-bit mantissa stands at bit v × its number from the base, the block's exponent byte at its number / 256. VSTN takes the elements up to the next multiple of 64 as VST does, leaving that count as the waypoint to write; the waypoint write, the release ready, stores the count at sb's address, with which the instruction goes on or, at VR × VL, completes. -/
def Obligations.VectorStores : Prop :=
  (∀ (s s' z s1 : State) (f : VFields) (c : Reading) (good : List Checked) (key : BitVec 256),
    let tid := s.cur
    let s2 := s1.orderVector tid f.rs.toNat 0
    let v := s2.vthread tid
    let Does := fun (i : Instr) (indexed : Bool) (plan : List VElem) => c.v.work.vstart = 0 → c.v.work.packets = [] → c.v.work.early = [] → (bfpReady s tid f i.word).isOk = true →
      (∀ e ∈ plan, c.v.firstEnabled e.flags = none) → (if indexed then s'.soundAll tid .write f.space plan else .ok s') = .ok z →
      z.sound tid .write f.space false (fun _ => none) plan = (good, none, s1) →
      (s1.defer = false → PlainHere s2 (tid / 64) key good →
        ∃ t, Ends i s t ∧ Stored s2 t (tid / 64) key good ∧ (t.vthread tid).regs = v.regs ∧ (t.vthread tid).queues = v.queues ∧ t.threads = s2.threads
          ∧ (t.vthread tid).work.run = v.work.run.map (fun r => { r with word := r.word + (if f.l = 1 then 2 else 1) }))
      ∧ (s1.defer = true → (∀ g ∈ good, ∃ a l, g.2 = [(a, .here l key)] ∧ a.keep = 0) →
        ∃ t ps, Ends i s t ∧ KeepsMemory s1 t ∧ (t.vthread tid).pend = (s1.vthread tid).pend ++ ps ∧ (t.vthread tid).regs = (s1.vthread tid).regs ∧ t.threads = s1.threads
          ∧ ps.map (fun p => (p.loc, p.key, p.data, p.stream)) = good.map (fun g => match g.2 with
            | (a, .here l k) :: _ => (l, k, leBytes a.n a.data.toNat, f.rs.toNat) | _ => (.hbm 0, 0, [], 0)))
    (Begins s tid f (scaleCodes f) [f.vd.toNat] c s' → f.fmt < 8 ∨ f.fmt = 17 →
      Does (.vst f) false (c.storePlan c.unitEa (f.sc ≠ 0)) ∧ Does (.vsts f) false (c.storePlan c.stridedEa (f.sc ≠ 0)))
    ∧ (Begins s tid f [f.sb] [f.vd.toNat] c s' →
        Does (.vstxO f) true (c.storePlan c.indexedEa false)
        ∧ (((localSpots good).map (fun p => p.2.1)).Nodup → Does (.vstxU f) true (c.storePlan c.indexedEa false))))
  ∧ (∀ (s s' z s1 : State) (f : VFields) (c : Reading) (good : List Checked) (key : BitVec 256),
    let tid := s.cur
    let s2 := s1.orderVector tid f.rs.toNat 0
    let v := s2.vthread tid
    (8 ≤ f.fmt → f.fmt ≤ 16 → Begins s tid f [] [f.vd.toNat] c s' → (bfpReady s tid f (Instr.vst f).word).isOk = true → c.v.work.vstart = 0 → c.v.work.packets = [] → c.v.work.early = [] →
      (∀ e ∈ vstPlan c, c.v.firstEnabled e.flags = none ∧ e.bad = false) → s'.sound tid .write f.space false (fun _ => none) (vstPlan c) = (good, none, s1) → s1.defer = false →
      v.pend = [] → (∀ g ∈ good, ∀ p ∈ g.2, ∃ l, p.2 = .here l key ∧ l.isByte = true ∧ l.home = tid / 64 ∧ s2.egressHolds (tid / 64) l p.1.n = false) →
      ∃ t, Ends (.vst f) s t ∧ (t.vthread tid).regs = v.regs ∧ (t.vthread tid).queues = v.queues ∧ t.threads = s2.threads
        ∧ (∀ b, b.isByte = true → t.homeByte key b = ((good.map (fun g => g.2)).flatten).foldl (fun x p => match p.2 with
            | .here l _ => if l.covers p.1.n b then (x &&& (bytesOf p.1.keep 8).getD (l.offsetOf b) 0) ||| (bytesOf p.1.data 8).getD (l.offsetOf b) 0 else x
            | _ => x) (s2.homeByte key b))
        ∧ (t.vthread tid).work.run = v.work.run.map (fun r => { r with word := r.word + (if f.l = 1 then 2 else 1) }))
    ∧ (∀ (i : Nat) (m : Int), let w := c.width
        let bit := c.number i * w
        let at_ := c.base + BitVec.ofNat 64 (bit / 8)
        let x := (m % 2 ^ w).toNat * 2 ^ (bit % 8)
        let k := (2 ^ w - 1) * 2 ^ (bit % 8)
        (c.mantissaAccs i m).map (fun a => (a.at_, a.n, a.data.toNat, a.keep.toNat)) =
          (if w = 16 then [(at_, 2, (m % 2 ^ 16).toNat, 0)]
           else (at_, 1, x % 256, 255 - k % 256) :: (if 256 ≤ k then [(at_ + 1, 1, x / 256 % 2 ^ 64, (255 - k / 256) % 2 ^ 64)] else []))
        ∧ c.exponentAcc i m.toNat = { oneAcc (i + 8192) (c.v.word c.f c.f.sb + BitVec.ofNat 64 (c.number i / 256)) 1 (BitVec.ofNat 64 m.toNat) with zeroEnds := true })
    ∧ (Begins s tid f (scaleCodes f) [f.vd.toNat] c s' → (z.vthread tid).work.packets = [] → (z.vthread tid).work.early = [] → z.share = .whole → c.v.work.packets = [] → c.v.work.vstart < c.total →
        let next := Nat.min c.total ((c.v.work.vstart / 64 + 1) * 64)
        let plan := ({ c with stop := next } : Reading).storePlan c.unitEa (f.sc ≠ 0)
        (∀ e ∈ plan, c.v.firstEnabled e.flags = none) → z.sound tid .write f.space false (fun _ => none) plan = (good, none, s1) → s1.defer = false → PlainHere s2 (tid / 64) key good →
        ∃ t, z.runSet tid c = (if next = c.total then .ok t else .error (.wait t)) ∧ Stored s2 t (tid / 64) key good ∧ (t.vthread tid).work.wayp = some next ∧ (t.vthread tid).work.vstart = next
          ∧ (t.vthread tid).regs = v.regs)
    ∧ (∀ (p : Nat) (a : VAcc) (l : Loc), let w := c.v.word c.f c.f.sb
        let z1 := z.flushVector tid (fun k => k = c.f.rs.toNat)
        let e : VElem := { idx := p, accs := [oneAcc p (w &&& ~~~7#64) 8 (BitVec.ofNat 64 p)], flags := [], bad := false }
        (z.vthread tid).work.packets = [] → (z.vthread tid).work.early = [] → (w.toNat % 8 < 3 ∨ z1.unperformed (z1.thread tid).uid (decide (w.toNat % 8 = 4)) = false) →
        z1.sound tid .write c.f.space false (fun _ => none) [e] = ([(e, [(a, .here l key)])], none, s1) → s1.defer = false → l.isByte = true → l.home = tid / 64 →
        let s3 := s1.orderVector tid c.f.rs.toNat 0
        s3.egressHolds (tid / 64) l 8 = false →
        ∃ t, z.writeWaypoint tid c p = .ok t ∧ Holds t (tid / 64) key l (bytesOf (BitVec.ofNat 64 p) 8) ∧ KeepsOutside s3 t key l 8 ∧ (t.vthread tid).work.wayp = none)
    ∧ (∀ s3 s4 s5 : State, ∀ checked : List Checked, Begins s tid f (scaleCodes f) [f.vd.toNat] c s' → (c.v.word f f.sb).toNat % 8 ≤ 4 →
        (c.v.work.packets = [] → c.v.work.wayp = none →
          s'.sound tid .write f.space false (fun _ => none) [{ idx := c.v.work.vstart, accs := [oneAcc c.v.work.vstart (c.v.word f f.sb &&& ~~~7#64) 8 0], flags := [], bad := false }] = (checked, none, s3) →
          (s3.runSet tid c = .error (.wait s4) → Ends (.vstn f) s s4)
          ∧ (s3.runSet tid c = .ok s4 → (s4.vthread tid).work.wayp = some c.total → s4.writeWaypoint tid c c.total = .ok s5 → Ends (.vstn f) s (s5.endVector tid f)))
        ∧ (∀ p, c.v.work.wayp = some p → s'.writeWaypoint tid c p = .ok s5 → Ends (.vstn f) s (if p = c.total then s5.endVector tid f else s5))))

/-- VSCC, at its first element with no step made yet, its addresses passing and no element's line shared with another's, no buffered store on them and bytes whose home is the die: writes 1 to vd and its element to memory where the line is linked to the thread and stream, writes 0 and leaves the word alone where it is not, and in both cases leaves the line unlinked. VSCTADD, so begun, of elements with distinct addresses, passing and standing so, replaces each word by its sum with the element (modulo 2^32, or the f32 sum rounded to nearest even, when no flag it raises is enabled) and completes; both leave every byte outside their words alone. -/
def Obligations.LinkedAndScattered : Prop :=
  ∀ (s s' s2 : State) (f : VFields) (c : Reading) (good : List Checked) (key : BitVec 256),
    let tid := s.cur
    let plan := (c.activeRest).map (fun i => ({ idx := i, accs := [oneAcc i (c.indexedEa i) 4 ((c.dest i).setWidth 64)], flags := [], bad := false } : VElem))
    let word := fun (x : State) (l : Loc) => (List.range 4).map (fun i => x.homeByte key (l.plus i))
    let sum := fun (x y : Elem) => if f.ty = 0 then addFl false .rne (readFloat false x) (readFloat false y) else (x + y, 0)
    let old := fun (l : Loc) => BitVec.ofNat 32 (leNat (word s2 l))
    let Outside := fun (t : State) => ∀ b, (∀ g ∈ good, ∀ p ∈ g.2, ∀ l k, p.2 = .here l k → l.covers 4 b = false) → t.homeByte key b = s2.homeByte key b
    Begins s tid f [f.sb] [f.vd.toNat] c s' → c.v.work.vstart = 0 → c.v.work.packets = [] → c.v.work.early = [] → c.v.work.atomic = none →
    PlainHere s2 (tid / 64) key good → (∀ g ∈ good, ∀ p ∈ g.2, p.1.n = 4) →
    ((s'.orderVector tid f.rs.toNat 0).sound tid .write f.space true (fun _ => none) plan = (good, none, s2) →
      ((localSpots good).map (fun p => lineOf p.2.1)).Nodup → (∀ g ∈ good, ∀ p ∈ g.2, ∀ l k, p.2 = .here l k → lineOf l = lineOf (l.plus 3)) →
      ∃ t, Ends (.vscc f) s t ∧ Outside t ∧ t.threads = s2.threads
        ∧ ∀ g ∈ good, ∀ a l, g.2 = [(a, .here l key)] →
          t.linkOf l = none ∧
          (if s2.linkOf l = some (tid, f.rs.toNat) then
            (t.vthread tid).elem f.vd.toNat (c.row g.1.idx) (c.col g.1.idx) = 1 ∧ word t l = leBytes 4 a.data.toNat
          else (t.vthread tid).elem f.vd.toNat (c.row g.1.idx) (c.col g.1.idx) = 0 ∧ word t l = word s2 l))
    ∧ ((localSpots good).Pairwise (fun p q => p.2.1.meets 4 q.2.1 4 = false) →
      (s'.orderVector tid f.rs.toNat 0).sound tid .atomic f.space false (fun _ => none) plan = (good, none, s2) →
      (∀ g ∈ good, ∀ a l, g.2 = [(a, .here l key)] → (sum (old l) (a.data.setWidth 32)).2 &&& (s2.vthread tid).fctl = 0) →
      ∃ t, Ends (.vsctadd f) s t ∧ Outside t ∧ t.threads = s2.threads ∧ (t.vthread tid).regs = (s2.vthread tid).regs
        ∧ ∀ g ∈ good, ∀ a l, g.2 = [(a, .here l key)] → word t l = leBytes 4 (sum (old l) (a.data.setWidth 32)).1.toNat)

/-- TCLAIM and TCLAIM.P claim the lowest run of c EMPTY operand slots (at an even number for .P, whose slots are paired) for the thread, FILLING with the extent of ga[7:0] and nothing written, its lanes zero (log 53), and give gd its first number, leaving every other slot alone, or give all ones and claim nothing when there is none; TCLAIM.A claims the lowest EMPTY accumulator that fits at the width of the geometry, READY and zero, or claims nothing and gives all ones when none fits; TREL of an owned slot that is no second half, with no reader or fill, which no vector work before it and no block to start has yet to use, empties it (and its second half), TREL.A empties an owned READY accumulator that neither such work nor a tiled product's block has yet to use; TSTAT and TSTAT.A give the status words (what an EMPTY tile reports beside its state is log 53); none of them changes memory. -/
def Obligations.TileClaims : Prop :=
  ∀ (s : State) (d a : Reg) (c : BitVec 7),
    let tid := s.cur
    let core := tid / 4
    let x := s.reg tid a
    let run := fun (p : Bool) (n : Nat) => (p = false ∨ n % 2 = 0) ∧ n + c.toNat ≤ 64 ∧ ∀ i, i < c.toNat → (s.slot core (n + i)).st = .empty
    let Claims := fun (i : Instr) (p : Bool) =>
      (∀ n, n < 64 → run p n → (∀ m, m < n → ¬ run p m) → ∃ t, Ends i s t ∧ t.reg tid d = (if d = 0 then 0 else BitVec.ofNat 64 n) ∧ (t.thread tid).pc = (s.thread tid).pc + 4
        ∧ t.hbm = s.hbm ∧ ∀ m, t.slot core m = if n ≤ m ∧ m < n + c.toNat then
            { Slot.empty with st := .filling, ext := x.toNat % 256, own := tid % 4, paired := p, odd := p && (m - n) % 2 = 1 } else s.slot core m)
      ∧ ((∀ n, n < 64 → ¬ run p n) → Ends i s ((s.setReg tid d 0xFFFFFFFFFFFFFFFF).retire tid))
    let g := (s.thread tid).geom
    let n := x.toNat % 64
    let m := x.toNat % 16
    Claims (.tclaim d a c) false ∧ Claims (.tclaimP d a c) true
    ∧ (bits g 61 58 ≠ 0 → ∀ k, k < 12 → (s.acc core k).st = .empty → s.accFits core k (geomW g) = true →
        (∀ j, j < k → (s.acc core j).st ≠ .empty ∨ s.accFits core j (geomW g) = false) →
        ∃ t, Ends (.tclaimA d) s t ∧ t.reg tid d = (if d = 0 then 0 else BitVec.ofNat 64 k)
          ∧ t.acc core k = { Acc.empty with st := .ready, w := geomW g, own := tid % 4 } ∧ ∀ j, j ≠ k → t.acc core j = s.acc core j)
    ∧ (bits g 61 58 ≠ 0 → (∀ k, k < 12 → (s.acc core k).st ≠ .empty ∨ s.accFits core k (geomW g) = false) → Ends (.tclaimA d) s ((s.setReg tid d 0xFFFFFFFFFFFFFFFF).retire tid))
    ∧ (s.ownsSlot tid n = true → (s.slot core n).odd = false → (s.slot core n).rdrs = 0 → (s.slot core n).fills = 0 → wmacsOn s tid (fun m => m.names n) = false → tileWaits s tid (.slot n) = false →
        ∃ t, Ends (.trel a) s t ∧ (∀ j, t.slot core j = if j = n ∨ ((s.slot core n).paired = true ∧ j = n + 1) then Slot.empty else s.slot core j)
          ∧ (t.thread tid).pc = (s.thread tid).pc + 4)
    ∧ (s.ownsAcc tid m = true → (s.acc core m).st = .ready → tileWaits s tid (.acc m) = false → wmacsOn s tid (fun x => x.blocksOn m) = false →
        ∃ t, Ends (.trelA a) s t ∧ t.acc core m = Acc.empty ∧ (∀ j, j ≠ m → t.acc core j = s.acc core j) ∧ (t.thread tid).pc = (s.thread tid).pc + 4)
    ∧ (∃ t, exec (.tstat d a) s = .next t ∧ Wrote s t tid d (slotStatus s tid n) ((s.thread tid).pc + 4))
    ∧ (m < 12 → ∃ t, exec (.tstatA d a) s = .next t ∧ Wrote s t tid d (accStatus s tid m) ((s.thread tid).pc + 4))

/-- The step of a unit's next operation, whose operand slots hold the operation's value width and no struck data, adds to every accumulator slot the exact sum of the products of the lanes whose positions (base plus the two strides, reversed where the geometry says so) meet there, when every slot so reached keeps its magnitude within 2^(W−1) − 1, and counts the step, or ends the operation at its last one, its accumulator READY when no other operation fills it; when some slot does not, the accumulator keeps every slot, turns READY, the operation stops, and its task holds GUARD_OVF pending with the lowest such slot in TVAL and the operation's address. -/
def Obligations.MultiplierSteps : Prop :=
  ∀ (s : State) (core wmu : Nat) (o : WmuOp) (tid : Nat),
    s.nextOp core wmu = some o →
    (o.block = none ∨ o.done ≠ 0 ∨ ((s.slot core o.aslot).vw = geomV o.geom ∧ (s.slot core o.bslot).vw = geomV o.geom)) → s.poison = [] →
    let g := o.geom
    let step := o.k0 + o.done
    let lane := fun (n i : Nat) => coefficient (Tab.get 0 (128 * step + i) (s.slot core n).data) (geomV g)
    let pos := fun (i j : Nat) => geomBase g + geomSa g * (if geomRa g then geomNa g - i else i) + geomSb g * (if geomRb g then geomNb g - j else j)
    let x := s.acc core o.acc
    let total := fun (t : Nat) => Tab.get 0 t x.slots + ((List.range (geomNa g + 1)).map (fun i => ((List.range (geomNb g + 1)).map
      (fun j => if pos i j = t then lane o.aslot i * lane o.bslot j else 0)).sum)).sum
    let Over := fun (t : Nat) => (∃ i j, i ≤ geomNa g ∧ j ≤ geomNb g ∧ pos i j = t) ∧ (2 : Int) ^ (x.w - 1) - 1 < (total t).natAbs
    ((∀ t, ¬ Over t) → o.done + 1 = o.cnt → ∃ u, Ends (.wmuStep core wmu) s u ∧ (∀ t, Tab.get 0 t (u.acc core o.acc).slots = total t)
      ∧ (∀ y ∈ (u.core core).wops, y ∈ (s.core core).wops ∧ y.id ≠ o.id) ∧ ((∀ y ∈ (u.core core).wops, y.acc ≠ o.acc) → (u.acc core o.acc).st = .ready)
      ∧ u.threads = s.threads ∧ u.hbm = s.hbm)
    ∧ ((∀ t, ¬ Over t) → o.done + 1 < o.cnt → ∃ u, Ends (.wmuStep core wmu) s u ∧ (∀ t, Tab.get 0 t (u.acc core o.acc).slots = total t)
      ∧ (∀ k, k ≠ o.acc → u.acc core k = s.acc core k) ∧ (u.core core).wops = (s.core core).wops.map (fun y => if y.id = o.id then { y with done := y.done + 1 } else y)
      ∧ u.threads = s.threads ∧ u.hbm = s.hbm)
    ∧ (∀ n, Over n → (∀ t, t < n → ¬ Over t) → s.tidOf o.uid = some tid → (s.thread tid).pending = [] →
      ∃ u p, Ends (.wmuStep core wmu) s u ∧ (∀ t, Tab.get 0 t (u.acc core o.acc).slots = Tab.get 0 t x.slots) ∧ (u.acc core o.acc).st = .ready
        ∧ (u.thread tid).pending = [p] ∧ p.kind = .wmu o.id ∧ p.cause = causeGuardOvf ∧ p.tval = BitVec.ofNat 64 n ∧ p.tvaddr = o.pc
        ∧ (∀ y ∈ (u.core core).wops, y.id = o.id → y.halted = true))

/-- WCFG stores a valid geometry and gives gd the old one, WCFG.W also widens an owned READY accumulator that fits, WCFG.R reads the geometry; WZERO zeroes, and WNORM brings to normal form, an owned READY accumulator; WWAIT retires once no operation on its accumulator and no block operation to come on it is left (log 53), WWAIT.ALL once none of the task is; WMAC whose operands pass its checks, READY slots at the geometry's width and an accumulator READY or FILLING that no work before it has yet to use, accepts one operation of CNT + 1 steps, raising the readers of each slot by one and turning its accumulator FILLING; WMACS whose descriptor has been read whole and is well formed enters the queue with its tiled product. -/
def Obligations.MultiplierInstructions : Prop :=
  ∀ (s s' : State) (d a : Reg) (words : List Word) (drain : Word) (jobs blocks : List (Nat × Nat)) (nkb : Nat),
    let tid := s.cur
    let core := tid / 4
    let t := s.thread tid
    let x := s.reg tid a
    let g := t.geom
    let n := x.toNat % 16
    let free := s.ownsAcc tid n = true ∧ tileWaits s tid (.acc n) = false ∧ wmacsOn s tid (fun m => m.blocksOn n) = false ∧ (s.acc core n).st = .ready
    let Keeps := fun (u : State) => (∀ r, u.reg tid r = s.reg tid r) ∧ (u.thread tid).pc = t.pc + 4 ∧ ∀ k, k ≠ n → u.acc core k = s.acc core k
    (geomInvalid x false = false → Ends (.wcfg d a) s (((s.setThread tid { t with geom := x }).setReg tid d g).retire tid))
    ∧ (∃ u, exec (.wcfgR d) s = .next u ∧ Wrote s u tid d g (t.pc + 4))
    ∧ (geomInvalid x true = false → free → (s.acc core n).normal = false → (s.acc core n).w ≤ geomW x → s.accFits core n (geomW x) = true → n < 12 →
        ∃ u, Ends (.wcfgW d a) s u ∧ u.acc core n = { s.acc core n with w := geomW x } ∧ (u.thread tid).geom = x &&& ~~~15#64
          ∧ u.reg tid d = (if d = 0 then 0 else g) ∧ (u.thread tid).pc = t.pc + 4)
    ∧ (free → ∃ u, Ends (.wzero a) s u ∧ (∀ k, Tab.get 0 k (u.acc core n).slots = 0) ∧ (u.acc core n).w = (s.acc core n).w ∧ (u.acc core n).st = .ready ∧ Keeps u)
    ∧ (free → s.poison = [] → ∃ u, Ends (.wnorm a) s u ∧ (u.acc core n).normal = true ∧ Keeps u
        ∧ ((s.acc core n).normal = false → ∀ k, k < 16383 → 0 ≤ Tab.get 0 k (u.acc core n).slots ∧ Tab.get 0 k (u.acc core n).slots < 2 ^ (s.acc core n).w))
    ∧ (s.ownsAcc tid n = true → Ends (.wwait a) s (if (s.core core).wops.any (fun o => o.acc = n && o.uid = t.uid) || (s.core core).wmacs.any (fun m => m.uid = t.uid && m.blocksOn n) then s else s.retire tid))
    ∧ Ends .wwaitAll s (if (s.core core).wops.any (fun o => o.uid = t.uid) || (s.core core).wmacs.any (fun m => m.uid = t.uid && decide (m.ended.length < m.blocks.length))
        then s else s.retire tid)
    ∧ (let (sa, sb, k0, cnt) := (bits x 13 8, bits x 21 16, bits x 31 24, bits x 39 32)
       bits g 61 58 ≠ 0 → (operandChecks s tid g [n] [sa, sb] (k0 + cnt)).isOk = true → ((s.acc core n).st = .ready ∨ (s.acc core n).st = .filling) →
        (∀ y ∈ [TileName.slot sa, .slot sb, .acc n], tileWaits s tid y = false) → (s.slot core sa).st = .ready → (s.slot core sb).st = .ready →
        (s.slot core sa).vw = geomV g → (s.slot core sb).vw = geomV g →
        ∃ u o, Ends (.wmac a) s u ∧ (u.core core).wops = (s.core core).wops ++ [o] ∧ o.acc = n ∧ o.aslot = sa ∧ o.bslot = sb ∧ o.k0 = k0 ∧ o.cnt = cnt + 1 ∧ o.done = 0
          ∧ o.geom = g ∧ o.uid = t.uid ∧ o.pc = t.pc ∧ (u.acc core n).st = .filling ∧ (u.acc core n).slots = (s.acc core n).slots
          ∧ (u.slot core sa).rdrs = (s.slot core sa).rdrs + 1 ∧ (u.slot core sb).rdrs = (s.slot core sb).rdrs + 1 ∧ Keeps u)
    ∧ (s.hasVector tid = true → readRecord s tid x wmacsLength = .ok (words, s') → wmacsParse words = some (drain, jobs, nkb, blocks) → bits g 61 58 ≠ 0 →
        (operandChecks s' tid g ((jobs.map (jobAccs drain)).flatten) ((blocks.map (fun p => [p.1, p.2])).flatten) (bits (words.head?.getD 0) 39 32)).isOk = true →
        s'.hasVector tid = true → (s'.vthread tid).work.entries < 32 →
        ∀ i ∈ [(Instr.wmacsO a, true), (.wmacsF a, false)], ∃ u m, Ends i.1 s u ∧ (u.core core).wmacs = (s'.core core).wmacs ++ [m] ∧ m.ordered = i.2 ∧ m.jobs = jobs
          ∧ m.blocks = blocks ∧ m.nkb = nkb ∧ m.drain = drain ∧ m.ksteps = bits (words.head?.getD 0) 39 32 + 1 ∧ m.geom = g
          ∧ (∃ e, (u.vthread tid).work.vcq = (s'.vthread tid).work.vcq ++ [e] ∧ e.op = .wmacs m.id ∧ e.seq = (s'.thread tid).vseq + 1)
          ∧ (∀ r, u.reg tid r = s'.reg tid r) ∧ (u.thread tid).pc = (s'.thread tid).pc + 4)

/-- PACK without a mask of elements that fit their value width, to an owned unpaired or paired slot of enough extent and no other width, writes lane j of step k0 + i/128 from element i, counts the steps it names and turns the slot READY when its whole extent is written; WEXT of an owned accumulator that is not FILLING and has no held operation before it gives each active element the low (or, as asked, the high) 32 bits of its slot and zeroes the slots it read when asked to, and leaves the accumulator READY when no operation on it waits; the sequencer starts a block operation whose conditions hold with its slots' readers raised and its accumulator FILLING, and a drain run takes the k-block, job and accumulator into block argument 7 and begins at the drain block. -/
def Obligations.TilesAndVectors : Prop :=
  ∀ (s s' : State) (f : VFields) (c : Reading),
    let tid := s.cur
    let core := tid / 4
    (let g := ((s.vthread tid).work.run).elim 0 (fun r => r.geom)
     let b := c.v.word f f.sb
     let (n, k0, v) := (bits b 5 0, bits b 15 8, geomV g)
     let steps := (c.total + 127) / 128
     let x := s'.slot core n
     bits g 61 58 ≠ 0 → Begins s tid f [f.sa] [] c s' → c.v.work.vstart = 0 → f.mask = 0 → 0 < c.total → s'.ownsSlot tid n = true → x.odd = false → (v = 16 → x.paired = true) →
      k0 + steps ≤ x.ext + 1 → x.st = .filling → x.written = [] → (x.vw = 0 ∨ x.vw = v) → s'.poison = [] →
      (∀ i, i < c.total → (c.srcA i).toInt.natAbs ≤ 2 ^ (v - 1) - 1) →
      ∃ t, Ends (.pack f) s t ∧ (∀ i, i < c.total → Tab.get 0 (128 * (k0 + i / 128) + i % 128) (t.slot core n).data = BitVec.ofInt 16 ((c.srcA i).toInt % 2 ^ v))
        ∧ (∀ m, m ≠ n → t.slot core m = s'.slot core m) ∧ (t.slot core n).vw = v ∧ (t.slot core n).written = (List.range steps).map (fun i => k0 + i)
        ∧ (t.slot core n).st = (if steps = x.ext + 1 then .ready else .filling) ∧ t.threads = s'.threads)
    ∧ (let n := bits (c.v.word f f.sb) 3 0
       let s0 := bits (c.v.word f f.sc) 13 0
       let x := s'.acc core n
       Begins s tid f [] [] c s' → c.v.work.vstart = 0 → s'.ownsAcc tid n = true → s0 + c.total ≤ 16384 → x.st ≠ .filling → heldBefore s' tid n = false → s'.poison = [] →
        ∃ t, Ends (.wext f) s t
          ∧ Swept s' t tid c (fun i => BitVec.ofInt 32 (if f.ext.getLsbD 0 then Tab.get 0 (s0 + i) x.slots / 2 ^ 32 else Tab.get 0 (s0 + i) x.slots))
          ∧ (∀ k, Tab.get 0 k (t.acc core n).slots = if (f.ext.getLsbD 2 && decide (s0 ≤ k) && decide (k - s0 < c.total) && c.active (k - s0)) = true then 0 else Tab.get 0 k x.slots)
          ∧ ((∀ o ∈ (s'.core core).wops, o.acc ≠ n) → (t.acc core n).st = .ready)
          ∧ (∀ k, k ≠ n → t.acc core k = s'.acc core k) ∧ t.threads = s'.threads)
    ∧ (∀ (k op job kblk : Nat) (m : Wmacs) (j b : Nat × Nat), (s.core k).wmacs.find? (fun m => m.id = op) = some m → m.jobs[job]? = some j →
        m.blocks[job * m.nkb + kblk]? = some b → kblk < m.nkb → (m.started.filter (fun x => x.1 = job)).any (fun x => x.2.1 = kblk) = false →
        (m.ordered = true → ∀ n, n < kblk → ∃ x ∈ m.started, x.1 = job ∧ x.2.1 = n) →
        (∀ o ∈ (s.core k).wops, ¬ (o.uid = m.uid ∧ o.halted = true ∧ o.place ≤ m.id)) →
        let acc := if m.drain = 0 ∨ (m.started.filter (fun x => x.1 = job)).length % 2 = 0 then j.1 else j.2
        (m.drain = 0 ∨ ∀ x ∈ m.started, x.2.2 = acc → x ∈ m.drained) →
        (s.slot k b.1).st = .ready → (s.slot k b.2).st = .ready → accTakes s k m acc = true → blockWaits s m [.slot b.1, .slot b.2, .acc acc] = false →
        ∃ t o, Ends (.wmacsBlockStart k op job kblk) s t ∧ (t.core k).wops = (s.core k).wops ++ [o] ∧ o.acc = acc ∧ o.aslot = b.1 ∧ o.bslot = b.2 ∧ o.cnt = m.ksteps
          ∧ o.done = 0 ∧ o.geom = m.geom ∧ o.block = some (op, job, kblk) ∧ (t.acc k acc).st = .filling ∧ (t.slot k b.1).rdrs = (s.slot k b.1).rdrs + 1)
    ∧ (∀ (e : VcqEntry) (rest : List VcqEntry) (m : Wmacs) (j b acc : Nat), (s.vthread tid).work.vcq = e :: rest → (s.vthread tid).work.run = none →
        (s.vthread tid).work.faulted = false → e.op = .wmacs m.id → (s.core core).wmacs.find? (fun x => x.id = m.id) = some m → m.drain ≠ 0 → m.nextDrain = some (j, b, acc) →
        ∃ t r, Ends .wmacsDrainRun s t ∧ (t.vthread tid).work.run = some r ∧ r.addr = m.drain ∧ r.word = 0 ∧ r.geom = m.geom ∧ r.drain = some (j, b)
          ∧ Tab.get 0 7 (t.vthread tid).bargs = BitVec.ofNat 64 (b * 2 ^ 16 + j * 2 ^ 8 + acc) ∧ (t.vthread tid).work.vcq = e :: rest ∧ (t.vthread tid).regs = (s.vthread tid).regs)

/-- RBEGIN of a task without a context, once it has read its record, gives 2^63 + reason × 2^56 and changes nothing else for the first of: a malformed record (3); in a context of its gang and tag, another M, a joined SHARD, a started race (4, 5, 6); else an exhausted RACEQ or a malformed chain (2; the latter is log 57), no FREE context (1); otherwise it joins the shard as new there, or in the lowest FREE context, gives the context's number and changes no other context. With a context RBEGIN traps RACE_CTX with its number. RCFG with a context and room in the queue enqueues its field and value and makes the value the program-order copy; RCFG.R reads that copy, or its default (1.0 for temperature and penalty, else zero). REND waits while race work stands before it (what counts as such is log 55), then ends the shard (its rows not handed out leave it when it was ACTIVE), gives up the context, and frees the context when every joined shard has ended. Without a context RCFG, RCFG.R, REND, RWAIT, RPROB and RPROB.X trap RACE_CTX with 64 (of the last three that is log 55); RCFG without a vector thread traps BAD_SPLIT with its word instead. -/
def Obligations.RaceMembership : Prop :=
  (∀ (s s1 : State) (d a : Reg) (ws : List Word),
    let tid := s.cur
    (∀ n h, (s.thread tid).race = some (n, h) → Ends (.rbegin d a) s (s.takeTrap tid causeRaceCtx (BitVec.ofNat 64 n) none false))
    ∧ ((s.thread tid).race = none → readRecord s tid (s.reg tid a) (fun _ => 2) = .ok (ws, s1) →
      let w0 := ws.getD 0 0
      let w1 := ws.getD 1 0
      let shard := bits w0 29 24
      let m := bits w0 22 16 + 1
      let tag := bits w0 15 0
      let t := s1.thread tid
      let Bad := bits w0 63 30 ≠ 0 ∨ bits w0 23 23 ≠ 0 ∨ 64 < m ∨ m ≤ shard ∨ w1.toNat % 64 ≠ 0
      let Fails := fun (r : Nat) => Ends (.rbegin d a) s ((s1.setReg tid d (BitVec.ofNat 64 (2 ^ 63 + r * 2 ^ 56))).retire tid)
      let Joins := fun (n : Nat) (P : RaceCtx → Prop) => ∃ u c, Ends (.rbegin d a) s u ∧ u.reg tid d = (if d = 0 then 0 else BitVec.ofNat 64 n)
        ∧ (u.thread tid).race = some (n, shard) ∧ (u.thread tid).pc = t.pc + 4 ∧ u.race? n = some c ∧ P c
        ∧ Tab.find shard c.shards = some (Shard.joined t.uid w1) ∧ ∀ k, k ≠ n → u.race? k = s1.race? k
      let Full := match s1.chain t.vi (s1.regionOf t) with
        | none => True
        | some ch => ∃ b ∈ State.budgets 8 ch, b.2 < (s1.useOf t.vi b.1).races + 1
      (Bad → Fails 3)
      ∧ (¬ Bad → ∀ n c, s1.hub.races.find? (fun c => c.2.gang = t.gang && c.2.tag = tag) = some (n, c) →
          (c.m ≠ m → Fails 4) ∧ (c.m = m → Tab.find shard c.shards ≠ none → Fails 5)
          ∧ (c.m = m → Tab.find shard c.shards = none → (c.started = true → Fails 6)
            ∧ (c.started = false → Joins n (fun c' => ∀ k, k ≠ shard → Tab.find k c'.shards = Tab.find k c.shards))))
      ∧ (¬ Bad → s1.hub.races.find? (fun c => c.2.gang = t.gang && c.2.tag = tag) = none →
          (Full → Fails 2) ∧ (¬ Full → ((∀ n, n < 64 → s1.race? n ≠ none) → Fails 1)
            ∧ ∀ n, n < 64 → s1.race? n = none → (∀ k, k < n → s1.race? k ≠ none) →
              Joins n (fun c => c.gang = t.gang ∧ c.tag = tag ∧ c.m = m ∧ c.started = false ∧ c.best = none ∧ ∀ k, k ≠ shard → Tab.find k c.shards = none)))))
  ∧ (∀ (s : State) (d a : Reg) (f : BitVec 4),
    let tid := s.cur
    let t := s.thread tid
    let v := s.reg tid a
    (raceOf s tid = none → ∀ i ∈ [Instr.rcfgR d f, .rwait d, .rprob d, .rprobX d], Ends i s (s.takeTrap tid causeRaceCtx 64 none false))
    ∧ (s.hasVector tid = false → Ends (.rcfg a f) s (s.takeTrap tid causeBadSplit (Instr.rcfg a f).word none false))
    ∧ (s.hasVector tid = true → raceOf s tid = none → Ends (.rcfg a f) s (s.takeTrap tid causeRaceCtx 64 none false))
    ∧ (t.race = none → Ends .rend s (s.takeTrap tid causeRaceCtx 64 none false))
    ∧ (∀ n h c x, raceOf s tid = some (n, h, c, x) →
        Ends (.rcfgR d f) s ((s.setReg tid d (Tab.get (if f = 2 ∨ f = 3 then 0x3F800000 else 0) f.toNat x.pcfg)).retire tid)
        ∧ (s.hasVector tid = true → (s.vthread tid).work.entries < 32 → x.stopped = false →
            ∃ u, Ends (.rcfg a f) s u ∧ (u.thread tid).pc = t.pc + 4 ∧ (u.thread tid).vseq = t.vseq + 1 ∧ (∀ r, u.reg tid r = s.reg tid r)
              ∧ (u.vthread tid).work.vcq = (s.vthread tid).work.vcq ++ [{ seq := t.vseq + 1, op := .rcfg f.toNat v, nested := t.nest || t.vh, aside := t.wh }]
              ∧ u.race? n = some (c.put h { x with pcfg := Tab.put f.toNat v x.pcfg }) ∧ (∀ k, k ≠ n → u.race? k = s.race? k) ∧ u.hbm = s.hbm)
        ∧ (raceWork s tid = true → Ends .rend s s)
        ∧ (raceWork s tid = false →
            ∃ u, Ends .rend s u ∧ (u.thread tid).race = none ∧ (u.thread tid).pc = t.pc + 4 ∧ (∀ r, u.reg tid r = s.reg tid r)
              ∧ (let rest := (c.put h { x with st := .ended }).shards.all (fun y => y.2.st = .ended)
                 (rest = true → u.race? n = none)
                 ∧ (rest = false → ∃ c' x', u.race? n = some c' ∧ Tab.find h c'.shards = some x' ∧ x'.st = .ended
                    ∧ (x.st = .active → x'.heap = x.heap.filter (fun e => e.handed)))))))

/-- With a context and no race work before it: while the shard is ACTIVE or RANKING RWAIT, RPROB and RPROB.X retire with all ones and STATUS CONTINUE (7); otherwise they wait until the race is decided. Decided with no best they give EMPTY (5), RWAIT with FFFFFFFFH and the others all ones, or trap RACE_EMPTY with the context's number under ETRAP. Decided with a winner RWAIT gives its row and OK (0); once every shard has waited or ended RPROB gives the combined bounds, the upper one in the high half (1.0 under TOPK), with OK, and RPROB.X the same only when no term was a bound, TOPK is 0 and Zhi is not 0, else all ones with NEED_EXACT (6). -/
def Obligations.RaceResults : Prop :=
  ∀ (s : State) (d : Reg) (n h : Nat) (c : RaceCtx) (x : Shard),
    let tid := s.cur
    raceOf s tid = some (n, h, c, x) → raceWork s tid = false →
    let ones : Word := 0xFFFFFFFFFFFFFFFF
    let all := [Instr.rwait d, .rprob d, .rprobX d]
    let Gives := fun (i : Instr) (v : Word) (st : Nat) => ∃ u, Ends i s u ∧ u.reg tid d = (if d = 0 then 0 else v) ∧ (u.thread tid).rstatus = st
      ∧ (u.thread tid).pc = (s.thread tid).pc + 4 ∧ (∀ r, r ≠ d → u.reg tid r = s.reg tid r) ∧ u.hbm = s.hbm
    let Stopped := x.st ≠ .active ∧ x.st ≠ .ranking
    let c' : RaceCtx := c.put h { x with atWait := some (x.atWait.getD (x.m, x.zlo, x.zhi, x.bounds)) }
    (¬ Stopped → ∀ i ∈ all, Gives i ones 7)
    ∧ (Stopped → c.decided = false → ∀ i ∈ all, Ends i s s)
    ∧ (Stopped → c.decided = true → c.best = none →
        (c.etrap = true → ∀ i ∈ all, ∃ s' : State, s'.threads = s.threads ∧ s'.hbm = s.hbm ∧ Ends i s (s'.takeTrap tid causeRaceEmpty (BitVec.ofNat 64 n) none false))
        ∧ (c.etrap = false → Gives (.rwait d) 0xFFFFFFFF 5 ∧ Gives (.rprob d) ones 5 ∧ Gives (.rprobX d) ones 5))
    ∧ (∀ b w xw, Stopped → c.decided = true → c.best = some (b, w, xw) →
        Gives (.rwait d) (BitVec.ofNat 64 w) 0
        ∧ (c.pair = none → (∃ y ∈ c'.shards, y.2.atWait = none ∧ y.2.st ≠ .ended) → ∃ u, Ends (.rprob d) s u ∧ u.threads = s.threads)
        ∧ (c.pair = none → (∀ y ∈ c'.shards, y.2.atWait ≠ none ∨ y.2.st = .ended) →
          let p := c'.probability xw
          let v : Word := BitVec.ofNat 64 ((if c.topk = 0 then p.2.1 else 0x3F800000).toNat * 2 ^ 32 + p.1.toNat)
          Gives (.rprob d) v 0
          ∧ (p.2.2 = false → c.topk = 0 → (∀ y ∈ c'.shards, y.2.combined.2.2.2 = 0) → Gives (.rprobX d) v 0)
          ∧ (p.2.2 = true ∨ c.topk ≠ 0 ∨ (∃ y ∈ c'.shards, y.2.combined.2.2.2 ≠ 0) → Gives (.rprobX d) ones 6)))

/-- With a context and operands there: RNOISE gives each active element the noise index of R406 for the shard's key and position (n32) or the table's entry at it (f32), with no flag; RBOUND gives each element with finite operands whose exact score, tempered or penalised logit (by form) is not zero that value rounded once in the mode, a NaN the canonical NaN, and minus infinity with a finite bias (tempered or penalised) minus infinity; both place the rest of vd by mask and tail. VBIAS whose count is at most 2^20 and whose whole list passes its checks, in this module, nothing performed ahead or sent, gives each active element the bias of the entry of its J (f32) or its row word with P of that entry (n32), and +0.0 or P = 0 without one; of an unordered list it gives the value of some entry of that J, or the no-match value. RMASK, without a queue, whose bytes pass and stand so, gives each active element its score where the bit of its J is 1, and minus infinity where it is 0. Both complete and change no memory. -/
def Obligations.RaceElements : Prop :=
  (∀ (s s' : State) (f : VFields) (c : Reading) (n h : Nat) (x : RaceCtx) (y : Shard),
    let tid := s.cur
    raceOf s tid = some (n, h, x, y) →
    let J := fun (w : Elem) => w.toNat % 2 ^ 31
    let mix := fun (j : Nat) =>
      let a := y.config 0 ^^^ (y.config 1 <<< 32) ^^^ BitVec.ofNat 64 j
      let a := a * 0xA3C59B17E64D2F09
      let a := a ^^^ (a >>> 29)
      let a := a * 0x6B2FD83A91C74E55
      let a := a ^^^ (a >>> 32)
      let a := a * 0xE1D37A5F0C8B6235
      (a ^^^ (a >>> 27)).toNat / 2 ^ 52
    (Begins s tid f [f.sa] [] c s' → ∃ t, Ends (.rnoise f) s t ∧ Completed s' t tid f ∧ (t.vthread tid).fstat = (s'.vthread tid).fstat
      ∧ Swept s' t tid c (fun i => if f.ty = 3 then BitVec.ofNat 32 (mix (J (c.srcA i))) else noiseEntry (mix (J (c.srcA i)))))
    ∧ (Begins s tid f [f.sa, f.sb, f.sc] [] c s' → ∀ mode nT dT nP dP,
        mode = Rounding.ofCode (f.rs.toNat / 2) → readFloat false (y.config32 2) = .fin false nT dT → readFloat false (y.config32 3) = .fin false nP dP →
        let form := f.ext.toNat % 4
        ∀ r : Nat → Elem × FlagSet, r = (fun i => boundElem y mode form (c.srcA i) (c.srcB i) (c.srcC i)) → (∀ i, c.todo i → (r i).2 &&& c.v.fctl = 0) →
        (∃ t, Ends (.rbound f) s t ∧ Completed s' t tid f ∧ Swept s' t tid c (fun i => (r i).1) ∧ Flagged s' t tid c (fun i => (r i).2))
        ∧ (∀ i, (isNan32 (c.srcA i) = true ∨ isNan32 (c.srcB i) = true) → (r i).1 = 0x7FC00000)
        ∧ (form ≠ 0 → ∀ i, readFloat false (c.srcA i) = .inf true → ∀ sb nb db, readFloat false (c.srcB i) = .fin sb nb db → r i = (0xFF800000, 0))
        ∧ (∀ i sl nl dl sb nb db sg ng dg, readFloat false (c.srcA i) = .fin sl nl dl → readFloat false (c.srcB i) = .fin sb nb db →
            readFloat false (noiseEntry (mix (J (c.srcC i)))) = .fin sg ng dg →
            let q0 : Int × Nat := (signed sl nl * db + signed sb nb * dl, dl * db)
            let q1 := if (c.srcC i).getLsbD 31 then (if 0 < q0.1 then (q0.1 * dP, q0.2 * nP) else (q0.1 * nP, q0.2 * dP)) else q0
            let q2 := if form = 2 then q1 else (q1.1 * dT, q1.2 * nT)
            let q := if form = 0 then (q2.1 * dg + signed sg ng * q2.2, q2.2 * dg) else q2
            q0.1 ≠ 0 → q.1 ≠ 0 → r i = roundElem false mode (decide (q.1 < 0)) q.1.natAbs q.2)))
  ∧ (∀ (s s' s2 : State) (f : VFields) (c : Reading) (r : Nat × Nat × RaceCtx × Shard) (good : List Checked) (i0 : Nat) (xs : List Nat),
    let tid := s.cur
    raceOf s tid = some r →
    let J := fun (w : Elem) => w.toNat % 2 ^ 31
    let s1 := s'.orderVector tid f.rs.toNat 0
    (Begins s tid f [f.sb] [] c s' → c.v.work.packets = [] → c.v.work.early = [] →
      let count := (c.v.word f f.sc).toNat % 2 ^ 32
      count ≤ 2 ^ 20 → c.activeRest = i0 :: xs →
      s1.sound tid .read f.space false (fun _ => none) [{ idx := i0, flags := [], bad := false, accs := (List.range count).map (fun k =>
        { oneAcc (i0 + 4096 * k) (c.base + bytesAt (8 * k)) 8 0 with ea := c.base + bytesAt (8 * k) }) }] = (good, none, s2) → AllHere good →
      let list := ((good.map (fun g => g.2)).flatten).map (fun p => (s2.vectorRead tid p).1)
      let give := fun (w : Elem) (e : Word) => (if f.ty = 3 then (w &&& 0x7FFFFFFF) ||| (if e.getLsbD 31 then 0x80000000 else 0) else (e >>> 32).setWidth 32 : Elem)
      let none_ := fun (w : Elem) => (if f.ty = 3 then w &&& 0x7FFFFFFF else 0 : Elem)
      ∃ t v, Ends (.vbias f) s t ∧ KeepsMemory s2 t ∧ Swept s2 t tid c v ∧ t.threads = s2.threads
        ∧ (∀ i, c.todo i → v i = none_ (c.srcB i) ∨ ∃ e ∈ list, bits e 30 0 = J (c.srcB i) ∧ v i = give (c.srcB i) e)
        ∧ ((list.map (fun e => bits e 30 0)).Pairwise (fun a b => a < b) → ∀ i, c.todo i → (∀ e ∈ list, bits e 30 0 = J (c.srcB i) → v i = give (c.srcB i) e)
          ∧ ((∀ e ∈ list, bits e 30 0 ≠ J (c.srcB i)) → v i = none_ (c.srcB i))))
    ∧ (Begins s tid f [f.sb, f.sc] [] c s' → c.v.work.packets = [] → c.v.work.early = [] → f.q = false →
      s1.sound tid .read f.space false (fun _ => none) (c.activeRest.map (fun i =>
        { idx := i, accs := [oneAcc i (c.base + bytesAt (J (c.srcB i) / 8)) 1 0], flags := [], bad := false })) = (good, none, s2) → AllHere good →
      ∃ t, Ends (.rmask f) s t ∧ KeepsMemory s2 t ∧ t.threads = s2.threads
        ∧ Swept s2 t tid c (fun i => if ((Tab.find i (((good.find? (fun g => g.1.idx = i)).map (fun g => readVals s2 tid g.2)).getD [])).getD 0).toNat.testBit (J (c.srcB i) % 8)
            then c.srcC i else 0xFF800000)))

/-- With a context of a shard that is not stopped and one selected element i: RQUEUE (before the shard's first RNEXT) records nothing for a row of bound minus infinity or, with TOPK and LOCK 0, below the floor; else the heap's entry of its J takes its bounds (NaN as plus or minus infinity) and the floor rises to the lower one under TOPK 0, unless the heap of 65536 has no room: then RACE_CTX is held with the context's number. RQUEUE.k does the same with the rank bounds and no floor. RPOST of a row handed out and not posted keeps its score (NaN as minus infinity, raising invalid) and makes it the best when it beats the best (the shard's own copies of best and floor rise at once: log 58); of another row it changes nothing. RZACC adds the term by R422's steps, or none of a NaN or reversed pair, raising invalid. Each completes, no enabled flag raised. The best does not depend on the order of posts. Outside lockstep, once all shards have joined and with agreeing fields, RNEXT of an ACTIVE shard with room in the return queue, at its first element and unmasked, drops rows handed out and never posted (of rows ranked that is log 54), then hands out the first VR × VL candidates, highest bound first and lower J among equals, into vd with status MORE (1), or finishes (4) or drops (3) the shard when none is left or none can win, which decides a race without TOPK once every shard has stopped. In lockstep it first arrives at its round; RACE_ROUND_DECIDE then gives every arrived shard the same best and floor; RACE_BEST_RECEIVED brings the floor outside lockstep, and the best once the shard has executed an RNEXT (log 58). -/
def Obligations.RaceRounds : Prop :=
  (∀ (s s' : State) (f : VFields) (c : Reading) (n h : Nat) (x : RaceCtx) (y : Shard) (i : Nat),
    let tid := s.cur
    raceOf s tid = some (n, h, x, y) → y.stopped = false → (∀ k, c.todo k ↔ k = i) →
    let j := (c.srcA i).toNat % 2 ^ 31
    let a := c.srcA i
    let b := c.srcB i
    let z := c.srcC i
    let hi := if isNan32 b then 0x7F800000 else b
    let lo := if isNan32 z then 0xFF800000 else z
    let Done := fun (ins : Instr) (fl : FlagSet) (x' : RaceCtx) (y' : Shard) => ∃ t, Ends ins s t ∧ Completed s' { t with hub := s'.hub } tid f ∧ (t.vthread tid).fstat = (s'.vthread tid).fstat ||| fl
      ∧ t.race? n = some (x'.put h { y' with touched := true }) ∧ (∀ k, k ≠ n → t.race? k = s'.race? k) ∧ (t.vthread tid).regs = (s'.vthread tid).regs
    let known := y.heap.any (fun e => e.j = j)
    let enter := fun (g : HeapEntry → HeapEntry) => if known then y.heap.map (fun e => if e.j = j then g e else e)
      else y.heap ++ [g { j := j, hi := 0xFF800000, lo := 0xFF800000, plHi := 0x7F800000, plLo := 0xFF800000, handed := false, evaluated := false, s := 0xFF800000, x := 0, removed := false }]
    let topk := y.config32 5
    let rise := fun (fl : Elem) => if topk = 0 ∧ f32Lt fl lo = true then lo else fl
    let Skip := hi = 0xFF800000 ∨ (topk = 0 ∧ (y.config 4).getLsbD 0 = false ∧ f32Lt hi x.floor = true)
    let Room := known = true ∨ y.heap.length < 65536
    (Begins s tid f [f.sa, f.sb, f.sc] [] c s' →
      (y.queued = false → (Skip → Done (.rqueue f) 0 x y)
        ∧ (¬ Skip → Room → Done (.rqueue f) 0 { x with floor := rise x.floor } { y with heap := enter (fun e => { e with hi := hi, lo := lo }), floor := rise y.floor }))
      ∧ (b = 0xFF800000 → Done (.rqueueK f) 0 x y)
      ∧ (b ≠ 0xFF800000 → Room → Done (.rqueueK f) 0 x { y with heap := enter (fun e => { e with plHi := hi, plLo := lo }) })
      ∧ (let sc := if isNan32 b then 0xFF800000 else b
         let open_ := y.heap.any (fun e => e.j = j && e.handed && !e.evaluated)
         (open_ = false → Done (.rpost f) 0 x y)
          ∧ (open_ = true → (isNan32 b = false ∨ c.v.fctl &&& flagNv = 0) → Done (.rpost f) (if isNan32 b then flagNv else 0)
              (if sc = 0xFF800000 then x else { x with posts := x.posts ++ [(sc, j, z)], best := if beats sc j x.best then some (sc, j, z) else x.best })
              { y with heap := y.heap.map (fun e => if e.j = j then { e with evaluated := true, s := sc, x := z } else e)
                       best := if beats sc j (y.best.map (fun b => (b.1, b.2, 0))) then some (sc, j) else y.best })))
    ∧ (Begins s tid f [f.sa, f.sb] [] c s' →
        let bad := isNan32 a || isNan32 b || f32Lt b a
        let up := f32Lt y.m b
        let m := if up then b else y.m
        let scale := fun (mode : Rounding) (v : Elem) => if up ∧ y.m ≠ 0xFF800000 then mulR mode v (expDiff mode y.m b) else v
        let add := fun (mode : Rounding) (v l : Elem) => if b ≠ 0xFF800000 then addR mode (scale mode v) (expDiff mode l m) else scale mode v
        (bad = true → c.v.fctl &&& flagNv = 0 → Done (.rzacc f) flagNv x y)
        ∧ (bad = false → Done (.rzacc f) 0 x { y with m := m, bounds := y.bounds + (if f32Lt a b then 1 else 0), zlo := add .rdn y.zlo a, zhi := add .rup y.zhi b })))
  ∧ ((∀ (p q : Elem × Nat × Elem) (b : Option (Elem × Nat × Elem)),
    let post := fun (p : Elem × Nat × Elem) (b : Option (Elem × Nat × Elem)) => if beats p.1 p.2.1 b then some p else b
    p.2.1 ≠ q.2.1 → post p (post q b) = post q (post p b))
  ∧ ∀ (s s' : State) (f : VFields) (c : Reading) (n h : Nat) (x : RaceCtx) (y : Shard),
    let tid := s.cur
    raceOf s tid = some (n, h, x, y) →
    let lock := (y.config 4).getLsbD 0
    let Agree := x.started = false ∨ (x.lock = lock ∧ x.etrap = (y.config 4).getLsbD 1 ∧ x.topk = (y.config32 5).toNat)
    (Begins s tid f [] [] c s' → c.v.work.vstart = 0 → f.mask = 0 → x.m ≤ x.shards.length → (s'.vthread tid).ret.length < 16 → Agree → y.st = .active →
      let topk := (y.config32 5).toNat
      let heap := y.heap.map (fun e => if e.handed && !e.evaluated then { e with evaluated := true, removed := true } else e)
      let In := fun (e : HeapEntry) => e ∈ heap ∧ e.handed = false ∧ e.removed = false ∧ e.hi ≠ 0xFF800000 ∧ x.struck.contains e.j = false ∧ (topk ≠ 0 ∨ f32Lt e.hi y.floor = false)
      let Can := fun (e : HeapEntry) => ∀ b j, y.best = some (b, j) → f32Lt b e.hi = true ∨ (f32Eq b e.hi = true ∧ e.j < j)
      (lock = false → (∀ e ∈ y.heap, isNan32 e.hi = false) → c.v.vl ≤ maxlOf (s'.core (tid / 4)).split →
        ∃ t x' y' cs, Ends (.rnext f) s t ∧ Completed s' { t with hub := s'.hub } tid f ∧ t.race? n = some x' ∧ Tab.find h x'.shards = some y' ∧ x'.started = true ∧ y'.rounds = y.rounds + 1
          ∧ (∀ e, e ∈ cs ↔ In e ∧ Can e) ∧ cs.Pairwise (fun a b => f32Lt b.hi a.hi = true ∨ (f32Lt a.hi b.hi = false ∧ a.j ≤ b.j))
          ∧ (let out := (cs.take c.total).map (fun e => e.j)
             (∃ st : Nat, (cs ≠ [] → st = 1) ∧ (cs = [] → (∀ e, ¬ In e) → st = 4) ∧ (cs = [] → (∃ e, In e) → st = 3)
               ∧ (t.vthread tid).ret = (s'.vthread tid).ret ++ [BitVec.ofNat 64 (st * 2 ^ 56 + out.length)])
             ∧ (∀ k j, out[k]? = some j → (t.vthread tid).elem f.vd.toNat (c.row k) (c.col k) = BitVec.ofNat 32 j)
             ∧ (∀ k, out.length ≤ k → k < c.total → (t.vthread tid).elem f.vd.toNat (c.row k) (c.col k) =
                 if f.tail = 0 then (s'.vthread tid).elem f.vd.toNat (c.row k) (c.col k) else c.v.fill)
             ∧ (cs ≠ [] → y'.st = .active ∧ y'.heap = heap.map (fun e => if out.contains e.j then { e with handed := true } else e))
             ∧ (cs = [] → topk = 0 → (y'.st = .finished ↔ ∀ e, ¬ In e) ∧ (y'.st = .finished ∨ y'.st = .dropped)
                 ∧ x'.decided = (x.decided || (x.put h y').shards.all (fun z => z.2.stopped)))))
      ∧ (lock = true → y.arrived = false → ∃ t x' y', Ends (.rnext f) s t ∧ t.race? n = some x' ∧ Tab.find h x'.shards = some y' ∧ y'.arrived = true ∧ y'.snapshot = none
          ∧ (t.vthread tid).work = (s'.vthread tid).work ∧ (t.vthread tid).ret = (s'.vthread tid).ret))
    ∧ (let waits := fun (z : Shard) => z.arrived && z.snapshot.isNone
       x.lock = true → x.m ≤ x.shards.length → waits y = true → y.stopped = false → (∀ z ∈ x.shards, waits z.2 = true ∨ z.2.stopped = true) →
        ∃ t x', Ends (.raceRoundDecide n) s t ∧ t.race? n = some x' ∧ x'.round = x.round + 1 ∧ t.threads = s.threads
          ∧ ∀ k z, Tab.find k x.shards = some z → Tab.find k x'.shards = some (if waits z then { z with snapshot := some (x.best.map (fun b => (b.1, b.2.1)), x.floor) } else z))
    ∧ (x.lock = false → y.stopped = false →
        ∃ t, Ends (.raceBestReceived tid) s t ∧ t.threads = s.threads
          ∧ t.race? n = some (x.put h { y with best := if y.rounds = 0 then y.best else x.best.map (fun b => (b.1, b.2.1)), floor := x.floor })))

/-- With no command in assembly EPUT of a header that the engine has, with its count of arguments and privilege, begins one, or waits while sixteen commands and results are outstanding; a header it has not traps ILLEGAL (a wrong count too) or PRIV, before any wait for room (the model's order, log 62); a word before the last is added, and the last, once a fill's checks pass and the release is ready, enters the command behind the engine's others with the task's identity and geometry. EGET gives the oldest result (then traps for status 1, 2 or 3 as a retired trap), all of status NONE when nothing is outstanding, and waits otherwise; ECNT gives both counts and the room; ENGINE_RESULT_POST puts a result whose accesses have performed behind its task's others. -/
def Obligations.EngineQueues : Prop :=
  ∀ (s s1 : State) (a d : Reg) (e : BitVec 6) (n : Nat) (sup : Bool) (m : Assembly),
    let tid := s.cur
    let t := s.thread tid
    let mod := e.toNat
    let x := s.reg tid a
    let eng := if mod = 0 then tid / 4 else if mod = 1 then 64 + tid / 64 else 68
    let word := (Instr.eput a e).word
    let out := ((s.cmdsOf mod).filter (fun c => c.uid = t.uid)).length
    let res := Tab.get [] mod t.results
    let header := commandTable mod (bits x 63 56)
    (Tab.find mod t.asm = none →
      (header = none → Ends (.eput a e) s (s.takeTrap tid causeIllegal word none false))
      ∧ (header = some (n, sup) →
        (bits x 55 48 ≠ n → Ends (.eput a e) s (s.takeTrap tid causeIllegal word none false))
        ∧ (bits x 55 48 = n → sup = true → t.priv = .task → Ends (.eput a e) s (s.takeTrap tid causePriv word none false))
        ∧ (bits x 55 48 = n → (sup = false ∨ t.priv = .supervisor) →
            (16 ≤ out + res.length → Ends (.eput a e) s s)
            ∧ (out + res.length < 16 → Ends (.eput a e) s ((s.setThread tid { t with asm := Tab.put mod { header := x, args := [] } t.asm }).retire tid)))))
    ∧ (Tab.find mod t.asm = some m →
        (m.args.length + 1 < bits m.header 55 48 →
          Ends (.eput a e) s ((s.setThread tid { t with asm := Tab.put mod { m with args := m.args ++ [x] } t.asm }).retire tid))
        ∧ (bits m.header 55 48 ≤ m.args.length + 1 → (∀ y, mod = 0 → fillWord m.header (m.args ++ [x]) = some y → fillChecks s tid word y = .ok ()) →
            s.releaseReady tid (BitVec.ofNat 3 (mod + 1)) = .ok s1 →
            ∃ u c, Ends (.eput a e) s u ∧ u.cmds eng = s1.cmds eng ++ [c] ∧ c.header = m.header ∧ c.args = m.args ++ [x] ∧ c.uid = t.uid ∧ c.vi = t.vi ∧ c.geom = t.geom
              ∧ c.result = none ∧ c.started = false ∧ (u.thread tid).pc = (s1.thread tid).pc + 4 ∧ Tab.find mod (u.thread tid).asm = none
              ∧ ∀ y, mod = 0 → fillWord m.header c.args = some y → (u.slot (tid / 4) (bits y 5 0)).fills = (s1.slot (tid / 4) (bits y 5 0)).fills + 1))
    ∧ (∀ r rest, res = r :: rest →
        let z := s.forgetEarly tid
        let got := (z.setThread tid { z.thread tid with results := Tab.write [] mod rest t.results }).setReg tid d r.word
        let st := bits r.word 63 56
        (st ≠ 1 → st ≠ 2 → st ≠ 3 → exec (.eget d e) s = .next (got.retire tid))
        ∧ (st = 1 → Ends (.eget d e) s ((got.retire tid).takeTrap tid causeEngineFault r.tval (some r.xinfo) true))
        ∧ (st = 2 → Ends (.eget d e) s ((got.retire tid).takeTrap tid causeImportRefused r.tval none true))
        ∧ (st = 3 → Ends (.eget d e) s ((got.retire tid).takeTrap tid causeFabNoslot r.tval (some r.xinfo) true)))
    ∧ (res = [] → out = 0 → ∃ u, exec (.eget d e) s = .next u ∧ Wrote s u tid d 0xFF00000000000000 (t.pc + 4))
    ∧ (res = [] → out ≠ 0 → exec (.eget d e) s = .next s)
    ∧ (∃ u, exec (.ecnt d e) s = .next u ∧ Wrote s u tid d (BitVec.ofNat 64 ((16 - (out + res.length)) * 65536 + res.length % 256 * 256 + out % 256)) (t.pc + 4))
    ∧ (∀ g k c r dst, (s.cmds g)[k]? = some c → c.result = some r → s.unperformed c.id true = false → s.tidOf c.uid = some dst →
        let kind := if g < 64 then 0 else if g < 68 then 1 else 2
        let u := s.thread dst
        Ends (.engineResultPost g k) s ((s.setCmds g ((s.cmds g).filter (fun x => x.id ≠ c.id))).setThread dst
          { u with results := Tab.put kind (Tab.get [] kind u.results ++ [r]) u.results }).decideAll)

/-- A copy command that may start, in a turn that performs all of it, over the scratchpad of its core (nothing struck, no store of the die buffered): COPY2D whose rows lie in it, the destination rows apart from each other and from the sources, gives every destination byte its source byte, changes no other byte and ends with rows × bytes; ZERO of memory zeroes exactly its bytes; FILLTILE into a slot of its task that is READY without readers, or FILLING at the width, gives each lane of the steps named its v-bit coefficient from its row, counts the steps and the fill, and turns the slot READY when its extent is written; ZERO of a slot writes zeros there; each ends with status OK. -/
def Obligations.CopyCommands : Prop :=
  ∀ (s : State) (eng k : Nat) (c : Cmd) (tid : Nat),
    eng < 64 → s.share = .whole → s.poison = [] → (s.die (eng / 16)).egress = [] →
    let B := fun (u : State) (x : Nat) => Memory.read (u.core eng).scratch x
    let In := fun (ea : Word) (n : Nat) => ea.toNat + n ≤ 2 ^ 22
    let row := fun (b : Word) (r : Nat) (stride : BitVec 32) => b + BitVec.ofNat 64 r * stride.signExtend 64
    (Starts s eng k 1 c → bits c.header 39 0 = 5 →
      let len := bits (c.arg 3) 31 0
      let rows := bits (c.arg 3) 47 32 + 1
      let src := fun (r : Nat) => row (c.arg 1) r ((c.arg 4).setWidth 32)
      let dst := fun (r : Nat) => row (c.arg 2) r ((c.arg 4 >>> 32).setWidth 32)
      0 < len → len ≤ 2 ^ 24 → bits (c.arg 3) 63 48 = 0 → (∀ r, r < rows → In (src r) len ∧ In (dst r) len) →
      (∀ r q, r < rows → q < rows → ((dst r).toNat + len ≤ (src q).toNat ∨ (src q).toNat + len ≤ (dst r).toNat)
        ∧ (r ≠ q → (dst r).toNat + len ≤ (dst q).toNat ∨ (dst q).toNat + len ≤ (dst r).toNat)) →
      ∃ u, Ends (.copy2d eng k) s u ∧ Posts u eng k c 0 (rows * len) ∧ u.threads = s.threads ∧ u.hbm = s.hbm
        ∧ (∀ r i, r < rows → i < len → B u ((dst r).toNat + i) = B s ((src r).toNat + i))
        ∧ (∀ x, (∀ r, r < rows → x < (dst r).toNat ∨ (dst r).toNat + len ≤ x) → B u x = B s x))
    ∧ (Starts s eng k 3 c → bits c.header 39 0 = 2 → 0 < (c.arg 2).toNat → In (c.arg 1) (c.arg 2).toNat →
      ∃ u, Ends (.zeroMemory eng k) s u ∧ Posts u eng k c 0 (c.arg 2).toNat ∧ u.threads = s.threads ∧ u.hbm = s.hbm
        ∧ ∀ x, B u x = if (c.arg 1).toNat ≤ x ∧ x < (c.arg 1).toNat + (c.arg 2).toNat then 0 else B s x)
    ∧ (let Fills := fun (i : Instr) (a : Word) (coeff : Nat → Nat → BitVec 16) =>
         let core := tid / 4
         let n := bits a 5 0
         let first := bits a 15 8
         let steps := bits a 23 16 + 1
         let v := geomV c.geom
         let y0 := s.slot core n
         s.tidOf c.uid = some tid → bits a 7 6 = 0 → ((y0.st = .ready ∧ y0.rdrs = 0) ∨ (y0.st = .filling ∧ (y0.vw = 0 ∨ y0.vw = v))) →
         ∃ u, Ends i s u ∧ Posts u eng k c 0 steps ∧ (∀ x, B u x = B s x) ∧ (∀ j, j ≠ n → u.slot core j = s.slot core j)
           ∧ (let y := u.slot core n
              y.fills = y0.fills - 1 ∧ y.vw = v ∧ (y.written.length = y0.ext + 1 → y.st = .ready)
              ∧ (∀ r l, r < steps → l < 128 → Tab.get 0 (128 * (first + r) + l) y.data = coeff r l)
              ∧ (∀ j, (j < 128 * first ∨ 128 * (first + steps) ≤ j) → Tab.get 0 j y.data = Tab.get 0 j y0.data)
              ∧ ∀ m, m ∈ y.written ↔ (y0.st = .filling ∧ m ∈ y0.written) ∨ (first ≤ m ∧ m < first + steps))
       (Starts s eng k 2 c → bits c.header 39 0 = 1 → bits (c.arg 2) 31 24 = 0 →
         let v := geomV c.geom
         let src := fun (r : Nat) => row (c.arg 1) r ((c.arg 2 >>> 32).setWidth 32)
         (∀ r, r < bits (c.arg 2) 23 16 + 1 → In (src r) (16 * v)) →
         Fills (.filltile eng k) (c.arg 2) (fun r l => BitVec.ofNat 16
           (leNat ((List.range (16 * v)).map (fun j => B s ((src r).toNat + j))) / 2 ^ (l * v) % 2 ^ v)))
       ∧ (Starts s eng k 3 c → bits c.header 39 0 = 1 → bits (c.arg 1) 63 24 = 0 → c.arg 2 = 0 → Fills (.zeroSlot eng k) (c.arg 1) (fun _ _ => 0)))

/-- A slab command that may start and whose words are good: SLABNEW of a descriptor with V = 0 (read and written under the key of slot 0, the model's reading, log 11) writes V, SZ, BASE, TOKB and LENPTR with every other field 0 (a valid one is DENIED 1); SLABFREE of a settled unparked slab clears V and every cached copy, and ends OK once the accesses already translated have ended; SLABGROW that nothing denies, with fewer than sixteen moves running or to start first, sets MV = 1, SZ + 1, NEWBASE and CURSOR 0 and starts a move; SLAB_CHUNK_COPIED, its 4 KiB read and written and performed, writes the engine's descriptor whole with CURSOR moved on, or with the last chunk settled at NEWBASE with status OK, and then tries again what waited. EXPORT of a valid slab whose bytes and weights digest can be read writes the record (version 1, model, tenant, tokens and TOKB, the two digests, zeros, and the MAC over them, whose key the model takes from a free secret where no session is open, log 18) and ends with the bytes digested (or waits, or faults, where the writing does); IMPORT refuses with the first reason that the record meets (in the model's order, log 70), and, its bytes written, ends OK when their digest and TOKB agree (no length word named), or zeroes them and refuses with 6. -/
def Obligations.SlabsAndPrefixes : Prop :=
  (∀ (s s2 : State) (die k : Nat) (c : Cmd) (a : Nat),
    die < 4 →
    let eng := 64 + die
    let id := (c.arg 1).toNat
    let z := s.begun eng c
    let d := z.homeSlab die c.vi a
    let W := fun (u : State) (i : Nat) => u.leafWord c.vi (a + 8 * i)
    (Starts s eng k 0x10 c → slabnewBad c = none → z.cmdSlabAt eng c.begun id = .ok a →
      (d.v = true → ∃ u, Ends (.slabnew eng k) s u ∧ Posts u eng k c 6 1 ∧ u.hbm = s.hbm)
      ∧ (d.v = false → ∃ u, Ends (.slabnew eng k) s u ∧ Posts u eng k c 0 0 ∧ W u 1 = 0 ∧ W u 2 = c.arg 4
          ∧ W u 0 = BitVec.ofNat 64 (1 + bits (c.arg 3) 5 0 * 2 ^ 10 + bits (c.arg 2) 55 16 * 2 ^ 16)
          ∧ W u 3 = BitVec.ofNat 64 (bits (c.arg 3) 31 16 * 2 ^ 32)))
    ∧ (Starts s eng k 0x12 c → bits c.header 39 0 = 0 → id ≤ 16383 → z.cmdSlabAt eng c.begun id = .ok a →
        d.v = true → d.malformed = false → d.mv = 0 → d.pk = false →
        let every := fun (_ : Nat) => true
        let u := z.homeRewrite die (z.key0 c.vi) a (d.w0 &&& ~~~1#64)
        let u1 := (u.dropTranslations c.vi every (fun x => x.asn = c.asn && x.level = 4 && x.page = id)).flushCores c.vi every
        let ids := u1.inFlight c.vi every
        W u 0 = d.w0 &&& ~~~1#64 ∧ Ends (.slabfree eng k) s (u1.setCmd eng (if ids = [] then c.begun.ok 0 else { c.begun with done := 1, mem := ids }))
          ∧ ∀ x ∈ u1.cores, ∀ e ∈ x.2.tlb, ¬ (e.vi = c.vi ∧ e.asn = c.asn ∧ e.level = 4 ∧ e.page = id))
    ∧ ((s.cmds eng)[k]? = some c → c.code = 0x12 → c.result = none → c.started = true → c.done = 1 → s.powered die = true →
        Ends (.slabfree eng k) s (if s.stillOut c.mem = true then s.setCmd eng c else s.setCmd eng (c.ok 0)))
    ∧ (Starts s eng k 0x11 c → (s.die die).moves.length + growsBefore s ((s.cmds eng).take k) < 16 → (∀ m ∈ (s.die die).moves, m.cmd ≠ c.id) → bits c.header 39 0 = 0 → id ≤ 16383 →
        z.cmdSlabAt eng c.begun id = .ok a → growDenied z eng c.begun d = none →
        ∃ u m, Ends (.slabgrow eng k) s u ∧ (u.die die).moves = (s.die die).moves ++ [m] ∧ m.cmd = c.id ∧ m.cursor = 0 ∧ m.base = d.base ∧ m.sz = d.sz + 1
          ∧ m.newbase = (c.arg 2).toNat % 2 ^ 56 ∧ W u 0 = BitVec.ofNat 64 (1 + 2 ^ 8 + (d.sz + 1) * 2 ^ 10 + d.base)
          ∧ W u 1 = BitVec.ofNat 64 ((c.arg 2).toNat % 2 ^ 56) ∧ W u 2 = d.w2 ∧ W u 3 = BitVec.ofNat 64 (d.tokb * 2 ^ 32))
    ∧ (∀ (n : Nat) (m : Move), (s.die die).moves[n]? = some m → (s.cmds eng).find? (fun x => x.id = m.cmd) = some c →
        (m.held = true ∨ s.chunkQuiet die m = true) →
        let held := { m with held := true }
        let h := s.setMove die held
        let x : Cmd := { c with run := some { todo := [], parts := [], out := [] }, req := none }
        s.powered die = true →
        h.copyRun eng c spaceGlobal spaceGlobal (oneRow (fullVa ((m.base + m.cursor * 4096) % 2 ^ 56)) 4096) (oneRow (fullVa ((m.newbase + m.cursor * 4096) % 2 ^ 56)) 4096) 1
          (h.share.accesses 4096) = .ok s2 →
        s2.unperformed c.id true = false →
        Ends (.slabChunkCopied die n) s ((s2.advanceMove die held x).retryWaiting))
    ∧ (∀ (m : Move), let u := s.advanceMove die m c
        let D := fun (i : Nat) => u.leafWord m.vi (m.desc + 8 * i)
        if (m.cursor + 1) * 4096 = 2 ^ (m.sz - 1) then
          (∀ x ∈ (u.die die).moves, x.cmd ≠ m.cmd) ∧ D 0 = slabWord0 true false 0 m.sz m.newbase ∧ D 1 = 0 ∧ D 2 = m.lenptr ∧ D 3 = BitVec.ofNat 64 (m.tokb * 2 ^ 32)
        else D 0 = slabWord0 true false 1 m.sz m.base ∧ D 1 = BitVec.ofNat 64 (m.newbase % 2 ^ 56 / 2 ^ 16 * 2 ^ 16) ∧ D 2 = m.lenptr
          ∧ D 3 = BitVec.ofNat 64 (m.tokb * 2 ^ 32 + (m.cursor + 1) % 2 ^ 22)
          ∧ (u.die die).moves = (s.die die).moves.map (fun x => if x.cmd = m.cmd then { m with cursor := m.cursor + 1, held := false } else x)))
  ∧ (∀ (s s1 s2 : State) (die k : Nat) (c : Cmd) (a : Nat) (b wd : List Byte),
    die < 4 →
    let eng := 64 + die
    let id := (c.arg 1).toNat
    let z := s.begun eng c
    let x := c.begun
    let d := z.homeSlab die c.vi a
    let slab := fullVa (slabVa id)
    bits c.header 39 0 = 0 → id ≤ 16383 → z.cmdSlabAt eng x id = .ok a → d.v = true → d.malformed = false →
    (Starts s eng k 0x13 c → (c.arg 2).toNat % 256 = 0 → (c.arg 4).toNat < 2 ^ 32 →
      let total := (c.arg 4).toNat * d.tokb
      total ≤ 2 ^ d.sz → z.readRun eng x spaceGlobal slab total (z.share.accesses total) = .ok s1 b → s1.readRun eng x spaceGlobal (c.arg 5) 48 (s1.share.accesses 48) = .ok s2 wd →
      let body := wordBytes 1 ++ wordBytes (c.arg 3) ++ wordBytes (s2.vi c.vi).tenant ++ wordBytes (BitVec.ofNat 64 ((c.arg 4).toNat % 2 ^ 32 + d.tokb % 2 ^ 16 * 2 ^ 32))
        ++ wd ++ sha384 b ++ List.replicate 80 0
      let record := body ++ hmac384 (prefixKey s2 c.vi) body
      Ends (.exportPrefix eng k) s (match s2.writeRun eng x spaceGlobal (c.arg 2) 256 (fun i => record.getD i 0) (s2.share.accesses 256) with
        | .ok u => u.setCmd eng (x.ok total)
        | .wait u y => u.setCmd eng { y with mem := [2], buf := record }
        | .fault u _ v i => u.setCmd eng (x.fault total v i)))
    ∧ (Starts s eng k 0x14 c → z.readRun eng x spaceGlobal (c.arg 2) 256 (z.share.accesses 256) = .ok s1 b → s1.readRun eng x spaceGlobal (c.arg 4) 48 (s1.share.accesses 48) = .ok s2 wd →
        ∀ r, importRefused s2 x b wd = some r → Ends (.importPrefix eng k) s (s2.setCmd eng (x.refusedFor r)))
    ∧ ((s.cmds eng)[k]? = some c → c.code = 0x14 → c.result = none → c.started = true → c.mem = [3] → s.powered die = true →
        let data := c.buf.drop 304
        let word := (recWordAt (c.buf.take 304) 0x18).toNat
        let total := word % 2 ^ 32 * (word / 2 ^ 32 % 2 ^ 16)
        z.writeRun eng x spaceGlobal slab total (fun i => data.getD i 0) (z.share.accesses total) = .ok s1 →
        (sha384 data = recField (c.buf.take 304) 0x50 48 → word / 2 ^ 32 % 2 ^ 16 = d.tokb → s1.unperformed c.id false = false → d.lenptr = 0 →
          Ends (.importPrefix eng k) s (s1.setCmd eng (x.ok 0)))
        ∧ (sha384 data ≠ recField (c.buf.take 304) 0x50 48 → s1.writeRun eng { x with run := none } spaceGlobal slab total (fun _ => 0) (s1.share.accesses total) = .ok s2 →
          Ends (.importPrefix eng k) s (s2.setCmd eng (x.refusedFor 6)))))

/-- PROMOTE of a page in HBM, or of a leaf with FR = 1, ends OK at once, and of one outside it ends as the page's promotion lets it proceed, waits, or fails. DEMOTE of an unpinned local page in HBM that nothing denies rewrites its leaf to the destination tier with a handle that is not 0, drops its cached copies and begins a demotion; DEMOTION_DONE then stores the frame's bytes under the page's key and handle and ends the command OK; a DEMOTE of a page in its tier ends OK, of a pinned, device-local, remote or large one DENIED 1 (that FR = 1 counts there is the model's, log 71, as KIND read in a failed PROMOTE is, log 80). PROMOTION_DONE of a promotion without a frame takes one when no promotion of its interface waits before it, waits while the ring is empty and fails with reason 6 where it is absent (STARVE follows); behind one that waits it does nothing. With its frame and its page in the tier under the key of its slot, it lands: the frame holds the stored bytes, the leaf has TIER 00 and the frame, and the stored page is gone; a tier that failed ends it with reason 6, one that fails authentication with 7. AGING_CHECK counts one AGECLK and one on each running watchdog of its die's task-privilege tasks, and ages parked records. PAGE_WALK loads the leaf into the core's TLB with A set, for a permitted store with D, and does nothing for the peer, sync and capability ranges. -/
def Obligations.TierMoves : Prop :=
  (∀ (s s1 : State) (die k : Nat) (c : Cmd) (va : Nat) (l : Leaf),
    die < 4 →
    let eng := 64 + die
    let z := s.begun eng c
    let w := l.word
    let flash := c.header.getLsbD 0
    (c.arg 1).toNat % 2 ^ 16 = 0 → z.tierLeaf eng c.begun (c.arg 1) = .ok (va, l) →
    (Starts s eng k 0x15 c → bits c.header 39 0 = 0 →
      (pteFr w = true ∨ pteTier w = 0 → Ends (.promote eng k) s (z.setCmd eng (c.begun.ok 0)))
      ∧ (pteFr w = false → pteTier w ≠ 0 →
          let met := z.meetTier die (waiterCmd c.id) c.vi c.asn (va / 2 ^ pageBits l.level * 2 ^ pageBits l.level) l.at_ w
          (met = (.waits, s1) → Ends (.promote eng k) s (s1.setCmd eng c.begun)) ∧ (met = (.proceeds, s1) → Ends (.promote eng k) s (s1.setCmd eng (c.begun.ok 0)))
          ∧ ∀ r, met = (.fails r, s1) → Ends (.promote eng k) s (s1.setCmd eng (c.begun.fault 0 (c.arg 1) (xinfoOf r l.level .read)))))
    ∧ (Starts s eng k 0x16 c → bits c.header 39 1 = 0 → (∀ x ∈ s.dies, ∀ e ∈ x.2.demos, e.cmd ≠ some c.id) →
        (pteFr w = false → pteTier w = (if flash then 2 else 1) → Ends (.demote eng k) s (z.setCmd eng (c.begun.ok 0)))
        ∧ ((pteFr w = true ∨ pteTier w ≠ (if flash then 2 else 1)) → (ptePin w = true ∨ pteDl w = true ∨ pteFr w = true ∨ l.level ≠ 0) →
            Ends (.demote eng k) s (z.setCmd eng (c.begun.denied 1)))
        ∧ (ptePin w = false → pteDl w = false → pteFr w = false → l.level = 0 → pteTier w = 0 → s.leafWord c.vi l.at_ = w → s.egressHolds die (.hbm l.at_) 8 = false →
            (∃ rs, z.chargedFor c.vi c.asn va w c.region = some rs ∧ z.quotaRoom c.vi rs flash = true) → z.inPromoting c.vi c.asn va = false →
            z.returnRoom die c.vi = some true → z.promoOf c.vi l.at_ = none → z.demoOf c.vi l.at_ = none →
            ∃ u e, Ends (.demote eng k) s u ∧ (u.die die).demos = (s.die die).demos ++ [e] ∧ e.va = va ∧ e.old = w ∧ e.cmd = some c.id ∧ e.flash = flash
              ∧ (let x := u.leafWord c.vi l.at_
                 pteTier x = (if flash then 2 else 1) ∧ bits x 55 16 ≠ 0 ∧ bits x 15 0 = bits w 15 0 ∧ bits x 63 60 = bits w 63 60)
              ∧ ∀ x ∈ u.cores, ∀ e ∈ x.2.tlb, ¬ (e.vi = c.vi ∧ e.at_ = l.at_)))
    ∧ (∀ (n : Nat) (e : Demo) (frame : Nat) (key : BitVec 256), (s.die die).demos[n]? = some e → s.powered die = true → e.rec_ = none → pteTier e.old = 0 →
        hbmAddr (pteFrame e.old) = some frame → s.returnRoom die e.vi = some true → s.rangeQuiet (.hbm frame) (2 ^ 16) = true →
        Tab.find (pteSkey e.old) (s.vi e.vi).keys = some key →
        ∃ u p, Ends (.demotionDone die n) s u ∧ (u.die die).demos = (s.die die).demos.filter (· ≠ e) ∧ Tab.find e.page u.store = some p ∧ p.flash = e.flash
          ∧ p.handle = BitVec.ofNat 40 (bits e.new 55 16) ∧ p.key = key ∧ p.vi = e.vi ∧ p.asn = e.asn ∧ p.va = e.va
          ∧ (∀ i, i < 2 ^ 16 → Memory.read p.data i = s.hbmByte key (frame + i))
          ∧ ∀ x ∈ (u.die die).pageQ, e.cmd = some x.id → ∃ r, x.result = some r ∧ r.word = BitVec.ofNat 64 (bits x.header 47 40 * 2 ^ 48)))
  ∧ (∀ (s s1 : State) (die n : Nat) (p : Promo) (f a : Nat) (key : BitVec 256) (i : Nat) (e : StoredPage),
    ((s.die die).promos[n]? = some p → s.powered die = true → s.demoOf p.vi p.at_ = none → p.frame = none → ∀ r,
      ((∃ q ∈ (s.die die).promos.take n, q.vi = p.vi ∧ q.frame = none) → (s.poolRing die p.vi 0).isSome = true → Ends (.promotionDone die n r) s s)
      ∧ ((∀ q ∈ (s.die die).promos.take n, ¬ (q.vi = p.vi ∧ q.frame = none)) →
          (s.takeFrame die p.vi = (.empty, s1) → Ends (.promotionDone die n r) s s1)
          ∧ (s.takeFrame die p.vi = (.absent, s1) → Ends (.promotionDone die n r) s ((s1.promotionFails die p 6).writeStarve die p.vi))
          ∧ (s.takeFrame die p.vi = (.got f, s1) → r = .tierFailed →
              let q : Promo := { p with frame := some f }
              let u := (s1.setDie die { s1.die die with promos := (s1.die die).promos.map (fun x => if x = p then q else x) }).writeStarve die p.vi
              u.returnRoom die p.vi ≠ some false → Ends (.promotionDone die n r) s (u.promotionFails die q 6))))
    ∧ ((s.die die).promos[n]? = some p → s.powered die = true → s.demoOf p.vi p.at_ = none → p.frame = some f →
      (s.returnRoom die p.vi ≠ some false →
        Ends (.promotionDone die n .tierFailed) s (s.promotionFails die p 6) ∧ Ends (.promotionDone die n .authFailed) s (s.promotionFails die p 7))
      ∧ (Tab.find (pteSkey p.leaf) (s.vi p.vi).keys = some key → s.storedOf p.vi p.asn p.va p.leaf = some (i, e) → (e.discarded = true ∨ e.key = key) →
          Ends (.promotionDone die n .inHbm) s (s.promotionLands die p f key (i, e))
          ∧ (pteNoAd (s.leafWord p.vi p.at_) = pteNoAd p.leaf → hbmAddr f = some a → f % 2 ^ 16 = 0 → f < 2 ^ 39 → (p.at_ + 8 ≤ a ∨ a + 2 ^ 16 ≤ p.at_) → p.at_ % 8 = 0 →
              e.charged = [] → p.rec_ = none → (s.die die).egress = [] → s.hub.held = [] → s.hub.hostHeld = [] →
              let u := s.promotionLands die p f key (i, e)
              (∀ j, j < 2 ^ 16 → u.hbmByte key (a + j) = Memory.read e.data j) ∧ pteTier (u.leafWord p.vi p.at_) = 0 ∧ pteFrame (u.leafWord p.vi p.at_) = f
                ∧ Tab.find i u.store = none ∧ (u.die die).promos = (s.die die).promos.filter (· ≠ p))))
    ∧ (let u := (s.tick die).ageRecords die
       s.powered die = true → Ends (.agingCheck die) s u
       ∧ ((∀ r ∈ s.recs, ¬ (r.2.st = .parked ∧ r.2.die = die)) → (u.die die).ageclk = (s.die die).ageclk + 1 ∧ u.hbm = s.hbm
          ∧ ∀ t, (u.thread t).wdogCount = (s.thread t).wdogCount + (if t / 64 = die ∧ (s.thread t).live = true ∧ (s.thread t).priv = .task ∧ bits (s.thread t).wdog 31 0 ≠ 0 then 1 else 0)))
    ∧ (∀ (core vi asn : Nat) (va : Word) (b : Bool), 0xFB ≤ va.toNat % 2 ^ 56 / 2 ^ 48 → va.toNat % 2 ^ 56 / 2 ^ 48 ≤ 0xFD → Ends (.pageWalk core vi asn va b) s s)
    ∧ (∀ (core vi asn : Nat) (va : Word) (t : Nat × CThread) (root tab : Nat) (sl : Bool) (l : Leaf),
        s.threads.find? (fun t => t.2.live && t.1 / 4 = core && t.2.vi = vi && s.asnOf t.2 = asn) = some t →
        let ag := s.agentOf t.1 false
        let v := va.toNat % 2 ^ 56
        s.asEntry ag.die vi asn = .ok (root, tab, sl) → (v / 2 ^ 48 < 0xFB ∨ v / 2 ^ 48 = 0xFF) → ag.vi = vi → ag.asn = asn →
        (s.freshLeaf ag .read va root v = .ok (l, s1) → Ends (.pageWalk core vi asn va false) s s1 ∧ s1.cached core vi asn v = some l ∧ pteA l.word = true)
        ∧ (∀ l2 s2, s.freshLeaf ag .write va root v = .ok (l, s1) → permits ag .write l.word = true → s1.setLeafBits ag.die vi l 0x80 = some (l2, s2) →
            let u := s2.fillTlb core vi asn v l2
            Ends (.pageWalk core vi asn va true) s u ∧ u.cached core vi asn v = some l2 ∧ pteA l2.word = true ∧ pteD l2.word = true)))

/-- On a die with power: PARK_SAVE_DONE of a saved record in SAVING, no slab of which moves and whose descriptors it has not yet taken, sets PK in these and clears the record's counters and, with no length words to read and WAKE 0, makes it PARKED at the die's AGECLK; woken, or with WAKE not 0, it promotes the record. HOT_WINDOW_DONE of a record in PROMOTING, none of whose hot pages has failed or stands outside HBM (a page without a leaf here, or remote, counts as done, log 38), makes it RUNNABLE with WAKE read for the PARK, and HOT_WINDOW_FAIL of one that has failed with no hot promotion in flight makes it FAILED; both queue the gang. A state change writes the STATE code into the record's control word. -/
def Obligations.ParkEvents : Prop :=
  ∀ (s : State) (n : Nat) (r : ParkRec),
    s.rec? n = some r → s.powered r.die = true →
    (∀ st, let u := s.setRecState n st
      (∃ x, u.rec? n = some x ∧ x.st = st) ∧ bits (u.recWord r 0) 2 0 = (match st with | .saving => 1 | .parked => 2 | .promoting => 3 | .runnable => 4 | .failed => 5))
    ∧ (r.st = .promoting → r.hotFailed = false →
        (∀ p ∈ r.hot.flatten, ∀ a l, s.peekLeaf r.die r.vi r.asn p.2 = some (a, l) → pteFr l.word = true ∨ pteTier l.word = 0) →
        Ends (.hotWindowDone n) s (((s.setRec n { r with wake := s.recWord r 8 }).setRecState n .runnable).queueParked r))
    ∧ (r.st = .promoting → r.hotFailed = true → (∀ d ∈ s.dies, ∀ p ∈ d.2.promos, ¬ (p.rec_ = some n ∧ p.hot = true)) →
        Ends (.hotWindowFail n) s ((s.setRecState n .failed).queueParked r))
    ∧ (r.st = .saving → r.lens = [] → r.descs.length ≠ r.slabs.length → (∃ g, s.gang? r.gang = some g ∧ g.st = .parked) → s.recs.length ≤ 4096 →
        let desc := fun (id : Nat) => ((s.slabAt r.die r.vi r.asn id).map (s.homeSlab r.die r.vi)).getD { w0 := 0, w1 := 0, w2 := 0, w3 := 0 }
        (∀ id ∈ r.slabs, (desc id).v = true → (desc id).mv = 0) → (∀ id ∈ r.slabs, (desc id).lenptr = 0) →
        let fresh : ParkRec := { r with descs := r.slabs.map (fun id => { desc id with w0 := (desc id).w0 ||| 2 })
                                        demoted := 0, discarded := 0, promoted := 0, failed := 0, firstFail := 0 }
        let s1 := ((s.setRec n fresh).setPk fresh true).putCounters n
        ∀ r1 : ParkRec, s1.rec? n = some r1 → { r1 with woken := r.woken } = fresh →
        (r1.woken = false → s1.recWord r1 8 = 0 → ∃ u x, Ends (.parkSaveDone n) s u ∧ u.rec? n = some x ∧ x.st = .parked ∧ x.parkage = (s1.die r.die).ageclk
          ∧ x.lens = r.slabs.map (fun _ => none) ∧ x.descs = fresh.descs)
        ∧ (r1.woken = true ∨ s1.recWord r1 8 ≠ 0 → ∃ (u : State) (x : ParkRec), Ends (.parkSaveDone n) s (u.promoteRec n) ∧ u.rec? n = some x
          ∧ x.lens = r.slabs.map (fun _ => none) ∧ x.st = .saving ∧ x.descs = fresh.descs))

/-- A collective command that may start and whose words are good: REDALLOC at this node, its map read, takes the lowest FREE slot that the switch memory has room for, as asked and at generation 0, with an unused handle as its value (drawn freely, log 74), or ends NOSLOT, or BUSY when no handle is free; REDFREE of a handle of an opened slot of this interface frees both, of one that collects ends BUSY; PULLSET clears its window, or sets it with the map it has read; MCAST sends its bytes to the next member, then adds 1 to its notify word, and after the last ends with members × bytes (one member after another, with this value, is the model's, log 74), or in FAULT at the byte that a member refuses, with the bytes before it as its value. A contribution line from another module that names no slot, a member or line outside it, or a generation that is neither the slot's nor the one before, is refused; one of the generation before, or one already there, is discarded and counted; another is merged by the slot's operation (kept by member for FP32), marked, and when it is the last the round is completed; merged and discarded lines are acknowledged. A pull load of one element that names this hub is answered with the members' lines reduced in list order, its own line being read first by a load of its own, once for all its places, where it is a member (the model's way, log 96). The KIND and REASON of a refused line are log 100. -/
def Obligations.CollectiveCommands : Prop :=
  (∀ (s s1 : State) (k : Nat) (c : Cmd) (b : List Byte),
    let x := c.begun
    let z := s.begun 68 c
    let a1 := c.arg 1
    let Result := fun (u : State) (st v : Nat) => Posts u 68 k c st v
    let nums := fun (n : Nat) => (List.range n).map (fun i => leNat ((b.drop (2 * i)).take 2))
    (Starts s 68 k 0x20 c → redallocBad z x = none → bits a1 10 0 = s.modnum →
      let m := bits a1 25 16 + 1
      z.readRun 68 x spaceGlobal (c.arg 3) (2 * m) (z.share.accesses (2 * m)) = .ok s1 b → s1.modnum = s.modnum → (s1.cmds 68)[k]? = some x →
      (256 ≤ (s1.vi c.vi).handles.length → ∃ u, Ends (.redalloc 68 k) s u ∧ Result u 5 0 ∧ u.hub.slots = s1.hub.slots) ∧ ((s1.vi c.vi).handles.length < 256 →
      let room := fun (n : Nat) => n < 256 ∧ Tab.find n s1.hub.slots = none ∧ (∀ j, j < n → Tab.find j s1.hub.slots ≠ none)
      let fits := s1.slotMemory + reservation (bits a1 31 28) m (c.arg 2).toNat ≤ 2 ^ 25
      ((∃ n, room n) → fits → ∃ u n h r, room n ∧ Ends (.redalloc 68 k) s u ∧ Result u 0 h ∧ h < 256 ∧ Tab.find h (s1.vi c.vi).handles = none
          ∧ Tab.find h (u.vi c.vi).handles = some { id := r.id, slot := n, node := s.modnum, op := bits a1 31 28, region := c.region } ∧ Tab.find n u.hub.slots = some r ∧ r.st = .opened ∧ r.m = m
          ∧ r.op = bits a1 31 28 ∧ r.len = (c.arg 2).toNat ∧ r.members = nums m ∧ r.c = 0 ∧ r.bitmap = [] ∧ r.result = c.arg 4 ∧ r.notify = c.arg 5)
      ∧ ((∀ n, ¬ room n) ∨ ¬ fits → ∃ u, Ends (.redalloc 68 k) s u ∧ Result u 3 (bits a1 10 0))))
    ∧ (∀ h r, Starts s 68 k 0x21 c → bits c.header 39 0 = 0 → a1.toNat < 256 → Tab.find a1.toNat (s.vi c.vi).handles = some h → h.node = s.modnum →
        Tab.find h.slot s.hub.slots = some r → r.id = h.id → r.src = s.modnum → r.tag = (s.vi c.vi).tag →
        (r.st = .opened → ∃ u, Ends (.redfree 68 k) s u ∧ Result u 0 0 ∧ Tab.find h.slot u.hub.slots = none ∧ Tab.find a1.toNat (u.vi c.vi).handles = none)
        ∧ (r.st ≠ .opened → ∃ u, Ends (.redfree 68 k) s u ∧ Result u 5 0 ∧ u.hub.slots = s.hub.slots ∧ u.vis = s.vis))
    ∧ (Starts s 68 k 0x22 c → pullsetBad z x = none →
        (a1.getLsbD 31 = true → ∃ u, Ends (.pullset 68 k) s u ∧ Result u 0 0 ∧ Tab.find (bits a1 3 0) (u.vi c.vi).windows = none)
        ∧ (a1.getLsbD 31 = false → let m := bits a1 21 16 + 1
            z.readRun 68 x spaceGlobal (c.arg 2) (2 * m) (z.share.accesses (2 * m)) = .ok s1 b → (s1.cmds 68)[k]? = some x →
            ∃ u, Ends (.pullset 68 k) s u ∧ Result u 0 0
              ∧ Tab.find (bits a1 3 0) (u.vi c.vi).windows = some { node := bits a1 14 4, members := nums m, op := bits a1 27 24, base := c.arg 3 }))
    ∧ ((s.cmds 68)[k]? = some c → c.code = 0x23 → c.result = none → c.started = true → mcastBad c = none → c.mem ≠ [] → c.buf.length = (c.arg 2).toNat →
        (c.mem.length ≤ c.done → ∃ u, Ends (.mcast 68 k) s u ∧ Result u 0 (c.mem.length * c.buf.length))
        ∧ (∀ m, c.mem[c.done]? = some m →
            let Sends := fun (wr : Nat) (P : FabReq → Prop) => ∃ u r y, Ends (.mcast 68 k) s u ∧ r ∈ u.hub.reqs ∧ r.module = m ∧ r.sysScope = true ∧ r.reply = none ∧ P r
              ∧ (u.cmds 68)[k]? = some y ∧ y.req = some r.id ∧ y.wr = wr ∧ y.done = c.done
            (c.req = none → Sends 0 (fun r => r.kind = .store ∧ r.elems = runElems (c.arg 3) c.buf 0 c.buf.length))
            ∧ (∀ i r v, c.req = some i → s.request i = some r → r.reply = some (.done v) →
                (c.wr = 0 → Sends 1 (fun r => r.kind = .amo 0 ∧ r.elems = [{ idx := 0, va := c.arg 6, n := 8, data := 1, cmp := 0 }]))
                ∧ (c.wr ≠ 0 → c.done + 1 = c.mem.length → ∃ u, Ends (.mcast 68 k) s u ∧ Result u 0 (c.mem.length * c.buf.length)))
            ∧ (∀ i r j cz kind reason vs, c.req = some i → s.request i = some r → r.reply = some (.refused j cz kind reason vs) → c.wr = 0 →
                Ends (.mcast 68 k) s (((s.setCmd 68 c).dropRequest i).setCmd 68 (c.fault (c.done * c.buf.length + j) (c.arg 3 + BitVec.ofNat 64 j) (fabricInfo kind reason)))))))
  ∧ (∀ (s : State) (a : ReductionLine),
    a.src ≠ s.modnum →
    let refused := s.answer a.src a.id (.refused 0 .remoteFault 1 0 [])
    let slot := Tab.find a.slot s.hub.slots
    (slot = none → Ends (.reductionLineArrival a) s refused)
    ∧ (∀ r, slot = some r →
        let put := fun (y : RedSlot) => s.setHub { s.hub with slots := Tab.put a.slot y s.hub.slots }
        let y : RedSlot := { r with
          bitmap := r.bitmap ++ [(a.member, a.line)], st := .collecting
          buffer := if r.op = 5 then Tab.put (a.member * 2 ^ 14 + a.line) a.data r.buffer else r.buffer
          lines := if r.op = 5 then r.lines else Tab.put a.line (reduceLine r.op (Tab.get (identityLine r.op) a.line r.lines) a.data) r.lines }
        let old := a.gen = (r.c + 255) % 256
        let now := a.gen = r.c % 256
        let inside := a.member < r.m ∧ 64 * a.line < r.len
        (¬ inside ∨ (¬ old ∧ ¬ now) → Ends (.reductionLineArrival a) s refused)
        ∧ (inside → (old ∨ (now ∧ (a.member, a.line) ∈ r.bitmap)) → Ends (.reductionLineArrival a) s ((put { r with dup := r.dup + 1 }).answer a.src a.id (.done [])))
        ∧ (inside → ¬ old → now → (a.member, a.line) ∉ r.bitmap → Ends (.reductionLineArrival a) s
            ((if r.bitmap.length + 1 = r.m * (r.len / 64) then (put y).completeRound a.slot y else put y).answer a.src a.id (.done []))))
    ∧ (∀ (req : Nat) (lines : List MemberLine) (r : FabReq) (e : FabricElem) (op : Nat) (members : List Nat) (base : Word), s.request req = some r →
        r.kind = .pull op members base → r.elems = [e] → r.module = s.modnum → r.reply = none → r.expired = false → r.lost = false → members = lines.map (fun l => l.module) →
        let give := fun (own : List Byte) =>
          let line := match lines.map (fun l => if l.module = s.modnum then own else l.data) with | [] => [] | l :: ls => ls.foldl (reduceLine op) l
          FabricReply.done [(e.idx, wordOf ((line.drop (e.va.toNat % 64)).take e.n))]
        let mine := s.hub.reqs.find? (fun q => q.uid = req && q.vi = 64)
        (s.modnum ∉ members → Ends (.pullLoad req lines) s (s.endRequest req (give [])))
        ∧ (s.modnum ∈ members → mine = none → ∃ u q, Ends (.pullLoad req lines) s u ∧ u.threads = s.threads ∧ u.hbm = s.hbm ∧ q ∈ u.hub.reqs ∧ q.uid = req ∧ q.kind = .load ∧ q.module = s.modnum
            ∧ q.tag = r.tag ∧ q.elems = (List.range 8).map (fun i => { idx := i, va := base + BitVec.ofNat 64 (bits e.va 39 6 * 64 + 8 * i), n := 8, data := 0, cmp := 0 }))
        ∧ (∀ q vals, s.modnum ∈ members → mine = some q → q.reply = some (.done vals) →
            Ends (.pullLoad req lines) s ((s.dropRequest q.id).endRequest req (give ((List.range 8).map (fun i => bytesOf ((Tab.find i vals).getD 0) 8)).flatten)))))

/-- A request from another module under no bound tag is refused with FAB_PERM (its KIND and REASON are log 100); a load of one element that passes its checks here and reads nothing struck is answered with the home bytes, and a store of one writes them and is acknowledged. A held request of another module, with no fault that has yet to be recorded, gets a notice each 250 µs, which restarts the timer at its requester. A reply of another module reaches the request that waits for it; a timer that has run out expires it. A buffered local store performs at its home once older ones to its bytes have; a mirror applies the oldest update of a cell. Links replay, retrain after eight replays, and are removed or return; what a failed node held is lost. At the requester, with nothing of the thread issued or buffered to the place, an LD or AMO of a page whose home is another module (its checks passed) sends one request to it with the interface's tag, the target address, size, operands and comparand, changes no register and waits; a ST puts its bytes for that place into its die's egress buffer and goes on, and the entry, once first, sends a store request and stays. The answer completes the waiting instruction with its value, extended; a refusal traps with FAB_PERM or FAB_REMOTE_FAULT, KIND and REASON as reported; an expired timer with FAB_TIMEOUT or for an AMO FAB_ATOMIC_LOST; before any of these it waits on. -/
def Obligations.FabricRequests : Prop :=
  (∀ (s s1 : State) (a : FabricArrival) (e : FabricElem) (v n die cell port : Nat) (l : Loc) (key : BitVec 256),
    a.src ≠ s.modnum →
    (s.boundTo a.tag = none → a.elems = [e] → (a.kind = .load ∨ a.kind = .store) →
      Ends (.fabricTargetRequest a) s (s.answer a.src a.id (.refused e.idx .perm (if a.kind = .load then 0 else 1) 4 [])))
    ∧ (s.boundTo a.tag = some v → a.elems = [e] → e.n ≠ 0 →
        (a.kind = .load → s.check (targetAgent v a.id) 0 .read false false spaceGlobal e.va e.n = .ok (.here l key, s1) → s1.poison = [] →
          Ends (.fabricTargetRequest a) s (s1.answer a.src a.id (.done [(e.idx, BitVec.ofNat 64 (leNat (s1.loadBytes 4 key l e.n)))])))
        ∧ (a.kind = .store → e.cmp = 0 → s.check (targetAgent v a.id) 0 .write false false spaceGlobal e.va e.n = .ok (.here l key, s1) →
          Ends (.fabricTargetRequest a) s ((s1.perform key l (leBytes e.n e.data.toNat) none).answer a.src a.id (.done [(e.idx, 0)]))))
    ∧ (∀ p, s.hub.held[n]? = some p → (p.fault = none ∨ p.entry ≠ none) → p.arrival.src ≠ s.modnum → p.noticed + 250 ≤ (s.die 4).ageclk →
        ∃ u, Ends (.keepWaitingNotice n) s u ∧ u.hub.notices = s.hub.notices ++ [(p.arrival.src, p.arrival.id)] ∧ u.threads = s.threads ∧ u.hbm = s.hbm
          ∧ (u.hub.held[n]?).map (fun x => x.noticed) = some (s.die 4).ageclk)
    ∧ (s.hub.records = [] → (∀ r, s.request n = some r → r.module ≠ s.modnum) → ∃ u, Ends (.noticeReceived n) s u ∧ u.threads = s.threads ∧ u.hub.reqs = s.hub.reqs.map (fun r =>
        if r.id = n ∧ r.reply = none ∧ r.expired = false then { r with deadline := (s.die (r.tid / 64)).ageclk + r.tmo } else r))
    ∧ (∀ r rep, s.request n = some r → r.reply = none → r.expired = false → r.lost = false → s.hub.waiting = [] → s.hub.records = [] → s.hub.slots = [] → r.module ≠ s.modnum →
        (∀ a ∈ s.hub.outbox, a.src = s.modnum → a.id ≠ n) → (∀ p ∈ s.hub.pulls, p.1 ≠ n) → (∀ q ∈ s.hub.reqs, q.uid ≠ n) → (∀ h ∈ s.hub.hostHeld, h.req ≠ some n) →
        (∀ d, d < 5 → ∀ x ∈ (s.die d).egress, x.req ≠ some n) → s.owned r = true →
        (∃ u, Ends (.fabricReply n rep) s u ∧ u.request n = some { r with reply := some rep } ∧ u.threads = s.threads ∧ u.hbm = s.hbm)
        ∧ (r.deadline ≤ (s.die (r.tid / 64)).ageclk → ∃ u, Ends (.fabricTimeout n) s u ∧ u.request n = some { r with expired := true } ∧ u.threads = s.threads ∧ u.hbm = s.hbm))
    ∧ (∀ x, (s.die die).egress[n]? = some x → State.egressFirst (s.die die).egress n = true → x.req = none → s.powered die = true → x.loc.home ≠ 5 →
        Ends (.egressStorePerform die n) s
          ((s.setDie die { s.die die with egress := (s.die die).egress.filter (fun y => y.id ≠ x.id) }).perform x.key x.loc x.data x.who))
    ∧ (∀ w, (s.die die).updates.find? (fun x => x.1 = cell) = some (cell, w) → ∃ u, Ends (.syncMirrorUpdate die cell) s u ∧ Tab.get 0 cell (u.die die).mirrors = w
        ∧ (∀ j, j ≠ cell → Tab.get 0 j (u.die die).mirrors = Tab.get 0 j (s.die die).mirrors) ∧ u.cells = s.cells ∧ (u.die die).updates = (s.die die).updates.erase (cell, w))
    ∧ (let k := s.fabricLink port
       let To := fun (i : Instr) (k' : LinkSt) => Ends i s (s.setHub { s.hub with links := Tab.put port k' s.hub.links })
       port < 16 →
       (k.retraining = false → k.removed = false → To (.linkCrcError port false) { k with replays := 1 }
         ∧ (0 < k.replays → k.replays < 8 → To (.linkCrcError port true) { k with replays := k.replays + 1 })
         ∧ (k.replays = 8 → To (.linkCrcError port true) { k with replays := 0, retraining := true }))
       ∧ (k.retraining = true → To (.linkRetrainFail port) { k with retraining := false, removed := true } ∧ To (.linkRetrainDone port) { k with retraining := false, replays := 0 }))
    ∧ (s.hub.records = [] → ∀ lost : List Nat, ∃ u, Ends (.fabricNodeFailure lost) s u ∧ u.threads = s.threads
        ∧ u.hub.reqs = s.hub.reqs.map (fun r => if r.id ∈ lost then { r with lost := true } else r) ∧ u.hub.waiting = s.hub.waiting.filter (fun w => w.id ∉ lost)))
  ∧ (∀ (s s1 s2 : State) (g d a b : Reg) (c sc : BitVec 3) (p od : BitVec 2) (o : BitVec 11) (lo w : BitVec 1) (m va : Nat) (k : Nat) (x : Instr),
    (k, x) ∈ [(0, Instr.amoAdd d a b lo od sc w), (1, .amoAnd d a b lo od sc w), (2, .amoOr d a b lo od sc w), (3, .amoXor d a b lo od sc w), (4, .amoSwp d a b lo od sc w),
      (5, .amoCas d a b lo od sc w), (6, .amoMin d a b lo od sc w), (7, .amoMax d a b lo od sc w), (8, .amoMinn d a b lo od sc w), (9, .amoMaxn d a b lo od sc w)] →
    let tid := s.cur
    let t := s.thread tid
    let n := sizeBytes c
    let wn := if w = 1 then 8 else 4
    let ea := s.reg tid a + o.signExtend 64
    let z := (s.orderScalar tid).forgetEarly tid
    let Away := fun (k : Kind) (cells : Bool) (sp : BitVec 2) (ea : Word) (n : Nat) =>
      z.check (z.agentOf tid false) (z.regionOf (z.thread tid)) k true cells sp ea n = .ok (.away m va, s1)
    let Clear := fun (u : State) (n : Nat) => (u.thread tid).pend = [] ∧ u.egressHolds (tid / 64) (.remote m (u.vi (z.agentOf tid false).vi).tag va) n = false
    let Sends := fun (i : Instr) (z : State) (P : FabReq → Prop) => ∃ u q, Ends i s u ∧ u.hub.reqs = z.hub.reqs ++ [q] ∧ q.module = m ∧ q.tag = (z.vi (z.thread tid).vi).tag
      ∧ q.uid = (z.thread tid).uid ∧ q.reply = none ∧ q.expired = false ∧ P q ∧ (u.thread tid).wait = .request q.id ∧ (u.thread tid).pc = (z.thread tid).pc
      ∧ (u.thread tid).regs = (z.thread tid).regs ∧ u.hbm = z.hbm
    (t.wait = .none →
      (Away .read (n = 8) p ea n → Clear s1 n → Sends (.ld g a c p o) s1 (fun q => q.kind = .load ∧ q.elems = [{ idx := 0, va := fullVa va, n := n, data := 0, cmp := 0 }]))
      ∧ (Away .atomic false (if lo = 1 then spaceLocal else spaceGlobal) (s.reg tid a) wn → (if orderReleases od then s1.releaseReady tid sc else .ok s1) = .ok s2 → Clear s2 wn →
          Sends x s2 (fun q => q.kind = .amo k ∧ q.sysScope = decide (sc = 4) ∧ q.elems = [{ idx := 0, va := fullVa va, n := wn, data := s.reg tid b, cmp := s.reg tid d }])))
    ∧ (tid < 256 → s.defer = false → s1.defer = false → Away .write (n = 8) p ea n → (s1.thread tid).pend = [] →
        ∃ u e, Ends (.st g a c p o) s u ∧ (u.die (tid / 64)).egress = (s1.die (tid / 64)).egress ++ [e] ∧ e.loc = .remote m (s1.vi (z.agentOf tid false).vi).tag va
          ∧ e.data = bytesOf (s.reg tid g) n ∧ e.req = none ∧ (u.thread tid).pc = (s1.thread tid).pc + 4 ∧ u.hbm = s1.hbm ∧ u.hub = s1.hub)
    ∧ (∀ (die n : Nat) (e : EgressEntry) (va : Nat) (tag : BitVec 16), (s.die die).egress[n]? = some e → e.loc = .remote m tag va → s.powered die = true →
        State.egressFirst (s.die die).egress n = true → e.req = none →
        ∃ u q, Ends (.egressStorePerform die n) s u ∧ u.hub.reqs = s.hub.reqs ++ [q] ∧ q.kind = .store ∧ q.module = m ∧ q.elems = storeElems va e.data
          ∧ (u.die die).egress = (s.die die).egress.map (fun y => if y.id = e.id then { y with req := some q.id } else y))
    ∧ (∀ i r, t.wait = .request i → s.request i = some r →
        let free := (s.dropRequest i).setThread tid { t with wait := .none }
        (∀ vals, r.reply = some (.done vals) →
          let v := (Tab.find 0 vals).getD 0
          Ends (.ld g a c p o) s ((free.setReg tid g (extendLoad c v)).retire tid) ∧ Ends x s ((free.setReg tid d (extendAmo k wn v)).retire tid))
        ∧ (∀ j cz kind reason vs, r.reply = some (.refused j cz kind reason vs) →
            let cause := match cz with | .perm => causeFabPerm | .remoteFault => causeFabRemoteFault
            Ends (.ld g a c p o) s (free.takeTrap tid cause ea (some (fabricInfo kind reason)) false)
            ∧ Ends x s (free.takeTrap tid cause (s.reg tid a) (some (fabricInfo kind reason)) false))
        ∧ (r.reply = none → r.expired = true →
            Ends (.ld g a c p o) s (free.takeTrap tid causeFabTimeout ea (some (fabricInfo Kind.read.code 0)) false)
            ∧ Ends x s (free.takeTrap tid causeFabAtomicLost (s.reg tid a) (some (fabricInfo Kind.atomic.code 0)) false))
        ∧ (r.reply = none → r.expired = false → Ends (.ld g a c p o) s s ∧ Ends x s s)))

/-- A system-scope fetch-and-add at its egress port (which of the 16 is a free choice, log 88) combines with a tabled waiting one of the port to its 8-byte-aligned word, width, module and tag while fewer than 8192 records stand: one request waits with the sum, and a record keeps the first addend; else it waits itself, tabled while it is aligned and the port's 512 entries have room. One that leaves goes out, or to this module itself arrives at once (log 97). A reply for the combined request gives the first member the value and the second the value plus the first addend. A record is dropped when struck, or after 2,000,000 µs, and every request under it is lost. MIGRATE with good arguments of a local small page in HBM starts a handover in DRAINING, a bad one ends with STATUS 2 (to this module, or of another kind of page, by the model's reading, log 78), another command code with 1; DRAINING turns to COPYING when nothing is on its way to the page, COPYING to FORWARDING with the page sent (as stores, log 78), FORWARDING, once no held host access touches the page, to RETIRED with the leaf naming the new home, and the retired frame is freed. -/
def Obligations.CombiningAndHandover : Prop :=
  ∀ (s : State) (n vi : Nat) (r : FabReq) (e : FabricElem),
    (s.request n = some r → r.kind = .amo 0 → r.elems = [e] → r.sysScope = true → r.reply = none → r.lost = false → r.left = false → r.looped = false → (∀ w ∈ s.hub.waiting, w.id ≠ n) →
      (∀ d ∈ s.hub.records, d.first ≠ n ∧ d.second ≠ n) →
      let port := Config.fabricPort s.modnum r.module (e.va.toNat / 64) % 16
      let same := fun (w : Waiting) => w.tabled && w.port = port && w.module = r.module && w.tag = r.tag && w.va = e.va && w.width = e.n && e.va.toNat % 8 = 0
      let alone := fun (t : Bool) => s.setHub { s.hub with waiting := s.hub.waiting ++ [{ id := n, port := port, module := r.module, tag := r.tag, va := e.va, width := e.n, addend := e.data, tabled := t }] }
      (s.hub.waiting.find? same = none → Ends (.combineArrival n) s (alone (decide (e.va.toNat % 8 = 0) && decide ((s.hub.waiting.filter (fun w => w.tabled && w.port = port)).length < 512))))
      ∧ (∀ w, s.hub.waiting.find? same = some w →
          (8192 ≤ s.hub.records.length → Ends (.combineArrival n) s (alone false))
          ∧ (s.hub.records.length < 8192 → ∃ u d, Ends (.combineArrival n) s u ∧ u.hub.records = s.hub.records ++ [d] ∧ d.first = w.id ∧ d.second = n ∧ d.addend = w.addend
              ∧ d.width = e.n ∧ d.since = (s.die 4).ageclk ∧ u.hub.waiting = s.hub.waiting.map (fun x => if x = w then
                { w with id := d.combined, addend := BitVec.ofNat 64 ((w.addend.toNat + e.data.toNat) % 2 ^ (8 * e.n)) } else x) ∧ u.hub.reqs = s.hub.reqs ∧ u.threads = s.threads)))
    ∧ (∀ w, s.hub.waiting[n]? = some w →
        let u := s.setHub { s.hub with waiting := s.hub.waiting.eraseIdx n }
        let a : FabricArrival := { src := s.modnum, id := w.id, tag := w.tag, kind := .amo 0, elems := [{ idx := 0, va := w.va, n := w.width, data := w.addend, cmp := 0 }] }
        (w.module ≠ s.modnum → Ends (.egressQueueDeparture n) s (u.markReqs (s.leavesOf w.id) (fun q => { q with left := true })))
        ∧ (w.module = s.modnum → Ends (.egressQueueDeparture n) s ((u.markReqs (s.leavesOf w.id) (fun q => { q with left := true, looped := true })).arrive a)))
    ∧ (∀ d v, s.hub.records[n]? = some d → (∀ w ∈ s.hub.waiting, w.id ≠ d.combined) → (∀ x ∈ s.hub.records, x.first ≠ d.combined ∧ x.second ≠ d.combined) →
        (∀ x ∈ s.hub.records, x.combined = d.combined → x = d) → (∀ x ∈ s.hub.records, x.id ≠ d.id → x.combined ≠ d.first ∧ x.combined ≠ d.second) →
        (∀ q ∈ s.hub.reqs, q.module ≠ s.modnum) → (∀ a ∈ s.hub.outbox, a.src = s.modnum → a.id ≠ d.combined) →
        Ends (.decombineReply n (.done [(0, v)])) s
          (((s.setHub { s.hub with records := s.hub.records.filter (fun x => x.id ≠ d.id) }).endRequest d.first (.done [(0, v)])).endRequest d.second
            (.done [(0, BitVec.ofNat 64 ((v.toNat + d.addend.toNat) % 2 ^ (8 * d.width)))])))
    ∧ (∀ d cause, s.hub.records[n]? = some d → (cause = .uncorrectable ∨ d.since + 2000000 ≤ (s.die 4).ageclk) →
        let u := s.markReqs (s.leavesOf d.combined) (fun q => { q with lost := true })
        Ends (.decombineRecordDrop n cause) s (u.setHub { u.hub with records := s.hub.records.eraseIdx n, dropped := s.hub.dropped + 1 }))
    ∧ (∀ m, mailboxAt s vi = some m →
        let w := fun (off : Nat) => mailboxWord s m off
        let code := bits (w 0) 7 0
        let target := bits (w 0x18) 9 0
        let bad := w 0x20 ≠ 0 ∨ w 0x28 ≠ 0 ∨ w 0x30 ≠ 0 ∨ w 0x38 ≠ 0 ∨ (w 0x10).toNat % 2 ^ 16 ≠ 0 ∨ canonical (w 0x10) = false ∨ s.nmod ≤ target ∨ target = s.modnum
        (code ≠ 0 → code ≠ 1 → Ends (.firmwareMailboxRequest vi) s (mailboxEnd s vi 1))
        ∧ (code = 1 → (∀ h ∈ s.hub.handovers, h.vi = vi → h.st = .retired) →
            (bad → Ends (.migrate vi) s (mailboxEnd s vi 2))
            ∧ (∀ t l, ¬ bad → s.peekLeaf 4 vi 0 ((w 0x10).toNat % 2 ^ 56) = some (t, l) → l.level = 0 → pteFr l.word = false → pteTier l.word = 0 →
                Ends (.migrate vi) s (s.setHub { s.hub with handovers := s.hub.handovers ++ [{ vi := vi, va := t, frame := pteFrame l.word, target := target, at_ := l.at_, st := .draining }] }))
            ∧ (∀ t l, ¬ bad → s.peekLeaf 4 vi 0 ((w 0x10).toNat % 2 ^ 56) = some (t, l) → (l.level ≠ 0 ∨ pteFr l.word = true ∨ pteTier l.word ≠ 0) → Ends (.migrate vi) s (mailboxEnd s vi 2))))
    ∧ (∀ h, s.hub.handovers[n]? = some h →
        let move := fun (u : State) (st : HandoverState) => u.setHub { u.hub with handovers := u.hub.handovers.set n { h with st := st } }
        (h.st = .draining → (∀ i, i < 4 → s.rangeQuiet (.hbm (h.byteAt (2 ^ 14 * i))) (2 ^ 14) = true) → Ends (.handoverDrained n) s (move s .copying))
        ∧ (h.st = .copying → ∃ (u : State) (a : FabricArrival), Ends (.handoverCopied n) s (move u .forwarding).retryWaiting ∧ u.hub.outbox = s.hub.outbox ++ [a] ∧ a.kind = .store ∧ a.elems.length = 8192 ∧ u.hbm = s.hbm)
        ∧ (h.st = .forwarding → hostAwaits s h = false → ∃ u : State, Ends (.handoverShootdownDone n) s (mailboxEnd (move u .retired) h.vi 0).decideAll
            ∧ u.leafWord h.vi h.at_ = BitVec.ofNat 64 (bits (s.leafWord h.vi h.at_) 15 0 + h.target % 1024 * 2 ^ 46 + 2 ^ 56 + bits (s.leafWord h.vi h.at_) 63 60 * 2 ^ 60))
        ∧ (h.st = .retired → Ends (.handoverFreeFrame n) s (s.setHub { s.hub with handovers := s.hub.handovers.eraseIdx n })))

/-- A host access of one part within the window of an existing interface, behind no held write: turned away by the TDISP state, or not accepted by R43, it is counted in REFUSE (a read aborted); else a read is answered with the home bytes, a write writes exactly its bytes, and a compare-and-swap returns the old bytes and writes where they are the expected ones (addresses, order behind held writes and this operation are log 76). One held for a tier is refused after its deadline by the hub's counter (log 76), and the others are tried again. A read of BAR0 returns capability list, registers, MSI-X table and pending bits, zero elsewhere, and is refused in ERROR alone. START queues its word; HWBASE and MBXBASE take a value with no other bit set (ERROR when one changes while locked); whole register writes do the same, an MSI-X word takes its value, other register writes are discarded, each counted instead when turned away. A raised vector sends its message, or is pending while masked (log 104). GET_MEASUREMENTS answers four blocks, the first the running image's (the others: log 8); KEY_EXCHANGE opens a session where none is open, else SessionLimitExceeded; in a session SETKEY loads slots 1 to 15 (waiting while one empties) and CLRKEY empties them, answered once no access uses the key, SETTENANT sets the tenant once, BINDTAG binds a free tag, IDE_KM delivers a key, TDISP messages lock and start; slot 0 is refused. STOP_INTERFACE, in a session or once begun, clears the tenant, stops region 0's domain, empties those slots and then unlocks; without a session no request acts. SETKEY while a slot empties, BINDTAG of a held tag, requests without a session and the end of STOP_INTERFACE are log 77. Firmware creates an absent interface as configured. -/
def Obligations.HostLink : Prop :=
  (∀ (s s1 : State) (vi off n : Nat) (data : List Byte) (ide : Bool) (l : Loc) (key : BitVec 256) (v old new : Word),
    let x := s.vi vi
    let lets := x.tdisp = .unlocked ∨ ((x.tdisp = .locked ∨ x.tdisp = .run) ∧ ide = true ∧ x.ideKey ≠ none)
    let counted := s.setVi vi { x with refuse := x.refuse + 1 }
    let at_ := fullVa ((x.hwbase.toNat + off) % 2 ^ 56)
    let Set := fun (i : Instr) (y : Vi) => Ends i s (s.setVi vi y)
    let Read := Instr.hostWindowRead vi (.window off) n ide
    let Write := Instr.hostWindowWrite vi off (.window data) ide
    let Swap := Instr.hostWindowWrite vi off (.swap old new) ide
    let Reg := fun (o : Nat) => Instr.hostWindowWrite vi o (.register data) ide
    x.created = true →
    ((∀ h ∈ s.hub.hostHeld, ¬ (h.vi = vi ∧ h.data ≠ none)) → 1 ≤ n → off + n ≤ 2 ^ 36 → off % 4096 + n ≤ 4096 →
      (¬ lets → Ends Read s (counted.hostAnswer vi none) ∧ (data.length = n → Ends Write s counted))
      ∧ (lets → (s.hostAccepts vi off false = false → Ends Read s (counted.hostAnswer vi none))
        ∧ (s.hostAccepts vi off true = false → data.length = n → Ends Write s counted)
        ∧ (s.hostAccepts vi off false = true → s.translateGlobal (hostAgent vi off) .read false at_ = .ok (.here l key, s1) → s1.poison = [] →
            Ends Read s (s1.hostAnswer vi (some ((List.range n).map (fun i => s1.homeByte key (l.plus i))))))
        ∧ (s.hostAccepts vi off true = true → data.length = n → s.translateGlobal (hostAgent vi off) .write false at_ = .ok (.here l key, s1) →
            Ends Write s (s1.perform key l data none))
        ∧ (n = 8 → off % 8 = 0 → (s.hostAccepts vi off true = false ∨ s.hostAccepts vi off false = false) → Ends Swap s (counted.hostAnswer vi none))
        ∧ (n = 8 → off % 8 = 0 → s.hostAccepts vi off true = true → s.hostAccepts vi off false = true →
            s.translateGlobal (hostAgent vi off) .atomic false at_ = .ok (.here l key, s1) → s1.egressHolds 4 l 8 = false → s1.poison = [] → l.isByte = true →
            let found := wordOf ((List.range 8).map (fun i => s1.homeByte key (l.plus i)))
            Ends Swap s ((if found = old then s1.perform key l (bytesOf new 8) none else s1).hostAnswer vi (some (bytesOf found 8))))))
    ∧ (∀ h t, s.hub.hostHeld[n]? = some h → h.vi = vi → h.deadline = some t → t ≤ (s.die 4).ageclk →
        let u := counted.setHub { s.hub with hostHeld := s.hub.hostHeld.eraseIdx n }
        Ends (.hostAccessHoldTimeout n) s (if h.data = none ∨ h.cas ≠ none then u.hostAnswer vi none else u).retryHost)
    ∧ (1 ≤ n → n ≤ 8 → off + n ≤ 2 ^ 16 →
        let word := fun (o : Nat) => if o < 0x1000 then s.capWord vi (o / 8) else if o = 0x1000 then x.start.result else if o = 0x1008 then BitVec.ofNat 64 x.stopcnt
          else if o = 0x1010 then BitVec.ofNat 64 x.refuse else if o = 0x1018 then x.hwbase else if o = 0x1020 then x.mbxbase
          else if 0x2000 ≤ o ∧ o < 0x2080 then x.msixWord ((o - 0x2000) / 8) else if o = 0x3000 then BitVec.ofNat 64 ((x.pba.map (fun v => 2 ^ v)).foldl (· + ·) 0) else 0
        Ends (.hostWindowRead vi (.register off) n ide) s (if x.tdisp = .error then counted.hostAnswer vi none
          else s.hostAnswer vi (some ((List.range n).map (fun i => (bytesOf (word ((off + i) / 8 * 8)) 8).getD ((off + i) % 8) 0)))))
    ∧ (¬ lets → (∀ i ∈ [Instr.start vi v ide, .hwbase vi v ide, .mbxbase vi v ide], Ends i s counted)
        ∧ (1 ≤ data.length → data.length ≤ 8 → off + data.length ≤ 2 ^ 16 → Ends (Reg off) s counted))
    ∧ (lets → Set (.start vi v ide) { x with start := { result := State.startPending, waiting := x.start.waiting ++ [v] } }
        ∧ (let locked := x.tdisp = .locked ∨ x.tdisp = .run
           (bits v 63 56 = 0 → bits v 15 0 = 0 → Set (.hwbase vi v ide) { x with hwbase := v, tdisp := if v ≠ x.hwbase ∧ locked then .error else x.tdisp })
           ∧ (bits v 63 56 = 0 → bits v 11 0 = 0 → Set (.mbxbase vi v ide) { x with mbxbase := v, tdisp := if v ≠ x.mbxbase ∧ locked then .error else x.tdisp })
           ∧ (bits v 63 56 ≠ 0 ∨ bits v 15 0 ≠ 0 → Ends (.hwbase vi v ide) s s) ∧ (bits v 63 56 ≠ 0 ∨ bits v 11 0 ≠ 0 → Ends (.mbxbase vi v ide) s s))
        ∧ (data.length = 8 → exec (Reg 0x1000) s = exec (.start vi (wordOf data) ide) s ∧ exec (Reg 0x1018) s = exec (.hwbase vi (wordOf data) ide) s
            ∧ exec (Reg 0x1020) s = exec (.mbxbase vi (wordOf data) ide) s
            ∧ ∀ k, k < 16 → Set (Reg (0x2000 + 8 * k)) (x.putMsix k (wordOf data)) ∧ (x.putMsix k (wordOf data)).msixWord k = if k % 2 = 1 then BitVec.ofNat 64 (bits (wordOf data) 32 0) else wordOf data)
        ∧ (1 ≤ data.length → data.length ≤ 8 → off + data.length ≤ 2 ^ 16 → (off < 0x2000 ∨ 0x2080 ≤ off) → (data.length < 8 ∨ (off ≠ 0x1000 ∧ off ≠ 0x1018 ∧ off ≠ 0x1020)) → Ends (Reg off) s s))
    ∧ (∀ k, let y := x.raise k
        y.signalled = x.signalled ++ [k]
        ∧ (if x.masked k = true then k ∈ y.pba ∧ y.messages = x.messages
           else y.pba = x.pba ∧ y.messages = x.messages ++ [(x.msixWord (2 * k), BitVec.ofNat 64 (bits (x.msixWord (2 * k + 1)) 31 0))])))
  ∧ (∀ (s : State) (vi slot : Nat) (key : BitVec 256) (secret : List Byte) (id : Word) (tag : BitVec 16) (cfg : InterfaceConfig) (m : TdispMessage),
    let x := s.vi vi
    let Set := fun (i : Instr) (y : Vi) => Ends i s (s.setVi vi y)
    let Answers := fun (i : Instr) (y : Vi) (a : SpdmAnswer) => ∃ u, Ends i s u ∧ { u with platform := s.platform } = s.setVi vi y
      ∧ u.platform = { s.platform with answers := s.platform.answers ++ [(vi, a)] }
    let Refuses := fun (i : Instr) (a : SpdmAnswer) => Ends i s { s with platform := { s.platform with answers := s.platform.answers ++ [(vi, a)] } }
    let session := x.session ≠ none
    (x.created = true → ∃ u, Ends (.getMeasurements vi) s u ∧ { u with platform := s.platform } = s
        ∧ ∃ bs, u.platform.measured = s.platform.measured ++ [(vi, bs)] ∧ bs.length = 4 ∧ bs.head? = some s.platform.running.measurement)
    ∧ (x.created = true → (¬ session → Answers (.keyExchange vi secret) { x with session := some secret, tenantSet := false } .done)
        ∧ (session → Refuses (.keyExchange vi secret) .sessionLimitExceeded))
    ∧ (session → Set (.endSession vi) { x with session := none })
    ∧ (session → 1 ≤ slot → slot ≤ 15 →
        (x.emptying = [] → Answers (.setkey vi slot key) { x with keys := Tab.put slot key x.keys } .done)
        ∧ ((∃ k ∈ x.emptying, k.1 = slot ∧ keyInUse s vi k.2 = true) → Ends (.setkey vi slot key) s s)
        ∧ (let y : Vi := { x with keys := x.keys.filter (fun k => k.1 ≠ slot), emptying := (x.emptying ++ x.keys.filter (fun k => k.1 = slot)).filter (fun k => keyInUse s vi k.2) }
           ((∃ k ∈ y.emptying, k.1 = slot) → Set (.clrkey vi slot) y) ∧ ((∀ k ∈ y.emptying, k.1 ≠ slot) → Answers (.clrkey vi slot) y .done)))
    ∧ (session → slot = 0 ∨ 15 < slot → Refuses (.setkey vi slot key) .refused ∧ Refuses (.clrkey vi slot) .refused)
    ∧ (session → (x.tenantSet = false → Answers (.settenant vi id) { x with tenant := id, tenantSet := true } .done) ∧ (x.tenantSet = true → Refuses (.settenant vi id) .refused))
    ∧ (session → ((∀ v ∈ s.vis, tag ∉ v.2.bound) → tag ∉ x.bound → Answers (.bindtag vi tag) { x with bound := x.bound ++ [tag] } .done)
        ∧ (tag ∈ x.bound → Refuses (.bindtag vi tag) .done) ∧ (tag ∉ x.bound → (∃ v ∈ s.vis, tag ∈ v.2.bound) → Refuses (.bindtag vi tag) .refused))
    ∧ (session → Set (.ideKm vi key) { x with ideKey := some key })
    ∧ (session → (x.tdisp = .unlocked → Set (.tdispMessage vi .lockInterface) { x with tdisp := .locked }) ∧ (x.tdisp = .locked → Set (.tdispMessage vi .startInterface) { x with tdisp := .run }))
    ∧ (¬ session → (∀ i ∈ [Instr.setkey vi slot key, .clrkey vi slot, .settenant vi id, .bindtag vi tag, .ideKm vi key, .tdispMessage vi m, .endSession vi], Ends i s s)
        ∧ (x.stopping = false → Ends (.stopInterface vi) s s))
    ∧ (x.created = true → (session ∨ x.stopping = true) →
        let u := if x.stopping then s else (s.setVi vi { x with tenant := 0, stopping := true }).writeDomstop vi 0
        let w := emptySlots u vi (fun k => k ≠ 0)
        let y := w.vi vi
        y.keys = x.keys.filter (fun k => k.1 = 0) ∧ (x.stopping = false → y.tenant = 0) ∧ (∀ k ∈ y.emptying, (k ∈ x.emptying ∨ (k ∈ x.keys ∧ k.1 ≠ 0)) ∧ keyInUse s vi k.2 = true)
        ∧ Ends (.stopInterface vi) s (if y.emptying = [] then w.setVi vi { y with tdisp := .unlocked, stopping := false } else w))
    ∧ (vi < 64 → x.created = false → s.platform.bootHalted = false → ∃ y, Set (.createVirtualInterface vi cfg) y ∧ y.created = true ∧ y.keys = [(0, cfg.key0)] ∧ y.bound = x.bound
        ∧ y.tag = cfg.tag ∧ y.tdisp = .unlocked ∧ y.session = none ∧ y.astbase = cfg.astbase ∧ y.rgnbase = cfg.rgnbase ∧ y.hwbase = 0 ∧ y.refuse = 0 ∧ y.stopcnt = 0))

/-- A good image of no lower version, from the physical function or after a broken image over the management interface only, is written in place and stands in flash once written; a module reset, no image being written, starts it (or halts the boot on a broken one, with the running image), clears memory, tasks and interfaces but their tags (what else it keeps is log 10), and returns the fenced cores that pass; a power failure turns all off and breaks an image being written. Capping, throttling at 95 °C, the coolant's limits (log 79) and telemetry (log 8) change the platform alone; at 105 °C every fault domain is stopped with reason 6, and once no stop is due or under way the dies go off (log 79). A corrected error of a core is counted for an hour, one that cannot be corrected leaves its data poisoned, a queue row with its group (a structure struck), one of a fetch path empties its caches and counts as corrected; a struck core, or one with 64 corrected, is fenced (in these two cases alone, log 79), its gang's domain stopped with reason 4, or without one the core scrubbed. -/
def Obligations.PlatformEvents : Prop :=
  ∀ (s : State) (img : FirmwareImage) (w gate physical : Bool) (passed : List Nat) (die temp flow core : Nat) (x : Struck),
    let p := s.platform
    let Only := fun (i : Instr) (q : Platform) => Ends i s { s with platform := q }
    let good := physical ≠ p.bootHalted ∧ p.writing = none ∧ img.signatureGood = true ∧ p.running.secVersion ≤ img.secVersion
    (good → Only (.firmwareUpdate (.supply img physical)) { p with writing := some img })
    ∧ (¬ good → Ends (.firmwareUpdate (.supply img physical)) s s)
    ∧ (p.writing = some img → Only (.firmwareUpdate .written) { p with flash := img, writing := none }) ∧ (p.writing = none → Ends (.firmwareUpdate .written) s s)
    ∧ Only (.powerFail img) { p with power := false, diesOn := false, shutting := false, writing := none, flash := if p.writing = none then p.flash else { img with signatureGood := false } }
    ∧ Only (.powerCap gate) { p with gated := gate }
    ∧ Only (.dieThrottle die temp) { p with throttled := p.throttled.filter (· ≠ die) ++ (if 95 ≤ temp then [die] else []) }
    ∧ Only (.coolantLimit temp flow) { p with coolant := (temp, flow), gated := p.gated || decide (temp < 20 ∨ 45 < temp ∨ flow < 15) }
    ∧ (∃ a, Only .pldmMonitoring { p with reports := p.reports ++ [a, p.fencedMap.length] })
    ∧ (p.writing ≠ none → Ends (.moduleReset passed) s s)
    ∧ (p.writing = none → ∃ u, exec (.moduleReset passed) s = .next u ∧ u.hbm = [] ∧ u.threads = [] ∧ u.gangs = [] ∧ u.hub = Hub.initial ∧ u.modnum = s.modnum ∧ u.nmod = s.nmod
        ∧ u.platform.flash = p.flash ∧ u.platform.power = true ∧ u.platform.bootHalted = !p.flash.signatureGood
        ∧ u.platform.running = (if p.flash.signatureGood then p.flash else p.running) ∧ u.platform.fencedMap = p.fencedMap.filter (fun c => c ∉ passed)
        ∧ (∀ c, (u.core c).fenced = true ↔ c ∈ p.fencedMap ∧ c ∉ passed) ∧ (∀ v, (u.vi v).created = false))
    ∧ (temp < 105 → Ends (.dieShutdown temp) s s)
    ∧ (105 ≤ temp → ∃ u : State, Ends (.dieShutdown temp) s (u.runStops (u.hub.stops.length + 2 * u.gangs.length + 2)) ∧ u.platform = { p with shutting := true } ∧ u.threads = s.threads
        ∧ u.hub.stops = s.hub.stops ++ ((s.vis.filter (fun v => v.2.created)).map (fun v => (domainsOf s v.1).map (fun r => (v.1, r, 6)))).flatten)
    ∧ (p.shutting = true → s.hub.stops = [] → s.hub.halting = [] → s.powerOff = { s with platform := { p with diesOn := false, shutting := false } })
    ∧ (∀ c, Ends (.eccError { struck := .fetchPath c, correctable := w }) s ((s.setCore c { s.core c with icache := [], bcache := [], tlb := [] }).countCorrected c))
    ∧ (∀ c, x ≠ .fetchPath c → struckCore x = some c →
        (let now := (s.die (c / 16)).ageclk
         Ends (.eccError { struck := x, correctable := true }) s
           (s.setCore c { s.core c with corrected := now :: (s.core c).corrected.filter (fun t => decide (now < t + 3600000000)) }))
        ∧ ∃ u, Ends (.eccError { struck := x, correctable := false }) s u ∧ (∀ y ∈ s.poison, y ∈ u.poison) ∧ u.hbm = s.hbm ∧ u.threads = s.threads
          ∧ ((∀ t q k, x ≠ .queueRow t q k) → x ∈ u.poison)
          ∧ (∀ t q k g, x = .queueRow t q k → (s.queueOfThread t q)[k]? = some g → (u.queueOfThread t q)[k]? = some { g with struck := true })
          ∧ (structureError x = true → (u.core c).struck = true))
    ∧ (∀ a, ∃ u, Ends (.eccError { struck := .hbmLine a, correctable := false }) s u ∧ .hbmLine a ∈ u.poison ∧ u.hbm = s.hbm)
    ∧ (let k := s.core core
       core < 64 → k.fenced = false → (k.struck = true ∨ 64 ≤ k.corrected.length) →
        let u : State := { s.setCore core { k with fenced := true } with platform := { p with fencedMap := p.fencedMap ++ [core] } }
        Ends (.coreFence core) s (match s.gangOn core with
          | some (_, g) => (u.stopDomain g.vi g.region 4).decideAll
          | none => (u.scrub core).decideAll))

/-- Each scalar word that chapter 10 sets beside a written form decodes to that form's instruction with the operands its line gives, and so does each vector word, the VADD line with its trailing literal; as bytes, both are little-endian, lowest byte first. -/
def Obligations.DecodeWords : Prop :=
  (∀ p ∈ ([(0x04642800, .add 3 4 5), (0x0840FFF8, .addi 2 0 0xFFF8), (0x2C821234, .limc 4 2 0x1234), (0x34C78010, .ld 6 7 4 0 16),
      (0x39490000, .st 10 9 0 0 0), (0x3489D800, .ld 4 9 6 3 0), (0x4060FFFD, .bne 3 0 0xFFFD), (0x54000010, .jmp 16),
      (0x60A63817, .amoAdd 5 6 7 0 1 3 1), (0x60A63C12, .amoAdd 5 6 7 1 1 1 0), (0x65200032, .csrr 9 0x032), (0x70000000, .fenceSv),
      (0x70003026, .fenceScoped 2 3), (0x74008300, .tlbinvVi 1)] : List (Nat × Instr)),
    decodeTableWord 32 p.1 = some p.2 ∧ p.2.wf = true)
  ∧ (let f : VFields := { vd := 0, sa := 0, sb := 0, sc := 0, ty := 0, mask := 0, tail := 0, nb := 0, rs := 0, l := 0, ext := 0, lit := 0 }
    ∀ p ∈ ([(0x1324128800000000, 0, .vfma { f with vd := 4, sa := 32, sb := 37, sc := 4 }),
      (0x1028D6001B200000, 0x3FC00000, .vadd { f with vd := 5, sa := 6, sb := 44, mask := 1, tail := 1, nb := 1, rs := 4, l := 1, lit := 0x3FC00000 }),
      (0x8044800000812C10, 0, .vld { f with vd := 8, sa := 36, rs := 2, ext := 0x012C10 }),
      (0x8004800000002000, 0, .vld { f with sa := 36, ext := 0x002000 }), (0x0100000000000000, 0, .vstop f)] : List (Nat × Nat × Instr)),
    decodeTableWord 128 (p.1 + p.2.1 * 2 ^ 64) = some p.2.2 ∧ p.2.2.wf = true)
  ∧ decodeScalarBytes [0xF8, 0xFF, 0x40, 0x08] = .ok (.addi 2 0 0xFFF8)

/-- For every instruction whose operands are legal: a vector instruction's bytes (its 64-bit word, and its literal word when L = 1) followed by any bytes decode to that instruction with every field as it was; every scalar instruction has four bytes, which followed by any bytes decode to it; the engine commands, which a thread enters as header and argument words, and the events, and only these, have no bytes (Instr.wordless lists them). The decoder and the encoder are both written from the tables of chapter 10. -/
def Obligations.EncodeDecode : Prop :=
  ∀ (i : Instr) (rest : List Byte), i.wf = true →
    (i.vectorParts ≠ none → 8 ≤ (encode i).length ∧ decodeVectorBytes (encode i ++ rest) = .ok i)
    ∧ (i.vectorParts = none → if i.wordless then encode i = [] else (encode i).length = 4 ∧ decodeScalarBytes (encode i ++ rest) = .ok i)
    ∧ (i.wordless = true → i.vectorParts = none)

/-- If four bytes decode to a scalar instruction, that instruction's encoding is those four bytes; if eight bytes (with the eight of the literal behind them, when L = 1) decode to a vector instruction, its encoding is those bytes. So no bit of a word is ignored: two words of one meaning do not exist, and a word whose reserved bits are set either names other operands, which well-formedness judges, or decodes to nothing. -/
def Obligations.WordsHaveOneMeaning : Prop :=
  ∀ (i : Instr) (bs : List Byte),
    (bs.length = 4 → decodeScalarBytes bs = .ok i → encode i = bs)
    ∧ (∀ lit : List Byte, bs.length = 8 → lit.length = 8 → decodeVectorBytes (bs ++ lit) = .ok i →
        encode i = bs ++ (if has (leNat bs) 21 1 1 then lit else []))

/-- While the module has power, the step of a control thread that is live, waits for nothing, has no pending held cause and is not being taken off its core, and whose fetch at its pc passes its checks and meets no poison, is exec of the instruction that the four bytes in memory decode to, on the state that the fetch left (leaf marked, fetch cache filled, the word noted, the thread's actor moved to the end of the agenda); a word that is no legal instruction raises ILLEGAL with the word. The flag stale, which lets a step use an older cached word (log 2), is off in this clause. The step of a vector thread in a block, whose queue work has no fault outstanding, is exec of the instruction that the block's next word, with the literal word behind it when L = 1, decodes to, that word and literal noted with the work; and the step of an event is exec of the event, which is then gone from the agenda. -/
def Obligations.StepRunsDecoded : Prop :=
  (∀ (s s1 : State) (tid : Nat) (defer : Bool) (rest : List Actor) (a : Nat) (key : BitVec 256),
    s.platform.power = true → s.agenda = Actor.control tid defer false :: rest →
    let s0 := { s with agenda := rest ++ [Actor.control tid defer false], cur := tid, defer := defer, stale := false, share := .whole }
    let t := s.thread tid
    let ag : Agent := { s0.agentOf tid false with waiter := waiterFetch t.uid }
    t.live = true → t.wait = .none → t.nextHeld = none → s0.heldBack tid = false →
    s0.check ag (s0.regionOf t) .fetch true false spaceGlobal t.pc 4 = .ok (.here (.hbm a) key, s1) →
    s1.stale = false → s1.readsPoison ag.die (.hbm a) 4 = false →
    let w := leNat (s1.loadBytes ag.die key (.hbm a) 4)
    let s2 := (s1.fetchBytes tid false key a).2
    let s3 := s2.setThread tid { s2.thread tid with insn := w }
    (∀ i, decodeScalarBytes (leBytes 4 w) = .ok i → i.wf = true → step s = exec i s3)
    ∧ ((∀ i, decodeScalarBytes (leBytes 4 w) = .ok i → i.wf = false) → step s = exec (.illegalInstruction false (BitVec.ofNat 64 w)) s3))
  ∧ (∀ (s s1 : State) (tid : Nat) (defer stale : Bool) (share : Share) (rest : List Actor) (r : BlockRun) (w : Nat) (i : Instr),
    s.platform.power = true →
    (s.agenda = Actor.vector tid defer stale share :: rest →
      let s0 := { s with agenda := rest ++ [Actor.vector tid defer stale share], cur := tid, defer := defer, stale := stale, share := share }
      let v := s.vthread tid
      let note := fun (u : State) (lit : Nat) => u.setVthread tid { u.vthread tid with work := { (u.vthread tid).work with insn := some (w, lit) } }
      (s.thread tid).live = true → s.hasVector tid = true → v.work.faulted = false → v.work.run = some r → v.work.insn = none → r.word < 255 →
      s0.fetch tid .blockFetch (r.addr + BitVec.ofNat 64 (8 * r.word)) 2 = .word w s1 →
      i.wf = true →
      (has w 21 1 1 = false → decodeVectorBytes (leBytes 8 w) = .ok i → step s = exec i (note s1 0))
      ∧ (∀ lit s2, has w 21 1 1 = true → s1.fetch tid .blockFetch (r.addr + BitVec.ofNat 64 (8 * (r.word + 1))) 2 = .word lit s2 →
          decodeVectorBytes (leBytes 8 w ++ leBytes 8 lit) = .ok i → step s = exec i (note s2 lit)))
    ∧ (s.agenda = Actor.event i share :: rest → step s = exec i { s with agenda := rest, defer := false, stale := false, share := share }))

/-- In a quiet state (no fault-domain stop outstanding or under way, no loss of power due, no launch or start-register write undecided, no gang owing a completion word, over, about to be pre-empted or being saved, no park record) what follows from a step at once is nothing; so in such a state the next states that the other statements give with what follows are the next states themselves. -/
def Obligations.SettleQuiet : Prop :=
  ∀ s : State, Quiet s → s.settle = s ∧ ∀ i : Instr, Ends i s s → exec i s = .next s

/-- After reset the memories list nothing and are in their canonical form, no thread is live, the module has power, every core's split is 1 and the counters are zero; that memory, scratchpads and registers read zero at reset is the model's choice (log 1, log 10). -/
def Obligations.ResetHoldsInvariant : Prop :=
  MemoriesCanonical State.reset ∧ State.reset.hbm = [] ∧ (∀ tid, (State.reset.thread tid).live = false) ∧ State.reset.platform.power = true
  ∧ (∀ c, (State.reset.core c).split = 1 ∧ (State.reset.core c).cycle = 0) ∧ (∀ d, (State.reset.die d).ageclk = 0) ∧ Quiet State.reset

/-- If HBM, every scratchpad and every page outside HBM is in canonical form (addresses strictly rising, no byte listed that equals what an unlisted address reads as), then after any step they still are, whatever instruction, engine command, request or event it runs: so equal memories stay equal data, each address holds one byte, and a byte is read as it was last written. -/
def Obligations.StepKeepsInvariant : Prop :=
  ∀ s t : State, MemoriesCanonical s → step s = .next t → MemoriesCanonical t
end

