-- ==== Sys2Proof/Laws/State.lean ====
section
/-! SUPPORT. The small lemmas of the state: tables, and one lemma for each field and each accessor under each update. -/

namespace Sys2Proof.Machine

/-! ## Tables -/

@[simp] theorem Tab.get_nil {α : Type} (d : α) (k : Nat) : Tab.get d k [] = d := rfl

@[simp] theorem Tab.get_put {α : Type} (d v : α) (k : Nat) (t : Tab α) : Tab.get d k (Tab.put k v t) = v := by
  induction t with
  | nil => simp [Tab.put, Tab.get]
  | cons e t ih =>
    obtain ⟨k', v'⟩ := e
    simp only [Tab.put]
    split
    · simp [Tab.get]
    · split
      · simp [Tab.get]
      · simp only [Tab.get]
        split
        · contradiction
        · exact ih

theorem Tab.get_put_ne {α : Type} (d v : α) {j k : Nat} (t : Tab α) (h : j ≠ k) : Tab.get d j (Tab.put k v t) = Tab.get d j t := by
  induction t with
  | nil => simp [Tab.put, Tab.get, h]
  | cons e t ih =>
    obtain ⟨k', v'⟩ := e
    simp only [Tab.put]
    split
    · simp [Tab.get, h]
    · split
      · next hk => subst hk; simp [Tab.get, h]
      · simp only [Tab.get]
        split
        · rfl
        · exact ih

@[simp] theorem Tab.get_del {α : Type} (d : α) (k : Nat) (t : Tab α) : Tab.get d k (Tab.del k t) = d := by
  induction t with
  | nil => rfl
  | cons e t ih =>
    obtain ⟨k', v'⟩ := e
    simp only [Tab.del]
    split
    · exact ih
    · next h => simp only [Tab.get, h, if_false]; exact ih

theorem Tab.get_del_ne {α : Type} (d : α) {j k : Nat} (t : Tab α) (h : j ≠ k) : Tab.get d j (Tab.del k t) = Tab.get d j t := by
  induction t with
  | nil => rfl
  | cons e t ih =>
    obtain ⟨k', v'⟩ := e
    simp only [Tab.del]
    split
    · next hk => subst hk; simp [Tab.get, h, ih]
    · simp only [Tab.get]
      split
      · rfl
      · exact ih

@[simp] theorem Tab.get_write {α : Type} [DecidableEq α] (d v : α) (k : Nat) (t : Tab α) : Tab.get d k (Tab.write d k v t) = v := by
  unfold Tab.write
  split
  · next h => subst h; simp
  · simp

theorem Tab.get_write_ne {α : Type} [DecidableEq α] (d v : α) {j k : Nat} (t : Tab α) (h : j ≠ k) :
    Tab.get d j (Tab.write d k v t) = Tab.get d j t := by
  unfold Tab.write
  split
  · exact Tab.get_del_ne d t h
  · exact Tab.get_put_ne d v t h

@[simp] theorem Tab.find_nil {α : Type} (k : Nat) : Tab.find k ([] : Tab α) = none := rfl

@[simp] theorem Tab.find_put {α : Type} (v : α) (k : Nat) (t : Tab α) : Tab.find k (Tab.put k v t) = some v := by
  induction t with
  | nil => simp [Tab.put, Tab.find]
  | cons e t ih =>
    obtain ⟨k', v'⟩ := e
    simp only [Tab.put]
    split
    · simp [Tab.find]
    · split
      · simp [Tab.find]
      · simp only [Tab.find]
        split
        · contradiction
        · exact ih

theorem Tab.find_put_ne {α : Type} (v : α) {j k : Nat} (t : Tab α) (h : j ≠ k) : Tab.find j (Tab.put k v t) = Tab.find j t := by
  induction t with
  | nil => simp [Tab.put, Tab.find, h]
  | cons e t ih =>
    obtain ⟨k', v'⟩ := e
    simp only [Tab.put]
    split
    · simp [Tab.find, h]
    · split
      · next hk => subst hk; simp [Tab.find, h]
      · simp only [Tab.find]
        split
        · rfl
        · exact ih

/-! ## Each field and accessor under each update -/

@[simp] theorem State.setCore_modnum (s : State) (k : Nat) (x : CoreSt) : (s.setCore k x).modnum = s.modnum := rfl
@[simp] theorem State.setCore_nmod (s : State) (k : Nat) (x : CoreSt) : (s.setCore k x).nmod = s.nmod := rfl
@[simp] theorem State.setCore_switches (s : State) (k : Nat) (x : CoreSt) : (s.setCore k x).switches = s.switches := rfl
@[simp] theorem State.setCore_cur (s : State) (k : Nat) (x : CoreSt) : (s.setCore k x).cur = s.cur := rfl
@[simp] theorem State.setCore_defer (s : State) (k : Nat) (x : CoreSt) : (s.setCore k x).defer = s.defer := rfl
@[simp] theorem State.setCore_stale (s : State) (k : Nat) (x : CoreSt) : (s.setCore k x).stale = s.stale := rfl
@[simp] theorem State.setCore_share (s : State) (k : Nat) (x : CoreSt) : (s.setCore k x).share = s.share := rfl
@[simp] theorem State.setCore_agenda (s : State) (k : Nat) (x : CoreSt) : (s.setCore k x).agenda = s.agenda := rfl
@[simp] theorem State.setCore_dies (s : State) (k : Nat) (x : CoreSt) : (s.setCore k x).dies = s.dies := rfl
@[simp] theorem State.setCore_threads (s : State) (k : Nat) (x : CoreSt) : (s.setCore k x).threads = s.threads := rfl
@[simp] theorem State.setCore_vthreads (s : State) (k : Nat) (x : CoreSt) : (s.setCore k x).vthreads = s.vthreads := rfl
@[simp] theorem State.setCore_vis (s : State) (k : Nat) (x : CoreSt) : (s.setCore k x).vis = s.vis := rfl
@[simp] theorem State.setCore_gangs (s : State) (k : Nat) (x : CoreSt) : (s.setCore k x).gangs = s.gangs := rfl
@[simp] theorem State.setCore_hbm (s : State) (k : Nat) (x : CoreSt) : (s.setCore k x).hbm = s.hbm := rfl
@[simp] theorem State.setCore_veils (s : State) (k : Nat) (x : CoreSt) : (s.setCore k x).veils = s.veils := rfl
@[simp] theorem State.setCore_seals (s : State) (k : Nat) (x : CoreSt) : (s.setCore k x).seals = s.seals := rfl
@[simp] theorem State.setCore_links (s : State) (k : Nat) (x : CoreSt) : (s.setCore k x).links = s.links := rfl
@[simp] theorem State.setCore_cells (s : State) (k : Nat) (x : CoreSt) : (s.setCore k x).cells = s.cells := rfl
@[simp] theorem State.setCore_poison (s : State) (k : Nat) (x : CoreSt) : (s.setCore k x).poison = s.poison := rfl
@[simp] theorem State.setCore_mended (s : State) (k : Nat) (x : CoreSt) : (s.setCore k x).mended = s.mended := rfl
@[simp] theorem State.setCore_store (s : State) (k : Nat) (x : CoreSt) : (s.setCore k x).store = s.store := rfl
@[simp] theorem State.setCore_recs (s : State) (k : Nat) (x : CoreSt) : (s.setCore k x).recs = s.recs := rfl
@[simp] theorem State.setCore_regionUse (s : State) (k : Nat) (x : CoreSt) : (s.setCore k x).regionUse = s.regionUse := rfl
@[simp] theorem State.setCore_hub (s : State) (k : Nat) (x : CoreSt) : (s.setCore k x).hub = s.hub := rfl
@[simp] theorem State.setCore_platform (s : State) (k : Nat) (x : CoreSt) : (s.setCore k x).platform = s.platform := rfl
@[simp] theorem State.setCore_ids (s : State) (k : Nat) (x : CoreSt) : (s.setCore k x).ids = s.ids := rfl
@[simp] theorem State.setCore_draws (s : State) (k : Nat) (x : CoreSt) : (s.setCore k x).draws = s.draws := rfl
@[simp] theorem State.setCore_corePref (s : State) (k : Nat) (x : CoreSt) : (s.setCore k x).corePref = s.corePref := rfl
@[simp] theorem State.setCore_at_die (s : State) (k j : Nat) (x : CoreSt) : (s.setCore k x).die j = s.die j := rfl
@[simp] theorem State.setCore_at_thread (s : State) (k j : Nat) (x : CoreSt) : (s.setCore k x).thread j = s.thread j := rfl
@[simp] theorem State.setCore_at_vthread (s : State) (k j : Nat) (x : CoreSt) : (s.setCore k x).vthread j = s.vthread j := rfl
@[simp] theorem State.setCore_at_vi (s : State) (k j : Nat) (x : CoreSt) : (s.setCore k x).vi j = s.vi j := rfl
@[simp] theorem State.setCore_same (s : State) (k : Nat) (x : CoreSt) : (s.setCore k x).core k = x := Tab.get_put _ _ _ _
theorem State.setCore_ne (s : State) {j k : Nat} (x : CoreSt) (h : j ≠ k) : (s.setCore k x).core j = s.core j := Tab.get_put_ne _ _ _ h
@[simp] theorem State.setDie_modnum (s : State) (k : Nat) (x : Die) : (s.setDie k x).modnum = s.modnum := rfl
@[simp] theorem State.setDie_nmod (s : State) (k : Nat) (x : Die) : (s.setDie k x).nmod = s.nmod := rfl
@[simp] theorem State.setDie_switches (s : State) (k : Nat) (x : Die) : (s.setDie k x).switches = s.switches := rfl
@[simp] theorem State.setDie_cur (s : State) (k : Nat) (x : Die) : (s.setDie k x).cur = s.cur := rfl
@[simp] theorem State.setDie_defer (s : State) (k : Nat) (x : Die) : (s.setDie k x).defer = s.defer := rfl
@[simp] theorem State.setDie_stale (s : State) (k : Nat) (x : Die) : (s.setDie k x).stale = s.stale := rfl
@[simp] theorem State.setDie_share (s : State) (k : Nat) (x : Die) : (s.setDie k x).share = s.share := rfl
@[simp] theorem State.setDie_agenda (s : State) (k : Nat) (x : Die) : (s.setDie k x).agenda = s.agenda := rfl
@[simp] theorem State.setDie_cores (s : State) (k : Nat) (x : Die) : (s.setDie k x).cores = s.cores := rfl
@[simp] theorem State.setDie_threads (s : State) (k : Nat) (x : Die) : (s.setDie k x).threads = s.threads := rfl
@[simp] theorem State.setDie_vthreads (s : State) (k : Nat) (x : Die) : (s.setDie k x).vthreads = s.vthreads := rfl
@[simp] theorem State.setDie_vis (s : State) (k : Nat) (x : Die) : (s.setDie k x).vis = s.vis := rfl
@[simp] theorem State.setDie_gangs (s : State) (k : Nat) (x : Die) : (s.setDie k x).gangs = s.gangs := rfl
@[simp] theorem State.setDie_hbm (s : State) (k : Nat) (x : Die) : (s.setDie k x).hbm = s.hbm := rfl
@[simp] theorem State.setDie_veils (s : State) (k : Nat) (x : Die) : (s.setDie k x).veils = s.veils := rfl
@[simp] theorem State.setDie_seals (s : State) (k : Nat) (x : Die) : (s.setDie k x).seals = s.seals := rfl
@[simp] theorem State.setDie_links (s : State) (k : Nat) (x : Die) : (s.setDie k x).links = s.links := rfl
@[simp] theorem State.setDie_cells (s : State) (k : Nat) (x : Die) : (s.setDie k x).cells = s.cells := rfl
@[simp] theorem State.setDie_poison (s : State) (k : Nat) (x : Die) : (s.setDie k x).poison = s.poison := rfl
@[simp] theorem State.setDie_mended (s : State) (k : Nat) (x : Die) : (s.setDie k x).mended = s.mended := rfl
@[simp] theorem State.setDie_store (s : State) (k : Nat) (x : Die) : (s.setDie k x).store = s.store := rfl
@[simp] theorem State.setDie_recs (s : State) (k : Nat) (x : Die) : (s.setDie k x).recs = s.recs := rfl
@[simp] theorem State.setDie_regionUse (s : State) (k : Nat) (x : Die) : (s.setDie k x).regionUse = s.regionUse := rfl
@[simp] theorem State.setDie_hub (s : State) (k : Nat) (x : Die) : (s.setDie k x).hub = s.hub := rfl
@[simp] theorem State.setDie_platform (s : State) (k : Nat) (x : Die) : (s.setDie k x).platform = s.platform := rfl
@[simp] theorem State.setDie_ids (s : State) (k : Nat) (x : Die) : (s.setDie k x).ids = s.ids := rfl
@[simp] theorem State.setDie_draws (s : State) (k : Nat) (x : Die) : (s.setDie k x).draws = s.draws := rfl
@[simp] theorem State.setDie_corePref (s : State) (k : Nat) (x : Die) : (s.setDie k x).corePref = s.corePref := rfl
@[simp] theorem State.setDie_at_core (s : State) (k j : Nat) (x : Die) : (s.setDie k x).core j = s.core j := rfl
@[simp] theorem State.setDie_at_thread (s : State) (k j : Nat) (x : Die) : (s.setDie k x).thread j = s.thread j := rfl
@[simp] theorem State.setDie_at_vthread (s : State) (k j : Nat) (x : Die) : (s.setDie k x).vthread j = s.vthread j := rfl
@[simp] theorem State.setDie_at_vi (s : State) (k j : Nat) (x : Die) : (s.setDie k x).vi j = s.vi j := rfl
@[simp] theorem State.setDie_same (s : State) (k : Nat) (x : Die) : (s.setDie k x).die k = x := Tab.get_put _ _ _ _
theorem State.setDie_ne (s : State) {j k : Nat} (x : Die) (h : j ≠ k) : (s.setDie k x).die j = s.die j := Tab.get_put_ne _ _ _ h
@[simp] theorem State.setThread_modnum (s : State) (k : Nat) (x : CThread) : (s.setThread k x).modnum = s.modnum := rfl
@[simp] theorem State.setThread_nmod (s : State) (k : Nat) (x : CThread) : (s.setThread k x).nmod = s.nmod := rfl
@[simp] theorem State.setThread_switches (s : State) (k : Nat) (x : CThread) : (s.setThread k x).switches = s.switches := rfl
@[simp] theorem State.setThread_cur (s : State) (k : Nat) (x : CThread) : (s.setThread k x).cur = s.cur := rfl
@[simp] theorem State.setThread_defer (s : State) (k : Nat) (x : CThread) : (s.setThread k x).defer = s.defer := rfl
@[simp] theorem State.setThread_stale (s : State) (k : Nat) (x : CThread) : (s.setThread k x).stale = s.stale := rfl
@[simp] theorem State.setThread_share (s : State) (k : Nat) (x : CThread) : (s.setThread k x).share = s.share := rfl
@[simp] theorem State.setThread_agenda (s : State) (k : Nat) (x : CThread) : (s.setThread k x).agenda = s.agenda := rfl
@[simp] theorem State.setThread_cores (s : State) (k : Nat) (x : CThread) : (s.setThread k x).cores = s.cores := rfl
@[simp] theorem State.setThread_dies (s : State) (k : Nat) (x : CThread) : (s.setThread k x).dies = s.dies := rfl
@[simp] theorem State.setThread_vthreads (s : State) (k : Nat) (x : CThread) : (s.setThread k x).vthreads = s.vthreads := rfl
@[simp] theorem State.setThread_vis (s : State) (k : Nat) (x : CThread) : (s.setThread k x).vis = s.vis := rfl
@[simp] theorem State.setThread_gangs (s : State) (k : Nat) (x : CThread) : (s.setThread k x).gangs = s.gangs := rfl
@[simp] theorem State.setThread_hbm (s : State) (k : Nat) (x : CThread) : (s.setThread k x).hbm = s.hbm := rfl
@[simp] theorem State.setThread_veils (s : State) (k : Nat) (x : CThread) : (s.setThread k x).veils = s.veils := rfl
@[simp] theorem State.setThread_seals (s : State) (k : Nat) (x : CThread) : (s.setThread k x).seals = s.seals := rfl
@[simp] theorem State.setThread_links (s : State) (k : Nat) (x : CThread) : (s.setThread k x).links = s.links := rfl
@[simp] theorem State.setThread_cells (s : State) (k : Nat) (x : CThread) : (s.setThread k x).cells = s.cells := rfl
@[simp] theorem State.setThread_poison (s : State) (k : Nat) (x : CThread) : (s.setThread k x).poison = s.poison := rfl
@[simp] theorem State.setThread_mended (s : State) (k : Nat) (x : CThread) : (s.setThread k x).mended = s.mended := rfl
@[simp] theorem State.setThread_store (s : State) (k : Nat) (x : CThread) : (s.setThread k x).store = s.store := rfl
@[simp] theorem State.setThread_recs (s : State) (k : Nat) (x : CThread) : (s.setThread k x).recs = s.recs := rfl
@[simp] theorem State.setThread_regionUse (s : State) (k : Nat) (x : CThread) : (s.setThread k x).regionUse = s.regionUse := rfl
@[simp] theorem State.setThread_hub (s : State) (k : Nat) (x : CThread) : (s.setThread k x).hub = s.hub := rfl
@[simp] theorem State.setThread_platform (s : State) (k : Nat) (x : CThread) : (s.setThread k x).platform = s.platform := rfl
@[simp] theorem State.setThread_ids (s : State) (k : Nat) (x : CThread) : (s.setThread k x).ids = s.ids := rfl
@[simp] theorem State.setThread_draws (s : State) (k : Nat) (x : CThread) : (s.setThread k x).draws = s.draws := rfl
@[simp] theorem State.setThread_corePref (s : State) (k : Nat) (x : CThread) : (s.setThread k x).corePref = s.corePref := rfl
@[simp] theorem State.setThread_at_core (s : State) (k j : Nat) (x : CThread) : (s.setThread k x).core j = s.core j := rfl
@[simp] theorem State.setThread_at_die (s : State) (k j : Nat) (x : CThread) : (s.setThread k x).die j = s.die j := rfl
@[simp] theorem State.setThread_at_vthread (s : State) (k j : Nat) (x : CThread) : (s.setThread k x).vthread j = s.vthread j := rfl
@[simp] theorem State.setThread_at_vi (s : State) (k j : Nat) (x : CThread) : (s.setThread k x).vi j = s.vi j := rfl
@[simp] theorem State.setThread_same (s : State) (k : Nat) (x : CThread) : (s.setThread k x).thread k = x := Tab.get_put _ _ _ _
theorem State.setThread_ne (s : State) {j k : Nat} (x : CThread) (h : j ≠ k) : (s.setThread k x).thread j = s.thread j := Tab.get_put_ne _ _ _ h
@[simp] theorem State.setVthread_modnum (s : State) (k : Nat) (x : VThread) : (s.setVthread k x).modnum = s.modnum := rfl
@[simp] theorem State.setVthread_nmod (s : State) (k : Nat) (x : VThread) : (s.setVthread k x).nmod = s.nmod := rfl
@[simp] theorem State.setVthread_switches (s : State) (k : Nat) (x : VThread) : (s.setVthread k x).switches = s.switches := rfl
@[simp] theorem State.setVthread_cur (s : State) (k : Nat) (x : VThread) : (s.setVthread k x).cur = s.cur := rfl
@[simp] theorem State.setVthread_defer (s : State) (k : Nat) (x : VThread) : (s.setVthread k x).defer = s.defer := rfl
@[simp] theorem State.setVthread_stale (s : State) (k : Nat) (x : VThread) : (s.setVthread k x).stale = s.stale := rfl
@[simp] theorem State.setVthread_share (s : State) (k : Nat) (x : VThread) : (s.setVthread k x).share = s.share := rfl
@[simp] theorem State.setVthread_agenda (s : State) (k : Nat) (x : VThread) : (s.setVthread k x).agenda = s.agenda := rfl
@[simp] theorem State.setVthread_cores (s : State) (k : Nat) (x : VThread) : (s.setVthread k x).cores = s.cores := rfl
@[simp] theorem State.setVthread_dies (s : State) (k : Nat) (x : VThread) : (s.setVthread k x).dies = s.dies := rfl
@[simp] theorem State.setVthread_threads (s : State) (k : Nat) (x : VThread) : (s.setVthread k x).threads = s.threads := rfl
@[simp] theorem State.setVthread_vis (s : State) (k : Nat) (x : VThread) : (s.setVthread k x).vis = s.vis := rfl
@[simp] theorem State.setVthread_gangs (s : State) (k : Nat) (x : VThread) : (s.setVthread k x).gangs = s.gangs := rfl
@[simp] theorem State.setVthread_hbm (s : State) (k : Nat) (x : VThread) : (s.setVthread k x).hbm = s.hbm := rfl
@[simp] theorem State.setVthread_veils (s : State) (k : Nat) (x : VThread) : (s.setVthread k x).veils = s.veils := rfl
@[simp] theorem State.setVthread_seals (s : State) (k : Nat) (x : VThread) : (s.setVthread k x).seals = s.seals := rfl
@[simp] theorem State.setVthread_links (s : State) (k : Nat) (x : VThread) : (s.setVthread k x).links = s.links := rfl
@[simp] theorem State.setVthread_cells (s : State) (k : Nat) (x : VThread) : (s.setVthread k x).cells = s.cells := rfl
@[simp] theorem State.setVthread_poison (s : State) (k : Nat) (x : VThread) : (s.setVthread k x).poison = s.poison := rfl
@[simp] theorem State.setVthread_mended (s : State) (k : Nat) (x : VThread) : (s.setVthread k x).mended = s.mended := rfl
@[simp] theorem State.setVthread_store (s : State) (k : Nat) (x : VThread) : (s.setVthread k x).store = s.store := rfl
@[simp] theorem State.setVthread_recs (s : State) (k : Nat) (x : VThread) : (s.setVthread k x).recs = s.recs := rfl
@[simp] theorem State.setVthread_regionUse (s : State) (k : Nat) (x : VThread) : (s.setVthread k x).regionUse = s.regionUse := rfl
@[simp] theorem State.setVthread_hub (s : State) (k : Nat) (x : VThread) : (s.setVthread k x).hub = s.hub := rfl
@[simp] theorem State.setVthread_platform (s : State) (k : Nat) (x : VThread) : (s.setVthread k x).platform = s.platform := rfl
@[simp] theorem State.setVthread_ids (s : State) (k : Nat) (x : VThread) : (s.setVthread k x).ids = s.ids := rfl
@[simp] theorem State.setVthread_draws (s : State) (k : Nat) (x : VThread) : (s.setVthread k x).draws = s.draws := rfl
@[simp] theorem State.setVthread_corePref (s : State) (k : Nat) (x : VThread) : (s.setVthread k x).corePref = s.corePref := rfl
@[simp] theorem State.setVthread_at_core (s : State) (k j : Nat) (x : VThread) : (s.setVthread k x).core j = s.core j := rfl
@[simp] theorem State.setVthread_at_die (s : State) (k j : Nat) (x : VThread) : (s.setVthread k x).die j = s.die j := rfl
@[simp] theorem State.setVthread_at_thread (s : State) (k j : Nat) (x : VThread) : (s.setVthread k x).thread j = s.thread j := rfl
@[simp] theorem State.setVthread_at_vi (s : State) (k j : Nat) (x : VThread) : (s.setVthread k x).vi j = s.vi j := rfl
@[simp] theorem State.setVthread_same (s : State) (k : Nat) (x : VThread) : (s.setVthread k x).vthread k = x := Tab.get_put _ _ _ _
theorem State.setVthread_ne (s : State) {j k : Nat} (x : VThread) (h : j ≠ k) : (s.setVthread k x).vthread j = s.vthread j := Tab.get_put_ne _ _ _ h
@[simp] theorem State.setVi_modnum (s : State) (k : Nat) (x : Vi) : (s.setVi k x).modnum = s.modnum := rfl
@[simp] theorem State.setVi_nmod (s : State) (k : Nat) (x : Vi) : (s.setVi k x).nmod = s.nmod := rfl
@[simp] theorem State.setVi_switches (s : State) (k : Nat) (x : Vi) : (s.setVi k x).switches = s.switches := rfl
@[simp] theorem State.setVi_cur (s : State) (k : Nat) (x : Vi) : (s.setVi k x).cur = s.cur := rfl
@[simp] theorem State.setVi_defer (s : State) (k : Nat) (x : Vi) : (s.setVi k x).defer = s.defer := rfl
@[simp] theorem State.setVi_stale (s : State) (k : Nat) (x : Vi) : (s.setVi k x).stale = s.stale := rfl
@[simp] theorem State.setVi_share (s : State) (k : Nat) (x : Vi) : (s.setVi k x).share = s.share := rfl
@[simp] theorem State.setVi_agenda (s : State) (k : Nat) (x : Vi) : (s.setVi k x).agenda = s.agenda := rfl
@[simp] theorem State.setVi_cores (s : State) (k : Nat) (x : Vi) : (s.setVi k x).cores = s.cores := rfl
@[simp] theorem State.setVi_dies (s : State) (k : Nat) (x : Vi) : (s.setVi k x).dies = s.dies := rfl
@[simp] theorem State.setVi_threads (s : State) (k : Nat) (x : Vi) : (s.setVi k x).threads = s.threads := rfl
@[simp] theorem State.setVi_vthreads (s : State) (k : Nat) (x : Vi) : (s.setVi k x).vthreads = s.vthreads := rfl
@[simp] theorem State.setVi_gangs (s : State) (k : Nat) (x : Vi) : (s.setVi k x).gangs = s.gangs := rfl
@[simp] theorem State.setVi_hbm (s : State) (k : Nat) (x : Vi) : (s.setVi k x).hbm = s.hbm := rfl
@[simp] theorem State.setVi_veils (s : State) (k : Nat) (x : Vi) : (s.setVi k x).veils = s.veils := rfl
@[simp] theorem State.setVi_seals (s : State) (k : Nat) (x : Vi) : (s.setVi k x).seals = s.seals := rfl
@[simp] theorem State.setVi_links (s : State) (k : Nat) (x : Vi) : (s.setVi k x).links = s.links := rfl
@[simp] theorem State.setVi_cells (s : State) (k : Nat) (x : Vi) : (s.setVi k x).cells = s.cells := rfl
@[simp] theorem State.setVi_poison (s : State) (k : Nat) (x : Vi) : (s.setVi k x).poison = s.poison := rfl
@[simp] theorem State.setVi_mended (s : State) (k : Nat) (x : Vi) : (s.setVi k x).mended = s.mended := rfl
@[simp] theorem State.setVi_store (s : State) (k : Nat) (x : Vi) : (s.setVi k x).store = s.store := rfl
@[simp] theorem State.setVi_recs (s : State) (k : Nat) (x : Vi) : (s.setVi k x).recs = s.recs := rfl
@[simp] theorem State.setVi_regionUse (s : State) (k : Nat) (x : Vi) : (s.setVi k x).regionUse = s.regionUse := rfl
@[simp] theorem State.setVi_hub (s : State) (k : Nat) (x : Vi) : (s.setVi k x).hub = s.hub := rfl
@[simp] theorem State.setVi_platform (s : State) (k : Nat) (x : Vi) : (s.setVi k x).platform = s.platform := rfl
@[simp] theorem State.setVi_ids (s : State) (k : Nat) (x : Vi) : (s.setVi k x).ids = s.ids := rfl
@[simp] theorem State.setVi_draws (s : State) (k : Nat) (x : Vi) : (s.setVi k x).draws = s.draws := rfl
@[simp] theorem State.setVi_corePref (s : State) (k : Nat) (x : Vi) : (s.setVi k x).corePref = s.corePref := rfl
@[simp] theorem State.setVi_at_core (s : State) (k j : Nat) (x : Vi) : (s.setVi k x).core j = s.core j := rfl
@[simp] theorem State.setVi_at_die (s : State) (k j : Nat) (x : Vi) : (s.setVi k x).die j = s.die j := rfl
@[simp] theorem State.setVi_at_thread (s : State) (k j : Nat) (x : Vi) : (s.setVi k x).thread j = s.thread j := rfl
@[simp] theorem State.setVi_at_vthread (s : State) (k j : Nat) (x : Vi) : (s.setVi k x).vthread j = s.vthread j := rfl
@[simp] theorem State.setVi_same (s : State) (k : Nat) (x : Vi) : (s.setVi k x).vi k = x := Tab.get_put _ _ _ _
theorem State.setVi_ne (s : State) {j k : Nat} (x : Vi) (h : j ≠ k) : (s.setVi k x).vi j = s.vi j := Tab.get_put_ne _ _ _ h
@[simp] theorem State.setHub_modnum (s : State) (h : Hub) : (s.setHub h).modnum = s.modnum := rfl
@[simp] theorem State.setHub_nmod (s : State) (h : Hub) : (s.setHub h).nmod = s.nmod := rfl
@[simp] theorem State.setHub_switches (s : State) (h : Hub) : (s.setHub h).switches = s.switches := rfl
@[simp] theorem State.setHub_cur (s : State) (h : Hub) : (s.setHub h).cur = s.cur := rfl
@[simp] theorem State.setHub_defer (s : State) (h : Hub) : (s.setHub h).defer = s.defer := rfl
@[simp] theorem State.setHub_stale (s : State) (h : Hub) : (s.setHub h).stale = s.stale := rfl
@[simp] theorem State.setHub_share (s : State) (h : Hub) : (s.setHub h).share = s.share := rfl
@[simp] theorem State.setHub_agenda (s : State) (h : Hub) : (s.setHub h).agenda = s.agenda := rfl
@[simp] theorem State.setHub_cores (s : State) (h : Hub) : (s.setHub h).cores = s.cores := rfl
@[simp] theorem State.setHub_dies (s : State) (h : Hub) : (s.setHub h).dies = s.dies := rfl
@[simp] theorem State.setHub_threads (s : State) (h : Hub) : (s.setHub h).threads = s.threads := rfl
@[simp] theorem State.setHub_vthreads (s : State) (h : Hub) : (s.setHub h).vthreads = s.vthreads := rfl
@[simp] theorem State.setHub_vis (s : State) (h : Hub) : (s.setHub h).vis = s.vis := rfl
@[simp] theorem State.setHub_gangs (s : State) (h : Hub) : (s.setHub h).gangs = s.gangs := rfl
@[simp] theorem State.setHub_hbm (s : State) (h : Hub) : (s.setHub h).hbm = s.hbm := rfl
@[simp] theorem State.setHub_veils (s : State) (h : Hub) : (s.setHub h).veils = s.veils := rfl
@[simp] theorem State.setHub_seals (s : State) (h : Hub) : (s.setHub h).seals = s.seals := rfl
@[simp] theorem State.setHub_links (s : State) (h : Hub) : (s.setHub h).links = s.links := rfl
@[simp] theorem State.setHub_cells (s : State) (h : Hub) : (s.setHub h).cells = s.cells := rfl
@[simp] theorem State.setHub_poison (s : State) (h : Hub) : (s.setHub h).poison = s.poison := rfl
@[simp] theorem State.setHub_mended (s : State) (h : Hub) : (s.setHub h).mended = s.mended := rfl
@[simp] theorem State.setHub_store (s : State) (h : Hub) : (s.setHub h).store = s.store := rfl
@[simp] theorem State.setHub_recs (s : State) (h : Hub) : (s.setHub h).recs = s.recs := rfl
@[simp] theorem State.setHub_regionUse (s : State) (h : Hub) : (s.setHub h).regionUse = s.regionUse := rfl
@[simp] theorem State.setHub_platform (s : State) (h : Hub) : (s.setHub h).platform = s.platform := rfl
@[simp] theorem State.setHub_ids (s : State) (h : Hub) : (s.setHub h).ids = s.ids := rfl
@[simp] theorem State.setHub_draws (s : State) (h : Hub) : (s.setHub h).draws = s.draws := rfl
@[simp] theorem State.setHub_corePref (s : State) (h : Hub) : (s.setHub h).corePref = s.corePref := rfl
@[simp] theorem State.setHub_hub (s : State) (h : Hub) : (s.setHub h).hub = h := rfl
@[simp] theorem State.setHub_at_core (s : State) (j : Nat) (h : Hub) : (s.setHub h).core j = s.core j := rfl
@[simp] theorem State.setHub_at_die (s : State) (j : Nat) (h : Hub) : (s.setHub h).die j = s.die j := rfl
@[simp] theorem State.setHub_at_thread (s : State) (j : Nat) (h : Hub) : (s.setHub h).thread j = s.thread j := rfl
@[simp] theorem State.setHub_at_vthread (s : State) (j : Nat) (h : Hub) : (s.setHub h).vthread j = s.vthread j := rfl
@[simp] theorem State.setHub_at_vi (s : State) (j : Nat) (h : Hub) : (s.setHub h).vi j = s.vi j := rfl
@[simp] theorem State.setGang_modnum (s : State) (k : Nat) (x : Gang) : (s.setGang k x).modnum = s.modnum := rfl
@[simp] theorem State.setRec_modnum (s : State) (k : Nat) (x : ParkRec) : (s.setRec k x).modnum = s.modnum := rfl
@[simp] theorem State.setGang_nmod (s : State) (k : Nat) (x : Gang) : (s.setGang k x).nmod = s.nmod := rfl
@[simp] theorem State.setRec_nmod (s : State) (k : Nat) (x : ParkRec) : (s.setRec k x).nmod = s.nmod := rfl
@[simp] theorem State.setGang_switches (s : State) (k : Nat) (x : Gang) : (s.setGang k x).switches = s.switches := rfl
@[simp] theorem State.setRec_switches (s : State) (k : Nat) (x : ParkRec) : (s.setRec k x).switches = s.switches := rfl
@[simp] theorem State.setGang_cur (s : State) (k : Nat) (x : Gang) : (s.setGang k x).cur = s.cur := rfl
@[simp] theorem State.setRec_cur (s : State) (k : Nat) (x : ParkRec) : (s.setRec k x).cur = s.cur := rfl
@[simp] theorem State.setGang_defer (s : State) (k : Nat) (x : Gang) : (s.setGang k x).defer = s.defer := rfl
@[simp] theorem State.setRec_defer (s : State) (k : Nat) (x : ParkRec) : (s.setRec k x).defer = s.defer := rfl
@[simp] theorem State.setGang_stale (s : State) (k : Nat) (x : Gang) : (s.setGang k x).stale = s.stale := rfl
@[simp] theorem State.setGang_share (s : State) (k : Nat) (x : Gang) : (s.setGang k x).share = s.share := rfl
@[simp] theorem State.setRec_stale (s : State) (k : Nat) (x : ParkRec) : (s.setRec k x).stale = s.stale := rfl
@[simp] theorem State.setRec_share (s : State) (k : Nat) (x : ParkRec) : (s.setRec k x).share = s.share := rfl
@[simp] theorem State.setGang_agenda (s : State) (k : Nat) (x : Gang) : (s.setGang k x).agenda = s.agenda := rfl
@[simp] theorem State.setRec_agenda (s : State) (k : Nat) (x : ParkRec) : (s.setRec k x).agenda = s.agenda := rfl
@[simp] theorem State.setGang_cores (s : State) (k : Nat) (x : Gang) : (s.setGang k x).cores = s.cores := rfl
@[simp] theorem State.setRec_cores (s : State) (k : Nat) (x : ParkRec) : (s.setRec k x).cores = s.cores := rfl
@[simp] theorem State.setGang_dies (s : State) (k : Nat) (x : Gang) : (s.setGang k x).dies = s.dies := rfl
@[simp] theorem State.setRec_dies (s : State) (k : Nat) (x : ParkRec) : (s.setRec k x).dies = s.dies := rfl
@[simp] theorem State.setGang_threads (s : State) (k : Nat) (x : Gang) : (s.setGang k x).threads = s.threads := rfl
@[simp] theorem State.setRec_threads (s : State) (k : Nat) (x : ParkRec) : (s.setRec k x).threads = s.threads := rfl
@[simp] theorem State.setGang_vthreads (s : State) (k : Nat) (x : Gang) : (s.setGang k x).vthreads = s.vthreads := rfl
@[simp] theorem State.setRec_vthreads (s : State) (k : Nat) (x : ParkRec) : (s.setRec k x).vthreads = s.vthreads := rfl
@[simp] theorem State.setGang_vis (s : State) (k : Nat) (x : Gang) : (s.setGang k x).vis = s.vis := rfl
@[simp] theorem State.setRec_vis (s : State) (k : Nat) (x : ParkRec) : (s.setRec k x).vis = s.vis := rfl
@[simp] theorem State.setRec_gangs (s : State) (k : Nat) (x : ParkRec) : (s.setRec k x).gangs = s.gangs := rfl
@[simp] theorem State.setGang_hbm (s : State) (k : Nat) (x : Gang) : (s.setGang k x).hbm = s.hbm := rfl
@[simp] theorem State.setRec_hbm (s : State) (k : Nat) (x : ParkRec) : (s.setRec k x).hbm = s.hbm := rfl
@[simp] theorem State.setGang_veils (s : State) (k : Nat) (x : Gang) : (s.setGang k x).veils = s.veils := rfl
@[simp] theorem State.setRec_veils (s : State) (k : Nat) (x : ParkRec) : (s.setRec k x).veils = s.veils := rfl
@[simp] theorem State.setGang_seals (s : State) (k : Nat) (x : Gang) : (s.setGang k x).seals = s.seals := rfl
@[simp] theorem State.setRec_seals (s : State) (k : Nat) (x : ParkRec) : (s.setRec k x).seals = s.seals := rfl
@[simp] theorem State.setGang_links (s : State) (k : Nat) (x : Gang) : (s.setGang k x).links = s.links := rfl
@[simp] theorem State.setRec_links (s : State) (k : Nat) (x : ParkRec) : (s.setRec k x).links = s.links := rfl
@[simp] theorem State.setGang_cells (s : State) (k : Nat) (x : Gang) : (s.setGang k x).cells = s.cells := rfl
@[simp] theorem State.setRec_cells (s : State) (k : Nat) (x : ParkRec) : (s.setRec k x).cells = s.cells := rfl
@[simp] theorem State.setGang_poison (s : State) (k : Nat) (x : Gang) : (s.setGang k x).poison = s.poison := rfl
@[simp] theorem State.setRec_poison (s : State) (k : Nat) (x : ParkRec) : (s.setRec k x).poison = s.poison := rfl
@[simp] theorem State.setGang_mended (s : State) (k : Nat) (x : Gang) : (s.setGang k x).mended = s.mended := rfl
@[simp] theorem State.setRec_mended (s : State) (k : Nat) (x : ParkRec) : (s.setRec k x).mended = s.mended := rfl
@[simp] theorem State.setGang_store (s : State) (k : Nat) (x : Gang) : (s.setGang k x).store = s.store := rfl
@[simp] theorem State.setRec_store (s : State) (k : Nat) (x : ParkRec) : (s.setRec k x).store = s.store := rfl
@[simp] theorem State.setGang_recs (s : State) (k : Nat) (x : Gang) : (s.setGang k x).recs = s.recs := rfl
@[simp] theorem State.setGang_regionUse (s : State) (k : Nat) (x : Gang) : (s.setGang k x).regionUse = s.regionUse := rfl
@[simp] theorem State.setRec_regionUse (s : State) (k : Nat) (x : ParkRec) : (s.setRec k x).regionUse = s.regionUse := rfl
@[simp] theorem State.setGang_hub (s : State) (k : Nat) (x : Gang) : (s.setGang k x).hub = s.hub := rfl
@[simp] theorem State.setRec_hub (s : State) (k : Nat) (x : ParkRec) : (s.setRec k x).hub = s.hub := rfl
@[simp] theorem State.setGang_platform (s : State) (k : Nat) (x : Gang) : (s.setGang k x).platform = s.platform := rfl
@[simp] theorem State.setRec_platform (s : State) (k : Nat) (x : ParkRec) : (s.setRec k x).platform = s.platform := rfl
@[simp] theorem State.setGang_ids (s : State) (k : Nat) (x : Gang) : (s.setGang k x).ids = s.ids := rfl
@[simp] theorem State.setRec_ids (s : State) (k : Nat) (x : ParkRec) : (s.setRec k x).ids = s.ids := rfl
@[simp] theorem State.setGang_draws (s : State) (k : Nat) (x : Gang) : (s.setGang k x).draws = s.draws := rfl
@[simp] theorem State.setRec_draws (s : State) (k : Nat) (x : ParkRec) : (s.setRec k x).draws = s.draws := rfl
@[simp] theorem State.setGang_corePref (s : State) (k : Nat) (x : Gang) : (s.setGang k x).corePref = s.corePref := rfl
@[simp] theorem State.setRec_corePref (s : State) (k : Nat) (x : ParkRec) : (s.setRec k x).corePref = s.corePref := rfl

/-! ## Scalar registers -/

@[simp] theorem CThread.reg_zero (t : CThread) : t.reg 0 = 0 := rfl

theorem CThread.reg_setReg (t : CThread) (d : Reg) (v : Word) : (t.setReg d v).reg d = if d = 0 then 0 else v := by
  unfold CThread.setReg CThread.reg
  split <;> simp

theorem CThread.reg_setReg_ne (t : CThread) {d r : Reg} (v : Word) (h : r ≠ d) : (t.setReg d v).reg r = t.reg r := by
  unfold CThread.setReg CThread.reg
  split
  · rfl
  · split
    · rfl
    · exact Tab.get_write_ne _ _ _ (fun e => h (BitVec.eq_of_toNat_eq e))

end Sys2Proof.Machine
end

