-- ==== Sys2Proof/Laws/Memory.lean ====
section
/-! SUPPORT. The laws of memory: a read after a write, and the canonical form, which every memory operation keeps. -/

namespace Sys2Proof.Machine

/-! ## One memory -/

@[simp] theorem Memory.read_nil (a : Nat) : Memory.read [] a = 0 := rfl

@[simp] theorem Memory.read_write (m : Memory) (a : Nat) (b : Byte) : (m.write a b).read a = b := Tab.get_write 0 b a m

theorem Memory.read_write_ne (m : Memory) {a x : Nat} (b : Byte) (h : x ≠ a) : (m.write a b).read x = m.read x := Tab.get_write_ne 0 b m h

theorem Memory.read_writeList_lt (m : Memory) {a x : Nat} (bs : List Byte) (h : x < a) : (m.writeList a bs).read x = m.read x := by
  induction bs generalizing m a with
  | nil => rfl
  | cons b bs ih => rw [Memory.writeList, ih _ (by omega), Memory.read_write_ne _ _ (by omega)]

theorem Memory.read_writeList_ge (m : Memory) {a x : Nat} (bs : List Byte) (h : a + bs.length ≤ x) : (m.writeList a bs).read x = m.read x := by
  induction bs generalizing m a with
  | nil => rfl
  | cons b bs ih =>
    simp only [List.length_cons] at h
    rw [Memory.writeList, ih _ (by omega), Memory.read_write_ne _ _ (by omega)]

theorem Memory.read_writeList (m : Memory) (a : Nat) (bs : List Byte) (i : Nat) (h : i < bs.length) : (m.writeList a bs).read (a + i) = bs[i] := by
  induction bs generalizing m a i with
  | nil => simp at h
  | cons b bs ih =>
    cases i with
    | zero => rw [Memory.writeList]; simp [Memory.read_writeList_lt]
    | succ n =>
      have hn : n < bs.length := by simpa using h
      rw [Memory.writeList, show a + (n + 1) = a + 1 + n by omega, ih _ _ _ hn]
      simp

/-- The canonical form, as an order on the addresses and a bound on the bytes. -/
theorem Memory.wf_iff (m : Memory) : m.wf = true ↔ m.Pairwise (fun c d => c.1 < d.1) ∧ ∀ c ∈ m, c.2 ≠ 0 := by
  induction m with
  | nil => simp [Memory.wf]
  | cons c t ih =>
    obtain ⟨a, b⟩ := c
    cases t with
    | nil => simp [Memory.wf]
    | cons d t =>
      obtain ⟨a', b'⟩ := d
      simp only [Memory.wf, Bool.and_eq_true, decide_eq_true_eq, ih]
      constructor
      · rintro ⟨⟨h1, h2⟩, h3, h4⟩
        refine ⟨List.pairwise_cons.2 ⟨?_, h3⟩, ?_⟩
        · intro x hx
          rcases List.mem_cons.1 hx with rfl | hx
          · exact h1
          · exact Nat.lt_trans h1 ((List.pairwise_cons.1 h3).1 x hx)
        · intro x hx
          rcases List.mem_cons.1 hx with rfl | hx
          · exact h2
          · exact h4 x hx
      · rintro ⟨h1, h2⟩
        obtain ⟨h3, h4⟩ := List.pairwise_cons.1 h1
        exact ⟨⟨h3 (a', b') (by simp), h2 (a, b) (by simp)⟩, h4, fun x hx => h2 x (List.mem_cons_of_mem _ hx)⟩

/-- A part of a canonical memory is canonical. -/
theorem Memory.wf_sublist {m n : Memory} (h : n.Sublist m) (hm : m.wf = true) : n.wf = true := by
  rw [Memory.wf_iff] at hm ⊢
  exact ⟨hm.1.sublist h, fun c hc => hm.2 c (h.subset hc)⟩

theorem Memory.wf_filter (p : Host.Cell → Bool) {m : Memory} (hm : m.wf = true) : Memory.wf (m.filter p) = true :=
  Memory.wf_sublist List.filter_sublist hm

theorem Tab.mem_put {α : Type} {k : Nat} {v : α} {t : Tab α} {c : Nat × α} (h : c ∈ Tab.put k v t) : c = (k, v) ∨ c ∈ t := by
  induction t with
  | nil => simpa [Tab.put] using h
  | cons e t ih =>
    obtain ⟨k', v'⟩ := e
    simp only [Tab.put] at h
    split at h
    · simpa using h
    · split at h
      · rcases List.mem_cons.1 h with rfl | h
        · exact .inl rfl
        · exact .inr (List.mem_cons_of_mem _ h)
      · rcases List.mem_cons.1 h with rfl | h
        · exact .inr (by simp)
        · rcases ih h with h | h
          · exact .inl h
          · exact .inr (List.mem_cons_of_mem _ h)

theorem Tab.sorted_put {α : Type} (k : Nat) (v : α) {t : Tab α} (h : t.Pairwise (fun c d => c.1 < d.1)) :
    (Tab.put k v t).Pairwise (fun c d => c.1 < d.1) := by
  induction t with
  | nil => simp [Tab.put]
  | cons e t ih =>
    obtain ⟨k', v'⟩ := e
    obtain ⟨h1, h2⟩ := List.pairwise_cons.1 h
    simp only [Tab.put]
    split
    · next hk =>
      refine List.pairwise_cons.2 ⟨fun x hx => ?_, h⟩
      rcases List.mem_cons.1 hx with rfl | hx
      · exact hk
      · exact Nat.lt_trans hk (h1 x hx)
    · split
      · next hk => subst hk; exact List.pairwise_cons.2 ⟨h1, h2⟩
      · next h3 h4 =>
        refine List.pairwise_cons.2 ⟨fun x hx => ?_, ih h2⟩
        rcases Tab.mem_put hx with rfl | hx
        · show k' < k; omega
        · exact h1 x hx

theorem Tab.sublist_del {α : Type} (k : Nat) (t : Tab α) : (Tab.del k t).Sublist t := by
  induction t with
  | nil => exact List.Sublist.slnil
  | cons e t ih =>
    obtain ⟨k', v'⟩ := e
    simp only [Tab.del]
    split
    · exact ih.cons _
    · exact ih.cons_cons _

/-- A write keeps the canonical form. -/
theorem Memory.wf_write {m : Memory} (a : Nat) (b : Byte) (h : m.wf = true) : (m.write a b).wf = true := by
  unfold Memory.write Tab.write
  split
  · exact Memory.wf_sublist (Tab.sublist_del a m) h
  · next hb =>
    rw [Memory.wf_iff] at h ⊢
    refine ⟨Tab.sorted_put a b h.1, fun c hc => ?_⟩
    rcases Tab.mem_put hc with rfl | hc
    · exact hb
    · exact h.2 c hc

theorem Memory.wf_writeList {m : Memory} (a : Nat) (bs : List Byte) (h : m.wf = true) : (m.writeList a bs).wf = true := by
  induction bs generalizing m a with
  | nil => exact h
  | cons b bs ih => exact ih _ (Memory.wf_write a b h)

/-! ## The memories of a state -/

/-- A part of a state is still canonical when HBM, the cores and the stored pages are the same. -/
theorem MemoriesCanonical.of_eq {s t : State} (h : MemoriesCanonical s) (h1 : t.hbm = s.hbm) (h2 : t.cores = s.cores) (h3 : t.store = s.store) :
    MemoriesCanonical t := by
  obtain ⟨a, b, c⟩ := h
  exact ⟨h1 ▸ a, h2 ▸ b, h3 ▸ c⟩

/-- The scratchpad of every core of a canonical state is canonical, listed or not. -/
theorem MemoriesCanonical.core {s : State} (h : MemoriesCanonical s) (c : Nat) : (s.core c).scratch.wf = true := by
  have key : ∀ t : Tab CoreSt, (∀ e ∈ t, e.2.scratch.wf = true) → (Tab.get CoreSt.initial c t).scratch.wf = true := by
    intro t
    induction t with
    | nil => intro _; rfl
    | cons e t ih =>
      obtain ⟨k, v⟩ := e
      intro ht
      simp only [Tab.get]
      split
      · exact ht (k, v) (by simp)
      · exact ih (fun e he => ht e (List.mem_cons_of_mem _ he))
  exact key s.cores h.scratch

/-- Setting a core with a canonical scratchpad keeps the memories canonical. -/
theorem MemoriesCanonical.setCore {s : State} (h : MemoriesCanonical s) (c : Nat) (x : CoreSt) (hx : x.scratch.wf = true) :
    MemoriesCanonical (s.setCore c x) := by
  refine ⟨h.hbm, fun e he => ?_, h.store⟩
  rcases Tab.mem_put he with rfl | he
  · exact hx
  · exact h.scratch e he

theorem MemoriesCanonical.setDie {s : State} (h : MemoriesCanonical s) (d : Nat) (x : Die) : MemoriesCanonical (s.setDie d x) := h.of_eq rfl rfl rfl
theorem MemoriesCanonical.setThread {s : State} (h : MemoriesCanonical s) (k : Nat) (x : CThread) : MemoriesCanonical (s.setThread k x) := h.of_eq rfl rfl rfl
theorem MemoriesCanonical.setVthread {s : State} (h : MemoriesCanonical s) (k : Nat) (x : VThread) : MemoriesCanonical (s.setVthread k x) := h.of_eq rfl rfl rfl
theorem MemoriesCanonical.setVi {s : State} (h : MemoriesCanonical s) (k : Nat) (x : Vi) : MemoriesCanonical (s.setVi k x) := h.of_eq rfl rfl rfl
theorem MemoriesCanonical.setGang {s : State} (h : MemoriesCanonical s) (k : Nat) (x : Gang) : MemoriesCanonical (s.setGang k x) := h.of_eq rfl rfl rfl
theorem MemoriesCanonical.setRec {s : State} (h : MemoriesCanonical s) (k : Nat) (x : ParkRec) : MemoriesCanonical (s.setRec k x) := h.of_eq rfl rfl rfl

/-- A fold of steps that each keep the memories canonical keeps them canonical. -/
theorem MemoriesCanonical.foldl {α : Type} {f : State → α → State} (hf : ∀ s a, MemoriesCanonical s → MemoriesCanonical (f s a)) (l : List α) {s : State}
    (h : MemoriesCanonical s) : MemoriesCanonical (l.foldl f s) := by
  induction l generalizing s with
  | nil => exact h
  | cons a l ih => exact ih (hf s a h)

theorem MemoriesCanonical.rawPut {s : State} (h : MemoriesCanonical s) (a : Nat) (b : Byte) : MemoriesCanonical (s.rawPut a b) :=
  ⟨Memory.wf_write a b h.hbm, h.scratch, h.store⟩

theorem MemoriesCanonical.rawPuts {s : State} (h : MemoriesCanonical s) (a : Nat) (f : Nat → Byte) (n : Nat) : MemoriesCanonical (s.rawPuts a f n) := by
  induction n with
  | zero => exact h
  | succ n ih => exact ih.rawPut _ _

theorem MemoriesCanonical.sealLine {s : State} (h : MemoriesCanonical s) (key : BitVec 256) (line : Nat) : MemoriesCanonical (s.sealLine key line) := by
  unfold State.sealLine
  split
  · split
    · exact h
    · have hp : ∀ n, MemoriesCanonical { s.rawPuts (line * 64) (fun a => s.hbmByte key a) n with seals := Tab.put line key s.seals } :=
        fun n => (h.rawPuts _ _ n).of_eq rfl rfl rfl
      exact hp 64
  · exact h.of_eq rfl rfl rfl

theorem MemoriesCanonical.hbmPut {s : State} (h : MemoriesCanonical s) (key : BitVec 256) (a : Nat) (b : Byte) : MemoriesCanonical (s.hbmPut key a b) :=
  (h.sealLine key (a / 64)).rawPut a b

theorem MemoriesCanonical.mend {s : State} (h : MemoriesCanonical s) (x : Struck) (n i : Nat) : MemoriesCanonical (s.mend x n i) := by
  simp only [State.mend]
  repeat' split
  all_goals first | exact h | exact h.of_eq rfl rfl rfl

theorem MemoriesCanonical.putByte {s : State} (h : MemoriesCanonical s) (key : BitVec 256) (l : Loc) (b : Byte) : MemoriesCanonical (s.putByte key l b) := by
  cases l with
  | hbm a => exact (h.hbmPut key a b).mend _ _ _
  | scratch c o => exact (h.setCore c { s.core c with scratch := Memory.write (s.core c).scratch o b } (Memory.wf_write o b (h.core c))).mend _ _ _
  | cell d i => exact h
  | remote m t v => exact h
  | line h' t v => exact h

theorem MemoriesCanonical.putBytes {s : State} (h : MemoriesCanonical s) (key : BitVec 256) (l : Loc) (bs : List Byte) :
    MemoriesCanonical (s.putBytes key l bs) := by
  induction bs generalizing s l with
  | nil => exact h
  | cons b bs ih => exact ih (h.putByte key l b) _

theorem MemoriesCanonical.breakLink {s : State} (h : MemoriesCanonical s) (l : Loc) (n : Nat) (who : Option (Nat × Nat)) : MemoriesCanonical (s.breakLink l n who) := by
  cases l with
  | hbm a =>
    simp only [State.breakLink]
    repeat' split
    all_goals first | exact h | exact h.of_eq rfl rfl rfl
  | scratch c o =>
    simp only [State.breakLink]
    repeat' split
    all_goals first | exact h | exact h.setCore _ _ (h.core c)
  | cell d i => exact h
  | remote m t v => exact h
  | line h' t v => exact h

theorem MemoriesCanonical.setCell {s : State} (h : MemoriesCanonical s) (d i : Nat) (v : Word) : MemoriesCanonical (s.setCell d i v) := by
  refine MemoriesCanonical.foldl (fun s x hs => ?_) _ (h.of_eq rfl rfl rfl)
  split
  · exact hs
  · exact hs.setDie _ _

/-- Performing a store at its home keeps the memories canonical. -/
theorem MemoriesCanonical.perform {s : State} (h : MemoriesCanonical s) (key : BitVec 256) (l : Loc) (bs : List Byte) (who : Option (Nat × Nat)) :
    MemoriesCanonical (s.perform key l bs who) := by
  cases l with
  | hbm a => exact ((h.putBytes key (.hbm a) bs).breakLink (.hbm a) bs.length who).of_eq rfl rfl rfl
  | scratch c o => exact (h.putBytes key (.scratch c o) bs).breakLink (.scratch c o) bs.length who
  | cell d i => exact h.setCell _ _ _
  | remote m t v => exact (h.putBytes key (.remote m t v) bs).breakLink (.remote m t v) bs.length who
  | line x t v => exact (h.putBytes key (.line x t v) bs).breakLink (.line x t v) bs.length who

/-- A store that takes effect keeps the memories canonical, at its home or buffered. -/
theorem MemoriesCanonical.storeFrom {s : State} (h : MemoriesCanonical s) (die : Nat) (owner : Option Nat) (key : BitVec 256) (l : Loc) (bs : List Byte)
    (who : Option (Nat × Nat)) (src : Option (Nat × Word × Word × Bool)) (vi : Nat) : MemoriesCanonical (s.storeFrom die owner key l bs who src vi) := by
  unfold State.storeFrom
  split
  · exact h.perform key l bs who
  · exact h.of_eq rfl rfl rfl

/-- The memory that the machine starts with is canonical. -/
theorem Memory.wf_reset : State.reset.hbm.wf = true := rfl

end Sys2Proof.Machine
end

