-- ==== Sys2Proof/Laws/Ops.lean ====
section
/-! SUPPORT. What each shared operation does, said once: register writes, retiring, branches, taking a trap, and performing a store at its home. -/

namespace Sys2Proof.Machine

/-! ## One thread -/

/-- Setting a thread changes that thread and nothing else. -/
theorem State.setThread_only (s : State) (tid : Nat) (x : CThread) : OnlyThread s (s.setThread tid x) tid :=
  ⟨rfl, fun _ h => Tab.get_put_ne _ _ _ h⟩

theorem State.setVthread_only (s : State) (tid : Nat) (x : VThread) : OnlyVector s (s.setVthread tid x) tid :=
  ⟨rfl, fun _ h => Tab.get_put_ne _ _ _ h⟩

@[simp] theorem State.thread_setThread_self (s : State) (tid : Nat) (x : CThread) : (s.setThread tid x).thread tid = x := Tab.get_put _ _ _ _

@[simp] theorem State.vthread_setVthread_self (s : State) (tid : Nat) (x : VThread) : (s.setVthread tid x).vthread tid = x := Tab.get_put _ _ _ _

@[simp] theorem State.core_setCore_self (s : State) (c : Nat) (x : CoreSt) : (s.setCore c x).core c = x := Tab.get_put _ _ _ _

@[simp] theorem State.die_setDie_self (s : State) (d : Nat) (x : Die) : (s.setDie d x).die d = x := Tab.get_put _ _ _ _

@[simp] theorem State.vi_setVi_self (s : State) (v : Nat) (x : Vi) : (s.setVi v x).vi v = x := Tab.get_put _ _ _ _

theorem Tab.put_put {α : Type} (k : Nat) (v w : α) (t : Tab α) : Tab.put k w (Tab.put k v t) = Tab.put k w t := by
  induction t with
  | nil => simp [Tab.put]
  | cons e t ih =>
    obtain ⟨k', v'⟩ := e
    simp only [Tab.put]
    split
    · simp [Tab.put]
    · split
      · simp [Tab.put]
      · next h1 h2 => simp [Tab.put, h1, h2, ih]

/-- Of two settings of one thread the later stands. -/
theorem State.setThread_setThread (s : State) (tid : Nat) (x y : CThread) : (s.setThread tid x).setThread tid y = s.setThread tid y := by
  simp only [State.setThread, Tab.put_put]

@[simp] theorem State.reg_zero (s : State) (tid : Nat) : s.reg tid 0 = 0 := rfl

/-- A register write and the end of an instruction, as one setting of its thread. -/
theorem State.setReg_retire (s : State) (tid : Nat) (d : Reg) (v : Word) :
    (s.setReg tid d v).retire tid = s.setThread tid ((s.thread tid).setReg d v).advance := by
  unfold State.retire State.setReg
  rw [State.setThread_setThread, State.thread_setThread_self]

@[simp] theorem CThread.setReg_pc (t : CThread) (d : Reg) (v : Word) : (t.setReg d v).pc = t.pc := by unfold CThread.setReg; split <;> rfl

@[simp] theorem CThread.setReg_icount (t : CThread) (d : Reg) (v : Word) : (t.setReg d v).icount = t.icount := by unfold CThread.setReg; split <;> rfl

/-- Beyond its registers a thread is as before a register write. -/
theorem CThread.setReg_rest (t : CThread) (d : Reg) (v : Word) : { t.setReg d v with regs := t.regs } = t := by unfold CThread.setReg; split <;> rfl

/-- What a register instruction does that writes `v` to `d` and goes on at `pc`. -/
theorem Wrote.of_set (s : State) (tid : Nat) (d : Reg) (v pc : Word) :
    Wrote s (s.setThread tid { ((s.thread tid).setReg d v).advance with pc := pc }) tid d v pc := by
  refine ⟨s.setThread_only tid _, ?_, fun r hr => ?_, ?_, ?_⟩
  · show CThread.reg (State.thread _ tid) d = _
    rw [State.thread_setThread_self]
    exact CThread.reg_setReg _ d v
  · show CThread.reg (State.thread _ tid) r = _
    rw [State.thread_setThread_self]
    exact CThread.reg_setReg_ne _ v hr
  · rw [State.thread_setThread_self]
  · rw [State.thread_setThread_self]
    have h := CThread.setReg_rest (s.thread tid) d v
    have hi := CThread.setReg_icount (s.thread tid) d v
    simp only [CThread.mk.injEq, CThread.advance] at h ⊢
    unfold CThread.setReg
    split <;> simp

/-- `writeRetire` answers a next state, in which the instruction has written `v` to `d` and stands behind itself (R296). -/
theorem writeRetire_wrote (s : State) (d : Reg) (v : Word) :
    ∃ t, writeRetire s d v = .next t ∧ Wrote s t s.cur d v ((s.thread s.cur).pc + 4) := by
  refine ⟨_, rfl, ?_⟩
  rw [State.setReg_retire]
  have h := Wrote.of_set s s.cur d v ((s.thread s.cur).pc + 4)
  have e : ({ ((s.thread s.cur).setReg d v).advance with pc := (s.thread s.cur).pc + 4 } : CThread) = ((s.thread s.cur).setReg d v).advance := by
    simp [CThread.advance]
  rwa [e] at h

/-- A jump that writes no register: the pc moves, ICOUNT counts, and nothing else changes (R303). -/
theorem State.retireTo_wrote (s : State) (tid : Nat) (pc : Word) : Wrote s (s.retireTo tid pc) tid 0 0 pc := by
  have h := Wrote.of_set s tid 0 0 pc
  simpa [State.retireTo, CThread.setReg] using h

/-! ## Traps -/

/-- With no wait and no split asked for there is nothing to abandon. -/
theorem State.abandonWait_none (s : State) (tid : Nat) (h : (s.thread tid).wait = .none) (hp : (s.core (tid / 4)).pendSplit = none) : s.abandonWait tid = s := by
  simp [State.abandonWait, h, hp]

/-- Taking a trap outside a handler, with TVEC set and nothing waited for: the trap registers are written and the handler is next (R240, R241). -/
theorem State.takeTrap_trapped (s : State) (tid : Nat) (cause : BitVec 6) (tval : Word) (retired : Bool)
    (hw : (s.thread tid).wait = .none) (hp : (s.core (tid / 4)).pendSplit = none) (hn : (s.thread tid).nest = false) (hv : (s.thread tid).tvec ≠ 0) :
    Trapped s (s.takeTrap tid cause tval none retired) tid cause tval (s.thread tid).pc retired := by
  have e : s.takeTrap tid cause tval none retired = s.setThread tid (State.enterTrap (s.thread tid) cause tval retired 0 0 0 none) := by
    have hv' : ¬ (s.thread tid).tvec = 0#64 := hv
    simp [State.takeTrap, State.abandonWait_none s tid hw hp, hn, hv']
  rw [e]
  refine ⟨s.setThread_only tid _, ?_, ?_, ?_, ?_, ?_, ?_, ?_, ?_, ?_, ?_⟩ <;> rw [State.thread_setThread_self]
  all_goals first | rfl | skip
  · simp only [State.enterTrap, privCode]
    cases (s.thread tid).priv <;> rfl
  · exact ⟨rfl, rfl, rfl⟩
  · simp only [State.enterTrap, Option.getD_none, ← hw]

/-- Inside a handler, or with TVEC zero, a trap asks for the stop of the task's fault domain with reason 2 (R240, R249). -/
theorem State.takeTrap_double (s : State) (tid : Nat) (cause : BitVec 6) (tval : Word) (x : Option Word) (retired : Bool)
    (hw : (s.thread tid).wait = .none) (hp : (s.core (tid / 4)).pendSplit = none) (h : (s.thread tid).nest = true ∨ (s.thread tid).tvec = 0) :
    s.takeTrap tid cause tval x retired = s.askStop (s.thread tid) 2 := by
  rcases h with h | h <;> simp [State.takeTrap, State.abandonWait_none s tid hw hp, h]

/-! ## Memory at its home -/

@[simp] theorem State.core_setCore_ne (s : State) {c d : Nat} (x : CoreSt) (h : d ≠ c) : (s.setCore c x).core d = s.core d := Tab.get_put_ne _ _ _ h

theorem State.mend_hbm (s : State) (x : Struck) (n i : Nat) : (s.mend x n i).hbm = s.hbm ∧ (s.mend x n i).veils = s.veils ∧
    (s.mend x n i).seals = s.seals ∧ (s.mend x n i).cores = s.cores ∧ (s.mend x n i).dies = s.dies ∧ (s.mend x n i).cells = s.cells := by
  simp only [State.mend]
  repeat' split
  all_goals exact ⟨rfl, rfl, rfl, rfl, rfl, rfl⟩

/-- Writing a byte of a scratchpad makes it read so, under any key. -/
theorem State.homeByte_putByte_scratch (s : State) (key k : BitVec 256) (c o : Nat) (b : Byte) :
    (s.putByte key (.scratch c o) b).homeByte k (.scratch c o) = b := by
  simp only [State.putByte, State.homeByte, State.core]
  rw [(State.mend_hbm _ _ _ _).2.2.2.1]
  simp [State.setCore, Memory.read_write]

/-- No other scratchpad byte changes. -/
theorem State.homeByte_putByte_scratch_ne (s : State) (key k : BitVec 256) {c o c' o' : Nat} (b : Byte) (h : (c', o') ≠ (c, o)) :
    (s.putByte key (.scratch c o) b).homeByte k (.scratch c' o') = s.homeByte k (.scratch c' o') := by
  simp only [State.putByte, State.homeByte, State.core]
  rw [(State.mend_hbm _ _ _ _).2.2.2.1]
  by_cases hc : c' = c
  · subst hc
    have ho : o' ≠ o := fun e => h (by rw [e])
    simp [State.setCore, Memory.read_write_ne _ _ ho]
  · simp [State.setCore, Tab.get_put_ne _ _ _ hc]

/-! ## Words and bytes -/

@[simp] theorem leBytes_length (n x : Nat) : (leBytes n x).length = n := by
  induction n generalizing x with
  | zero => rfl
  | succ n ih => simp [leBytes, ih]

theorem leNat_lt (bs : List Byte) : leNat bs < 256 ^ bs.length := by
  induction bs with
  | nil => simp [leNat]
  | cons b bs ih =>
    have hb : b.toNat < 256 := b.isLt
    simp only [leNat, List.length_cons, Nat.pow_succ]
    omega

/-- The little-endian bytes of a number read back as that number. -/
theorem leNat_leBytes (n x : Nat) : leNat (leBytes n x) = x % 256 ^ n := by
  induction n generalizing x with
  | zero => simp [leBytes, leNat, Nat.mod_one]
  | succ n ih =>
    simp only [leBytes, leNat, ih, BitVec.toNat_ofNat]
    have h : 256 ^ (n + 1) = 256 * 256 ^ n := by rw [Nat.pow_succ, Nat.mul_comm]
    rw [h, Nat.mod_mul]

/-- Bytes read as a number are the little-endian bytes of it. -/
theorem leBytes_leNat (bs : List Byte) : leBytes bs.length (leNat bs) = bs := by
  induction bs with
  | nil => rfl
  | cons b bs ih =>
    have hb : b.toNat < 256 := b.isLt
    have h1 : BitVec.ofNat 8 (b.toNat + 256 * leNat bs) = b := by
      apply BitVec.eq_of_toNat_eq
      simp only [BitVec.toNat_ofNat]
      omega
    have h2 : (b.toNat + 256 * leNat bs) / 256 = leNat bs := by omega
    simp only [List.length_cons, leNat, leBytes, h1, h2, ih]

end Sys2Proof.Machine
end

