-- ==== Sys2Proof/Laws/PerInstr.lean ====
section
/-! SUPPORT. One fact about every instruction's encoding, made per instruction: its word fits its width, and it has one width. -/

set_option Elab.async false

namespace Sys2Proof.Laws

/-- A scalar instruction's word has 32 bits; a vector instruction has no scalar word, and its word has 64 bits. -/
def WordBound.Statement (i : Instr) : Prop :=
  encodeScalar i < 2 ^ 32 ∧ (i.vectorParts ≠ none → encodeScalar i = 0) ∧ encodeVector i < 2 ^ 64

/-- The fields of a vector word stand below its opcode. -/
theorem vfields_lt (f : VFields) : f.toNat < 2 ^ 56 := by
  have := f.vd.isLt; have := f.sa.isLt; have := f.sb.isLt; have := f.sc.isLt; have := f.ty.isLt; have := f.mask.isLt
  have := f.tail.isLt; have := f.nb.isLt; have := f.rs.isLt; have := f.l.isLt; have := f.ext.isLt
  unfold VFields.toNat
  omega

/-- A vector instruction by its opcode and fields. -/
theorem vectorBound (i : Instr) (op : Nat) (f : VFields) (h : i.vectorParts = some (op, f)) (ho : op < 256) (hs : encodeScalar i = 0) : WordBound.Statement i := by
  refine ⟨by rw [hs]; decide, fun _ => hs, ?_⟩
  have hf := vfields_lt f
  simp only [encodeVector, h]
  omega

/-- A scalar instruction by the bound of its word. -/
theorem scalarBound (i : Instr) (h : i.vectorParts = none) (hs : encodeScalar i < 2 ^ 32) : WordBound.Statement i :=
  ⟨hs, fun hn => absurd h hn, by simp only [encodeVector, h]; decide⟩

/-- A constructor without an encoding. -/
theorem noWord (i : Instr) (h : i.vectorParts = none) (hs : encodeScalar i = 0) : WordBound.Statement i := scalarBound i h (by rw [hs]; decide)

theorem WordBound.add (d : BitVec 5) (a : BitVec 5) (b : BitVec 5) : WordBound.Statement (.add d a b) := scalarBound _ rfl (by have := d.isLt; have := a.isLt; have := b.isLt; show packFields 0x04000000 [(d.toNat, 21), (a.toNat, 16), (b.toNat, 11)] < 2 ^ 32; simp only [packFields]; omega)
theorem WordBound.sub (d : BitVec 5) (a : BitVec 5) (b : BitVec 5) : WordBound.Statement (.sub d a b) := scalarBound _ rfl (by have := d.isLt; have := a.isLt; have := b.isLt; show packFields 0x04000040 [(d.toNat, 21), (a.toNat, 16), (b.toNat, 11)] < 2 ^ 32; simp only [packFields]; omega)
theorem WordBound.and (d : BitVec 5) (a : BitVec 5) (b : BitVec 5) : WordBound.Statement (.and d a b) := scalarBound _ rfl (by have := d.isLt; have := a.isLt; have := b.isLt; show packFields 0x04000080 [(d.toNat, 21), (a.toNat, 16), (b.toNat, 11)] < 2 ^ 32; simp only [packFields]; omega)
theorem WordBound.or (d : BitVec 5) (a : BitVec 5) (b : BitVec 5) : WordBound.Statement (.or d a b) := scalarBound _ rfl (by have := d.isLt; have := a.isLt; have := b.isLt; show packFields 0x040000C0 [(d.toNat, 21), (a.toNat, 16), (b.toNat, 11)] < 2 ^ 32; simp only [packFields]; omega)
theorem WordBound.xor (d : BitVec 5) (a : BitVec 5) (b : BitVec 5) : WordBound.Statement (.xor d a b) := scalarBound _ rfl (by have := d.isLt; have := a.isLt; have := b.isLt; show packFields 0x04000100 [(d.toNat, 21), (a.toNat, 16), (b.toNat, 11)] < 2 ^ 32; simp only [packFields]; omega)
theorem WordBound.shl (d : BitVec 5) (a : BitVec 5) (b : BitVec 5) : WordBound.Statement (.shl d a b) := scalarBound _ rfl (by have := d.isLt; have := a.isLt; have := b.isLt; show packFields 0x04000140 [(d.toNat, 21), (a.toNat, 16), (b.toNat, 11)] < 2 ^ 32; simp only [packFields]; omega)
theorem WordBound.shr (d : BitVec 5) (a : BitVec 5) (b : BitVec 5) : WordBound.Statement (.shr d a b) := scalarBound _ rfl (by have := d.isLt; have := a.isLt; have := b.isLt; show packFields 0x04000180 [(d.toNat, 21), (a.toNat, 16), (b.toNat, 11)] < 2 ^ 32; simp only [packFields]; omega)
theorem WordBound.sra (d : BitVec 5) (a : BitVec 5) (b : BitVec 5) : WordBound.Statement (.sra d a b) := scalarBound _ rfl (by have := d.isLt; have := a.isLt; have := b.isLt; show packFields 0x040001C0 [(d.toNat, 21), (a.toNat, 16), (b.toNat, 11)] < 2 ^ 32; simp only [packFields]; omega)
theorem WordBound.mul (d : BitVec 5) (a : BitVec 5) (b : BitVec 5) : WordBound.Statement (.mul d a b) := scalarBound _ rfl (by have := d.isLt; have := a.isLt; have := b.isLt; show packFields 0x04000200 [(d.toNat, 21), (a.toNat, 16), (b.toNat, 11)] < 2 ^ 32; simp only [packFields]; omega)
theorem WordBound.mulh (d : BitVec 5) (a : BitVec 5) (b : BitVec 5) : WordBound.Statement (.mulh d a b) := scalarBound _ rfl (by have := d.isLt; have := a.isLt; have := b.isLt; show packFields 0x04000240 [(d.toNat, 21), (a.toNat, 16), (b.toNat, 11)] < 2 ^ 32; simp only [packFields]; omega)
theorem WordBound.mulhn (d : BitVec 5) (a : BitVec 5) (b : BitVec 5) : WordBound.Statement (.mulhn d a b) := scalarBound _ rfl (by have := d.isLt; have := a.isLt; have := b.isLt; show packFields 0x04000280 [(d.toNat, 21), (a.toNat, 16), (b.toNat, 11)] < 2 ^ 32; simp only [packFields]; omega)
theorem WordBound.div (d : BitVec 5) (a : BitVec 5) (b : BitVec 5) : WordBound.Statement (.div d a b) := scalarBound _ rfl (by have := d.isLt; have := a.isLt; have := b.isLt; show packFields 0x040002C0 [(d.toNat, 21), (a.toNat, 16), (b.toNat, 11)] < 2 ^ 32; simp only [packFields]; omega)
theorem WordBound.divn (d : BitVec 5) (a : BitVec 5) (b : BitVec 5) : WordBound.Statement (.divn d a b) := scalarBound _ rfl (by have := d.isLt; have := a.isLt; have := b.isLt; show packFields 0x04000300 [(d.toNat, 21), (a.toNat, 16), (b.toNat, 11)] < 2 ^ 32; simp only [packFields]; omega)
theorem WordBound.rem (d : BitVec 5) (a : BitVec 5) (b : BitVec 5) : WordBound.Statement (.rem d a b) := scalarBound _ rfl (by have := d.isLt; have := a.isLt; have := b.isLt; show packFields 0x04000340 [(d.toNat, 21), (a.toNat, 16), (b.toNat, 11)] < 2 ^ 32; simp only [packFields]; omega)
theorem WordBound.remn (d : BitVec 5) (a : BitVec 5) (b : BitVec 5) : WordBound.Statement (.remn d a b) := scalarBound _ rfl (by have := d.isLt; have := a.isLt; have := b.isLt; show packFields 0x04000380 [(d.toNat, 21), (a.toNat, 16), (b.toNat, 11)] < 2 ^ 32; simp only [packFields]; omega)
theorem WordBound.slt (d : BitVec 5) (a : BitVec 5) (b : BitVec 5) : WordBound.Statement (.slt d a b) := scalarBound _ rfl (by have := d.isLt; have := a.isLt; have := b.isLt; show packFields 0x040003C0 [(d.toNat, 21), (a.toNat, 16), (b.toNat, 11)] < 2 ^ 32; simp only [packFields]; omega)
theorem WordBound.sltn (d : BitVec 5) (a : BitVec 5) (b : BitVec 5) : WordBound.Statement (.sltn d a b) := scalarBound _ rfl (by have := d.isLt; have := a.isLt; have := b.isLt; show packFields 0x04000400 [(d.toNat, 21), (a.toNat, 16), (b.toNat, 11)] < 2 ^ 32; simp only [packFields]; omega)
theorem WordBound.min (d : BitVec 5) (a : BitVec 5) (b : BitVec 5) : WordBound.Statement (.min d a b) := scalarBound _ rfl (by have := d.isLt; have := a.isLt; have := b.isLt; show packFields 0x04000440 [(d.toNat, 21), (a.toNat, 16), (b.toNat, 11)] < 2 ^ 32; simp only [packFields]; omega)
theorem WordBound.max (d : BitVec 5) (a : BitVec 5) (b : BitVec 5) : WordBound.Statement (.max d a b) := scalarBound _ rfl (by have := d.isLt; have := a.isLt; have := b.isLt; show packFields 0x04000480 [(d.toNat, 21), (a.toNat, 16), (b.toNat, 11)] < 2 ^ 32; simp only [packFields]; omega)
theorem WordBound.minn (d : BitVec 5) (a : BitVec 5) (b : BitVec 5) : WordBound.Statement (.minn d a b) := scalarBound _ rfl (by have := d.isLt; have := a.isLt; have := b.isLt; show packFields 0x040004C0 [(d.toNat, 21), (a.toNat, 16), (b.toNat, 11)] < 2 ^ 32; simp only [packFields]; omega)
theorem WordBound.maxn (d : BitVec 5) (a : BitVec 5) (b : BitVec 5) : WordBound.Statement (.maxn d a b) := scalarBound _ rfl (by have := d.isLt; have := a.isLt; have := b.isLt; show packFields 0x04000500 [(d.toNat, 21), (a.toNat, 16), (b.toNat, 11)] < 2 ^ 32; simp only [packFields]; omega)
theorem WordBound.clz (d : BitVec 5) (a : BitVec 5) : WordBound.Statement (.clz d a) := scalarBound _ rfl (by have := d.isLt; have := a.isLt; show packFields 0x04000540 [(d.toNat, 21), (a.toNat, 16)] < 2 ^ 32; simp only [packFields]; omega)
theorem WordBound.popc (d : BitVec 5) (a : BitVec 5) : WordBound.Statement (.popc d a) := scalarBound _ rfl (by have := d.isLt; have := a.isLt; show packFields 0x04000580 [(d.toNat, 21), (a.toNat, 16)] < 2 ^ 32; simp only [packFields]; omega)
theorem WordBound.addi (d : BitVec 5) (a : BitVec 5) (i : BitVec 16) : WordBound.Statement (.addi d a i) := scalarBound _ rfl (by have := d.isLt; have := a.isLt; have := i.isLt; show packFields 0x08000000 [(d.toNat, 21), (a.toNat, 16), (i.toNat, 0)] < 2 ^ 32; simp only [packFields]; omega)
theorem WordBound.andi (d : BitVec 5) (a : BitVec 5) (i : BitVec 16) : WordBound.Statement (.andi d a i) := scalarBound _ rfl (by have := d.isLt; have := a.isLt; have := i.isLt; show packFields 0x0C000000 [(d.toNat, 21), (a.toNat, 16), (i.toNat, 0)] < 2 ^ 32; simp only [packFields]; omega)
theorem WordBound.ori (d : BitVec 5) (a : BitVec 5) (i : BitVec 16) : WordBound.Statement (.ori d a i) := scalarBound _ rfl (by have := d.isLt; have := a.isLt; have := i.isLt; show packFields 0x10000000 [(d.toNat, 21), (a.toNat, 16), (i.toNat, 0)] < 2 ^ 32; simp only [packFields]; omega)
theorem WordBound.xori (d : BitVec 5) (a : BitVec 5) (i : BitVec 16) : WordBound.Statement (.xori d a i) := scalarBound _ rfl (by have := d.isLt; have := a.isLt; have := i.isLt; show packFields 0x14000000 [(d.toNat, 21), (a.toNat, 16), (i.toNat, 0)] < 2 ^ 32; simp only [packFields]; omega)
theorem WordBound.shli (d : BitVec 5) (a : BitVec 5) (i : BitVec 6) : WordBound.Statement (.shli d a i) := scalarBound _ rfl (by have := d.isLt; have := a.isLt; have := i.isLt; show packFields 0x18000000 [(d.toNat, 21), (a.toNat, 16), (i.toNat, 0)] < 2 ^ 32; simp only [packFields]; omega)
theorem WordBound.shri (d : BitVec 5) (a : BitVec 5) (i : BitVec 6) : WordBound.Statement (.shri d a i) := scalarBound _ rfl (by have := d.isLt; have := a.isLt; have := i.isLt; show packFields 0x1C000000 [(d.toNat, 21), (a.toNat, 16), (i.toNat, 0)] < 2 ^ 32; simp only [packFields]; omega)
theorem WordBound.srai (d : BitVec 5) (a : BitVec 5) (i : BitVec 6) : WordBound.Statement (.srai d a i) := scalarBound _ rfl (by have := d.isLt; have := a.isLt; have := i.isLt; show packFields 0x20000000 [(d.toNat, 21), (a.toNat, 16), (i.toNat, 0)] < 2 ^ 32; simp only [packFields]; omega)
theorem WordBound.slti (d : BitVec 5) (a : BitVec 5) (i : BitVec 16) : WordBound.Statement (.slti d a i) := scalarBound _ rfl (by have := d.isLt; have := a.isLt; have := i.isLt; show packFields 0x24000000 [(d.toNat, 21), (a.toNat, 16), (i.toNat, 0)] < 2 ^ 32; simp only [packFields]; omega)
theorem WordBound.sltni (d : BitVec 5) (a : BitVec 5) (i : BitVec 16) : WordBound.Statement (.sltni d a i) := scalarBound _ rfl (by have := d.isLt; have := a.isLt; have := i.isLt; show packFields 0x28000000 [(d.toNat, 21), (a.toNat, 16), (i.toNat, 0)] < 2 ^ 32; simp only [packFields]; omega)
theorem WordBound.limc (d : BitVec 5) (c : BitVec 2) (i : BitVec 16) : WordBound.Statement (.limc d c i) := scalarBound _ rfl (by have := d.isLt; have := c.isLt; have := i.isLt; show packFields 0x2C000000 [(d.toNat, 21), (c.toNat, 16), (i.toNat, 0)] < 2 ^ 32; simp only [packFields]; omega)
theorem WordBound.addpc (d : BitVec 5) (i : BitVec 16) : WordBound.Statement (.addpc d i) := scalarBound _ rfl (by have := d.isLt; have := i.isLt; show packFields 0x30000000 [(d.toNat, 21), (i.toNat, 0)] < 2 ^ 32; simp only [packFields]; omega)
theorem WordBound.ld (g : BitVec 5) (a : BitVec 5) (s : BitVec 3) (p : BitVec 2) (o : BitVec 11) : WordBound.Statement (.ld g a s p o) := scalarBound _ rfl (by have := g.isLt; have := a.isLt; have := s.isLt; have := p.isLt; have := o.isLt; show packFields 0x34000000 [(g.toNat, 21), (a.toNat, 16), (s.toNat, 13), (p.toNat, 11), (o.toNat, 0)] < 2 ^ 32; simp only [packFields]; omega)
theorem WordBound.st (g : BitVec 5) (a : BitVec 5) (s : BitVec 3) (p : BitVec 2) (o : BitVec 11) : WordBound.Statement (.st g a s p o) := scalarBound _ rfl (by have := g.isLt; have := a.isLt; have := s.isLt; have := p.isLt; have := o.isLt; show packFields 0x38000000 [(g.toNat, 21), (a.toNat, 16), (s.toNat, 13), (p.toNat, 11), (o.toNat, 0)] < 2 ^ 32; simp only [packFields]; omega)
theorem WordBound.beq (a : BitVec 5) (b : BitVec 5) (i : BitVec 16) : WordBound.Statement (.beq a b i) := scalarBound _ rfl (by have := a.isLt; have := b.isLt; have := i.isLt; show packFields 0x3C000000 [(a.toNat, 21), (b.toNat, 16), (i.toNat, 0)] < 2 ^ 32; simp only [packFields]; omega)
theorem WordBound.bne (a : BitVec 5) (b : BitVec 5) (i : BitVec 16) : WordBound.Statement (.bne a b i) := scalarBound _ rfl (by have := a.isLt; have := b.isLt; have := i.isLt; show packFields 0x40000000 [(a.toNat, 21), (b.toNat, 16), (i.toNat, 0)] < 2 ^ 32; simp only [packFields]; omega)
theorem WordBound.blt (a : BitVec 5) (b : BitVec 5) (i : BitVec 16) : WordBound.Statement (.blt a b i) := scalarBound _ rfl (by have := a.isLt; have := b.isLt; have := i.isLt; show packFields 0x44000000 [(a.toNat, 21), (b.toNat, 16), (i.toNat, 0)] < 2 ^ 32; simp only [packFields]; omega)
theorem WordBound.bge (a : BitVec 5) (b : BitVec 5) (i : BitVec 16) : WordBound.Statement (.bge a b i) := scalarBound _ rfl (by have := a.isLt; have := b.isLt; have := i.isLt; show packFields 0x48000000 [(a.toNat, 21), (b.toNat, 16), (i.toNat, 0)] < 2 ^ 32; simp only [packFields]; omega)
theorem WordBound.bltn (a : BitVec 5) (b : BitVec 5) (i : BitVec 16) : WordBound.Statement (.bltn a b i) := scalarBound _ rfl (by have := a.isLt; have := b.isLt; have := i.isLt; show packFields 0x4C000000 [(a.toNat, 21), (b.toNat, 16), (i.toNat, 0)] < 2 ^ 32; simp only [packFields]; omega)
theorem WordBound.bgen (a : BitVec 5) (b : BitVec 5) (i : BitVec 16) : WordBound.Statement (.bgen a b i) := scalarBound _ rfl (by have := a.isLt; have := b.isLt; have := i.isLt; show packFields 0x50000000 [(a.toNat, 21), (b.toNat, 16), (i.toNat, 0)] < 2 ^ 32; simp only [packFields]; omega)
theorem WordBound.jmp (i : BitVec 26) : WordBound.Statement (.jmp i) := scalarBound _ rfl (by have := i.isLt; show packFields 0x54000000 [(i.toNat, 0)] < 2 ^ 32; simp only [packFields]; omega)
theorem WordBound.call (i : BitVec 26) : WordBound.Statement (.call i) := scalarBound _ rfl (by have := i.isLt; show packFields 0x58000000 [(i.toNat, 0)] < 2 ^ 32; simp only [packFields]; omega)
theorem WordBound.jmpr (d : BitVec 5) (a : BitVec 5) (i : BitVec 16) : WordBound.Statement (.jmpr d a i) := scalarBound _ rfl (by have := d.isLt; have := a.isLt; have := i.isLt; show packFields 0x5C000000 [(d.toNat, 21), (a.toNat, 16), (i.toNat, 0)] < 2 ^ 32; simp only [packFields]; omega)
theorem WordBound.amoAdd (d : BitVec 5) (a : BitVec 5) (b : BitVec 5) (l : BitVec 1) (o : BitVec 2) (c : BitVec 3) (w : BitVec 1) : WordBound.Statement (.amoAdd d a b l o c w) := scalarBound _ rfl (by have := d.isLt; have := a.isLt; have := b.isLt; have := l.isLt; have := o.isLt; have := c.isLt; have := w.isLt; show packFields 0x60000000 [(d.toNat, 21), (a.toNat, 16), (b.toNat, 11), (l.toNat, 10), (o.toNat, 4), (c.toNat, 1), (w.toNat, 0)] < 2 ^ 32; simp only [packFields]; omega)
theorem WordBound.amoAnd (d : BitVec 5) (a : BitVec 5) (b : BitVec 5) (l : BitVec 1) (o : BitVec 2) (c : BitVec 3) (w : BitVec 1) : WordBound.Statement (.amoAnd d a b l o c w) := scalarBound _ rfl (by have := d.isLt; have := a.isLt; have := b.isLt; have := l.isLt; have := o.isLt; have := c.isLt; have := w.isLt; show packFields 0x60000040 [(d.toNat, 21), (a.toNat, 16), (b.toNat, 11), (l.toNat, 10), (o.toNat, 4), (c.toNat, 1), (w.toNat, 0)] < 2 ^ 32; simp only [packFields]; omega)
theorem WordBound.amoOr (d : BitVec 5) (a : BitVec 5) (b : BitVec 5) (l : BitVec 1) (o : BitVec 2) (c : BitVec 3) (w : BitVec 1) : WordBound.Statement (.amoOr d a b l o c w) := scalarBound _ rfl (by have := d.isLt; have := a.isLt; have := b.isLt; have := l.isLt; have := o.isLt; have := c.isLt; have := w.isLt; show packFields 0x60000080 [(d.toNat, 21), (a.toNat, 16), (b.toNat, 11), (l.toNat, 10), (o.toNat, 4), (c.toNat, 1), (w.toNat, 0)] < 2 ^ 32; simp only [packFields]; omega)
theorem WordBound.amoXor (d : BitVec 5) (a : BitVec 5) (b : BitVec 5) (l : BitVec 1) (o : BitVec 2) (c : BitVec 3) (w : BitVec 1) : WordBound.Statement (.amoXor d a b l o c w) := scalarBound _ rfl (by have := d.isLt; have := a.isLt; have := b.isLt; have := l.isLt; have := o.isLt; have := c.isLt; have := w.isLt; show packFields 0x600000C0 [(d.toNat, 21), (a.toNat, 16), (b.toNat, 11), (l.toNat, 10), (o.toNat, 4), (c.toNat, 1), (w.toNat, 0)] < 2 ^ 32; simp only [packFields]; omega)
theorem WordBound.amoSwp (d : BitVec 5) (a : BitVec 5) (b : BitVec 5) (l : BitVec 1) (o : BitVec 2) (c : BitVec 3) (w : BitVec 1) : WordBound.Statement (.amoSwp d a b l o c w) := scalarBound _ rfl (by have := d.isLt; have := a.isLt; have := b.isLt; have := l.isLt; have := o.isLt; have := c.isLt; have := w.isLt; show packFields 0x60000100 [(d.toNat, 21), (a.toNat, 16), (b.toNat, 11), (l.toNat, 10), (o.toNat, 4), (c.toNat, 1), (w.toNat, 0)] < 2 ^ 32; simp only [packFields]; omega)
theorem WordBound.amoCas (d : BitVec 5) (a : BitVec 5) (b : BitVec 5) (l : BitVec 1) (o : BitVec 2) (c : BitVec 3) (w : BitVec 1) : WordBound.Statement (.amoCas d a b l o c w) := scalarBound _ rfl (by have := d.isLt; have := a.isLt; have := b.isLt; have := l.isLt; have := o.isLt; have := c.isLt; have := w.isLt; show packFields 0x60000140 [(d.toNat, 21), (a.toNat, 16), (b.toNat, 11), (l.toNat, 10), (o.toNat, 4), (c.toNat, 1), (w.toNat, 0)] < 2 ^ 32; simp only [packFields]; omega)
theorem WordBound.amoMin (d : BitVec 5) (a : BitVec 5) (b : BitVec 5) (l : BitVec 1) (o : BitVec 2) (c : BitVec 3) (w : BitVec 1) : WordBound.Statement (.amoMin d a b l o c w) := scalarBound _ rfl (by have := d.isLt; have := a.isLt; have := b.isLt; have := l.isLt; have := o.isLt; have := c.isLt; have := w.isLt; show packFields 0x60000180 [(d.toNat, 21), (a.toNat, 16), (b.toNat, 11), (l.toNat, 10), (o.toNat, 4), (c.toNat, 1), (w.toNat, 0)] < 2 ^ 32; simp only [packFields]; omega)
theorem WordBound.amoMax (d : BitVec 5) (a : BitVec 5) (b : BitVec 5) (l : BitVec 1) (o : BitVec 2) (c : BitVec 3) (w : BitVec 1) : WordBound.Statement (.amoMax d a b l o c w) := scalarBound _ rfl (by have := d.isLt; have := a.isLt; have := b.isLt; have := l.isLt; have := o.isLt; have := c.isLt; have := w.isLt; show packFields 0x600001C0 [(d.toNat, 21), (a.toNat, 16), (b.toNat, 11), (l.toNat, 10), (o.toNat, 4), (c.toNat, 1), (w.toNat, 0)] < 2 ^ 32; simp only [packFields]; omega)
theorem WordBound.amoMinn (d : BitVec 5) (a : BitVec 5) (b : BitVec 5) (l : BitVec 1) (o : BitVec 2) (c : BitVec 3) (w : BitVec 1) : WordBound.Statement (.amoMinn d a b l o c w) := scalarBound _ rfl (by have := d.isLt; have := a.isLt; have := b.isLt; have := l.isLt; have := o.isLt; have := c.isLt; have := w.isLt; show packFields 0x60000200 [(d.toNat, 21), (a.toNat, 16), (b.toNat, 11), (l.toNat, 10), (o.toNat, 4), (c.toNat, 1), (w.toNat, 0)] < 2 ^ 32; simp only [packFields]; omega)
theorem WordBound.amoMaxn (d : BitVec 5) (a : BitVec 5) (b : BitVec 5) (l : BitVec 1) (o : BitVec 2) (c : BitVec 3) (w : BitVec 1) : WordBound.Statement (.amoMaxn d a b l o c w) := scalarBound _ rfl (by have := d.isLt; have := a.isLt; have := b.isLt; have := l.isLt; have := o.isLt; have := c.isLt; have := w.isLt; show packFields 0x60000240 [(d.toNat, 21), (a.toNat, 16), (b.toNat, 11), (l.toNat, 10), (o.toNat, 4), (c.toNat, 1), (w.toNat, 0)] < 2 ^ 32; simp only [packFields]; omega)
theorem WordBound.csrr (d : BitVec 5) (f : BitVec 12) : WordBound.Statement (.csrr d f) := scalarBound _ rfl (by have := d.isLt; have := f.isLt; show packFields 0x64000000 [(d.toNat, 21), (f.toNat, 0)] < 2 ^ 32; simp only [packFields]; omega)
theorem WordBound.csrw (d : BitVec 5) (a : BitVec 5) (f : BitVec 12) : WordBound.Statement (.csrw d a f) := scalarBound _ rfl (by have := d.isLt; have := a.isLt; have := f.isLt; show packFields 0x64001000 [(d.toNat, 21), (a.toNat, 16), (f.toNat, 0)] < 2 ^ 32; simp only [packFields]; omega)
theorem WordBound.csrs (d : BitVec 5) (a : BitVec 5) (f : BitVec 12) : WordBound.Statement (.csrs d a f) := scalarBound _ rfl (by have := d.isLt; have := a.isLt; have := f.isLt; show packFields 0x64002000 [(d.toNat, 21), (a.toNat, 16), (f.toNat, 0)] < 2 ^ 32; simp only [packFields]; omega)
theorem WordBound.csrc (d : BitVec 5) (a : BitVec 5) (f : BitVec 12) : WordBound.Statement (.csrc d a f) := scalarBound _ rfl (by have := d.isLt; have := a.isLt; have := f.isLt; show packFields 0x64003000 [(d.toNat, 21), (a.toNat, 16), (f.toNat, 0)] < 2 ^ 32; simp only [packFields]; omega)
theorem WordBound.setlen (d : BitVec 5) (a : BitVec 5) : WordBound.Statement (.setlen d a) := scalarBound _ rfl (by have := d.isLt; have := a.isLt; show packFields 0x68000000 [(d.toNat, 21), (a.toNat, 16)] < 2 ^ 32; simp only [packFields]; omega)
theorem WordBound.setlen2d (d : BitVec 5) (a : BitVec 5) : WordBound.Statement (.setlen2d d a) := scalarBound _ rfl (by have := d.isLt; have := a.isLt; show packFields 0x68000001 [(d.toNat, 21), (a.toNat, 16)] < 2 ^ 32; simp only [packFields]; omega)
theorem WordBound.vsplit (n : BitVec 12) : WordBound.Statement (.vsplit n) := scalarBound _ rfl (by have := n.isLt; show packFields 0x68001000 [(n.toNat, 0)] < 2 ^ 32; simp only [packFields]; omega)
theorem WordBound.vmerge : WordBound.Statement (.vmerge) := scalarBound _ rfl (by decide)
theorem WordBound.varg (a : BitVec 5) (k : BitVec 3) : WordBound.Statement (.varg a k) := scalarBound _ rfl (by have := a.isLt; have := k.isLt; show packFields 0x68003000 [(a.toNat, 16), (k.toNat, 0)] < 2 ^ 32; simp only [packFields]; omega)
theorem WordBound.vpop (d : BitVec 5) : WordBound.Statement (.vpop d) := scalarBound _ rfl (by have := d.isLt; show packFields 0x68004000 [(d.toNat, 21)] < 2 ^ 32; simp only [packFields]; omega)
theorem WordBound.vqwait (a : BitVec 5) : WordBound.Statement (.vqwait a) := scalarBound _ rfl (by have := a.isLt; show packFields 0x68005000 [(a.toNat, 16)] < 2 ^ 32; simp only [packFields]; omega)
theorem WordBound.vqwaitAll : WordBound.Statement (.vqwaitAll) := scalarBound _ rfl (by decide)
theorem WordBound.vseq (d : BitVec 5) : WordBound.Statement (.vseq d) := scalarBound _ rfl (by have := d.isLt; show packFields 0x68006000 [(d.toNat, 21)] < 2 ^ 32; simp only [packFields]; omega)
theorem WordBound.vfLabel (i : BitVec 16) : WordBound.Statement (.vfLabel i) := scalarBound _ rfl (by have := i.isLt; show packFields 0x6C200000 [(i.toNat, 0)] < 2 ^ 32; simp only [packFields]; omega)
theorem WordBound.vfReg (a : BitVec 5) (i : BitVec 16) : WordBound.Statement (.vfReg a i) := scalarBound _ rfl (by have := a.isLt; have := i.isLt; show packFields 0x6C000000 [(a.toNat, 16), (i.toNat, 0)] < 2 ^ 32; simp only [packFields]; omega)
theorem WordBound.fenceSv : WordBound.Statement (.fenceSv) := scalarBound _ rfl (by decide)
theorem WordBound.fenceVs : WordBound.Statement (.fenceVs) := scalarBound _ rfl (by decide)
theorem WordBound.fenceVv : WordBound.Statement (.fenceVv) := scalarBound _ rfl (by decide)
theorem WordBound.fenceScoped (o : BitVec 2) (c : BitVec 3) : WordBound.Statement (.fenceScoped o c) := scalarBound _ rfl (by have := o.isLt; have := c.isLt; show packFields 0x70003000 [(o.toNat, 4), (c.toNat, 1)] < 2 ^ 32; simp only [packFields]; omega)
theorem WordBound.trap (c : BitVec 12) : WordBound.Statement (.trap c) := scalarBound _ rfl (by have := c.isLt; show packFields 0x74000000 [(c.toNat, 0)] < 2 ^ 32; simp only [packFields]; omega)
theorem WordBound.rte : WordBound.Statement (.rte) := scalarBound _ rfl (by decide)
theorem WordBound.wfe (d : BitVec 5) (a : BitVec 5) (b : BitVec 5) (p : BitVec 2) : WordBound.Statement (.wfe d a b p) := scalarBound _ rfl (by have := d.isLt; have := a.isLt; have := b.isLt; have := p.isLt; show packFields 0x74002000 [(d.toNat, 21), (a.toNat, 16), (b.toNat, 7), (p.toNat, 0)] < 2 ^ 32; simp only [packFields]; omega)
theorem WordBound.park (d : BitVec 5) (a : BitVec 5) : WordBound.Statement (.park d a) := scalarBound _ rfl (by have := d.isLt; have := a.isLt; show packFields 0x74003000 [(d.toNat, 21), (a.toNat, 16)] < 2 ^ 32; simp only [packFields]; omega)
theorem WordBound.yield : WordBound.Statement (.yield) := scalarBound _ rfl (by decide)
theorem WordBound.exit : WordBound.Statement (.exit) := scalarBound _ rfl (by decide)
theorem WordBound.brk : WordBound.Statement (.brk) := scalarBound _ rfl (by decide)
theorem WordBound.iflush : WordBound.Statement (.iflush) := scalarBound _ rfl (by decide)
theorem WordBound.tlbinvPg (a : BitVec 5) (c : BitVec 3) (s : BitVec 4) : WordBound.Statement (.tlbinvPg a c s) := scalarBound _ rfl (by have := a.isLt; have := c.isLt; have := s.isLt; show packFields 0x74008000 [(a.toNat, 16), (c.toNat, 9), (s.toNat, 0)] < 2 ^ 32; simp only [packFields]; omega)
theorem WordBound.tlbinvAs (c : BitVec 3) (s : BitVec 4) : WordBound.Statement (.tlbinvAs c s) := scalarBound _ rfl (by have := c.isLt; have := s.isLt; show packFields 0x74008080 [(c.toNat, 9), (s.toNat, 0)] < 2 ^ 32; simp only [packFields]; omega)
theorem WordBound.tlbinvVi (c : BitVec 3) : WordBound.Statement (.tlbinvVi c) := scalarBound _ rfl (by have := c.isLt; show packFields 0x74008100 [(c.toNat, 9)] < 2 ^ 32; simp only [packFields]; omega)
theorem WordBound.launch (d : BitVec 5) (a : BitVec 5) : WordBound.Statement (.launch d a) := scalarBound _ rfl (by have := d.isLt; have := a.isLt; show packFields 0x74009000 [(d.toNat, 21), (a.toNat, 16)] < 2 ^ 32; simp only [packFields]; omega)
theorem WordBound.eput (a : BitVec 5) (e : BitVec 6) : WordBound.Statement (.eput a e) := scalarBound _ rfl (by have := a.isLt; have := e.isLt; show packFields 0x78000000 [(a.toNat, 16), (e.toNat, 0)] < 2 ^ 32; simp only [packFields]; omega)
theorem WordBound.eget (d : BitVec 5) (e : BitVec 6) : WordBound.Statement (.eget d e) := scalarBound _ rfl (by have := d.isLt; have := e.isLt; show packFields 0x78000040 [(d.toNat, 21), (e.toNat, 0)] < 2 ^ 32; simp only [packFields]; omega)
theorem WordBound.ecnt (d : BitVec 5) (e : BitVec 6) : WordBound.Statement (.ecnt d e) := scalarBound _ rfl (by have := d.isLt; have := e.isLt; show packFields 0x78000080 [(d.toNat, 21), (e.toNat, 0)] < 2 ^ 32; simp only [packFields]; omega)
theorem WordBound.sytas (d : BitVec 5) (a : BitVec 5) (b : BitVec 5) (o : BitVec 2) (c : BitVec 3) : WordBound.Statement (.sytas d a b o c) := scalarBound _ rfl (by have := d.isLt; have := a.isLt; have := b.isLt; have := o.isLt; have := c.isLt; show packFields 0x7C000001 [(d.toNat, 21), (a.toNat, 16), (b.toNat, 11), (o.toNat, 4), (c.toNat, 1)] < 2 ^ 32; simp only [packFields]; omega)
theorem WordBound.syadd (d : BitVec 5) (a : BitVec 5) (b : BitVec 5) (o : BitVec 2) (c : BitVec 3) : WordBound.Statement (.syadd d a b o c) := scalarBound _ rfl (by have := d.isLt; have := a.isLt; have := b.isLt; have := o.isLt; have := c.isLt; show packFields 0x7C000041 [(d.toNat, 21), (a.toNat, 16), (b.toNat, 11), (o.toNat, 4), (c.toNat, 1)] < 2 ^ 32; simp only [packFields]; omega)
theorem WordBound.syrd (d : BitVec 5) (a : BitVec 5) (o : BitVec 1) (c : BitVec 3) : WordBound.Statement (.syrd d a o c) := scalarBound _ rfl (by have := d.isLt; have := a.isLt; have := o.isLt; have := c.isLt; show packFields 0x7C000081 [(d.toNat, 21), (a.toNat, 16), (o.toNat, 4), (c.toNat, 1)] < 2 ^ 32; simp only [packFields]; omega)
theorem WordBound.tclaim (d : BitVec 5) (a : BitVec 5) (c : BitVec 7) : WordBound.Statement (.tclaim d a c) := scalarBound _ rfl (by have := d.isLt; have := a.isLt; have := c.isLt; show packFields 0x80000000 [(d.toNat, 21), (a.toNat, 16), (c.toNat, 0)] < 2 ^ 32; simp only [packFields]; omega)
theorem WordBound.tclaimP (d : BitVec 5) (a : BitVec 5) (c : BitVec 7) : WordBound.Statement (.tclaimP d a c) := scalarBound _ rfl (by have := d.isLt; have := a.isLt; have := c.isLt; show packFields 0x80000400 [(d.toNat, 21), (a.toNat, 16), (c.toNat, 0)] < 2 ^ 32; simp only [packFields]; omega)
theorem WordBound.tclaimA (d : BitVec 5) : WordBound.Statement (.tclaimA d) := scalarBound _ rfl (by have := d.isLt; show packFields 0x80000800 [(d.toNat, 21)] < 2 ^ 32; simp only [packFields]; omega)
theorem WordBound.trel (a : BitVec 5) : WordBound.Statement (.trel a) := scalarBound _ rfl (by have := a.isLt; show packFields 0x80001000 [(a.toNat, 16)] < 2 ^ 32; simp only [packFields]; omega)
theorem WordBound.trelA (a : BitVec 5) : WordBound.Statement (.trelA a) := scalarBound _ rfl (by have := a.isLt; show packFields 0x80001800 [(a.toNat, 16)] < 2 ^ 32; simp only [packFields]; omega)
theorem WordBound.tstat (d : BitVec 5) (a : BitVec 5) : WordBound.Statement (.tstat d a) := scalarBound _ rfl (by have := d.isLt; have := a.isLt; show packFields 0x80002000 [(d.toNat, 21), (a.toNat, 16)] < 2 ^ 32; simp only [packFields]; omega)
theorem WordBound.tstatA (d : BitVec 5) (a : BitVec 5) : WordBound.Statement (.tstatA d a) := scalarBound _ rfl (by have := d.isLt; have := a.isLt; show packFields 0x80002800 [(d.toNat, 21), (a.toNat, 16)] < 2 ^ 32; simp only [packFields]; omega)
theorem WordBound.wcfg (d : BitVec 5) (a : BitVec 5) : WordBound.Statement (.wcfg d a) := scalarBound _ rfl (by have := d.isLt; have := a.isLt; show packFields 0x80003000 [(d.toNat, 21), (a.toNat, 16)] < 2 ^ 32; simp only [packFields]; omega)
theorem WordBound.wcfgW (d : BitVec 5) (a : BitVec 5) : WordBound.Statement (.wcfgW d a) := scalarBound _ rfl (by have := d.isLt; have := a.isLt; show packFields 0x80003800 [(d.toNat, 21), (a.toNat, 16)] < 2 ^ 32; simp only [packFields]; omega)
theorem WordBound.wcfgR (d : BitVec 5) : WordBound.Statement (.wcfgR d) := scalarBound _ rfl (by have := d.isLt; show packFields 0x80003001 [(d.toNat, 21)] < 2 ^ 32; simp only [packFields]; omega)
theorem WordBound.wzero (a : BitVec 5) : WordBound.Statement (.wzero a) := scalarBound _ rfl (by have := a.isLt; show packFields 0x80004000 [(a.toNat, 16)] < 2 ^ 32; simp only [packFields]; omega)
theorem WordBound.wmac (a : BitVec 5) : WordBound.Statement (.wmac a) := scalarBound _ rfl (by have := a.isLt; show packFields 0x80005000 [(a.toNat, 16)] < 2 ^ 32; simp only [packFields]; omega)
theorem WordBound.wmacsO (a : BitVec 5) : WordBound.Statement (.wmacsO a) := scalarBound _ rfl (by have := a.isLt; show packFields 0x80006001 [(a.toNat, 16)] < 2 ^ 32; simp only [packFields]; omega)
theorem WordBound.wmacsF (a : BitVec 5) : WordBound.Statement (.wmacsF a) := scalarBound _ rfl (by have := a.isLt; show packFields 0x80006000 [(a.toNat, 16)] < 2 ^ 32; simp only [packFields]; omega)
theorem WordBound.wwait (a : BitVec 5) : WordBound.Statement (.wwait a) := scalarBound _ rfl (by have := a.isLt; show packFields 0x80007000 [(a.toNat, 16)] < 2 ^ 32; simp only [packFields]; omega)
theorem WordBound.wwaitAll : WordBound.Statement (.wwaitAll) := scalarBound _ rfl (by decide)
theorem WordBound.wnorm (a : BitVec 5) : WordBound.Statement (.wnorm a) := scalarBound _ rfl (by have := a.isLt; show packFields 0x80008000 [(a.toNat, 16)] < 2 ^ 32; simp only [packFields]; omega)
theorem WordBound.rbegin (d : BitVec 5) (a : BitVec 5) : WordBound.Statement (.rbegin d a) := scalarBound _ rfl (by have := d.isLt; have := a.isLt; show packFields 0x84000000 [(d.toNat, 21), (a.toNat, 16)] < 2 ^ 32; simp only [packFields]; omega)
theorem WordBound.rcfg (a : BitVec 5) (f : BitVec 4) : WordBound.Statement (.rcfg a f) := scalarBound _ rfl (by have := a.isLt; have := f.isLt; show packFields 0x84001000 [(a.toNat, 16), (f.toNat, 0)] < 2 ^ 32; simp only [packFields]; omega)
theorem WordBound.rcfgR (d : BitVec 5) (f : BitVec 4) : WordBound.Statement (.rcfgR d f) := scalarBound _ rfl (by have := d.isLt; have := f.isLt; show packFields 0x84001800 [(d.toNat, 21), (f.toNat, 0)] < 2 ^ 32; simp only [packFields]; omega)
theorem WordBound.rwait (d : BitVec 5) : WordBound.Statement (.rwait d) := scalarBound _ rfl (by have := d.isLt; show packFields 0x84002000 [(d.toNat, 21)] < 2 ^ 32; simp only [packFields]; omega)
theorem WordBound.rprob (d : BitVec 5) : WordBound.Statement (.rprob d) := scalarBound _ rfl (by have := d.isLt; show packFields 0x84003000 [(d.toNat, 21)] < 2 ^ 32; simp only [packFields]; omega)
theorem WordBound.rprobX (d : BitVec 5) : WordBound.Statement (.rprobX d) := scalarBound _ rfl (by have := d.isLt; show packFields 0x84003001 [(d.toNat, 21)] < 2 ^ 32; simp only [packFields]; omega)
theorem WordBound.rend : WordBound.Statement (.rend) := scalarBound _ rfl (by decide)
theorem WordBound.vstop (f : VFields) : WordBound.Statement (.vstop f) := vectorBound _ _ f rfl (by decide) rfl
theorem WordBound.vnop (f : VFields) : WordBound.Statement (.vnop f) := vectorBound _ _ f rfl (by decide) rfl
theorem WordBound.vsbar (f : VFields) : WordBound.Statement (.vsbar f) := vectorBound _ _ f rfl (by decide) rfl
theorem WordBound.vadd (f : VFields) : WordBound.Statement (.vadd f) := vectorBound _ _ f rfl (by decide) rfl
theorem WordBound.vsub (f : VFields) : WordBound.Statement (.vsub f) := vectorBound _ _ f rfl (by decide) rfl
theorem WordBound.vmul (f : VFields) : WordBound.Statement (.vmul f) := vectorBound _ _ f rfl (by decide) rfl
theorem WordBound.vfma (f : VFields) : WordBound.Statement (.vfma f) := vectorBound _ _ f rfl (by decide) rfl
theorem WordBound.vfms (f : VFields) : WordBound.Statement (.vfms f) := vectorBound _ _ f rfl (by decide) rfl
theorem WordBound.vfnma (f : VFields) : WordBound.Statement (.vfnma f) := vectorBound _ _ f rfl (by decide) rfl
theorem WordBound.vdiv (f : VFields) : WordBound.Statement (.vdiv f) := vectorBound _ _ f rfl (by decide) rfl
theorem WordBound.vsqrt (f : VFields) : WordBound.Statement (.vsqrt f) := vectorBound _ _ f rfl (by decide) rfl
theorem WordBound.vexp2 (f : VFields) : WordBound.Statement (.vexp2 f) := vectorBound _ _ f rfl (by decide) rfl
theorem WordBound.vlog2 (f : VFields) : WordBound.Statement (.vlog2 f) := vectorBound _ _ f rfl (by decide) rfl
theorem WordBound.vmin (f : VFields) : WordBound.Statement (.vmin f) := vectorBound _ _ f rfl (by decide) rfl
theorem WordBound.vmax (f : VFields) : WordBound.Statement (.vmax f) := vectorBound _ _ f rfl (by decide) rfl
theorem WordBound.vabs (f : VFields) : WordBound.Statement (.vabs f) := vectorBound _ _ f rfl (by decide) rfl
theorem WordBound.vneg (f : VFields) : WordBound.Statement (.vneg f) := vectorBound _ _ f rfl (by decide) rfl
theorem WordBound.vclamp (f : VFields) : WordBound.Statement (.vclamp f) := vectorBound _ _ f rfl (by decide) rfl
theorem WordBound.vfcsa (f : VFields) : WordBound.Statement (.vfcsa f) := vectorBound _ _ f rfl (by decide) rfl
theorem WordBound.vmulh (f : VFields) : WordBound.Statement (.vmulh f) := vectorBound _ _ f rfl (by decide) rfl
theorem WordBound.vand (f : VFields) : WordBound.Statement (.vand f) := vectorBound _ _ f rfl (by decide) rfl
theorem WordBound.vor (f : VFields) : WordBound.Statement (.vor f) := vectorBound _ _ f rfl (by decide) rfl
theorem WordBound.vxor (f : VFields) : WordBound.Statement (.vxor f) := vectorBound _ _ f rfl (by decide) rfl
theorem WordBound.vnot (f : VFields) : WordBound.Statement (.vnot f) := vectorBound _ _ f rfl (by decide) rfl
theorem WordBound.vshl (f : VFields) : WordBound.Statement (.vshl f) := vectorBound _ _ f rfl (by decide) rfl
theorem WordBound.vshr (f : VFields) : WordBound.Statement (.vshr f) := vectorBound _ _ f rfl (by decide) rfl
theorem WordBound.vsra (f : VFields) : WordBound.Statement (.vsra f) := vectorBound _ _ f rfl (by decide) rfl
theorem WordBound.vpopc (f : VFields) : WordBound.Statement (.vpopc f) := vectorBound _ _ f rfl (by decide) rfl
theorem WordBound.vclz (f : VFields) : WordBound.Statement (.vclz f) := vectorBound _ _ f rfl (by decide) rfl
theorem WordBound.vsadd (f : VFields) : WordBound.Statement (.vsadd f) := vectorBound _ _ f rfl (by decide) rfl
theorem WordBound.vssub (f : VFields) : WordBound.Statement (.vssub f) := vectorBound _ _ f rfl (by decide) rfl
theorem WordBound.vcmp (f : VFields) : WordBound.Statement (.vcmp f) := vectorBound _ _ f rfl (by decide) rfl
theorem WordBound.vsel (f : VFields) : WordBound.Statement (.vsel f) := vectorBound _ _ f rfl (by decide) rfl
theorem WordBound.vmpop (f : VFields) : WordBound.Statement (.vmpop f) := vectorBound _ _ f rfl (by decide) rfl
theorem WordBound.vmfirst (f : VFields) : WordBound.Statement (.vmfirst f) := vectorBound _ _ f rfl (by decide) rfl
theorem WordBound.vmov (f : VFields) : WordBound.Statement (.vmov f) := vectorBound _ _ f rfl (by decide) rfl
theorem WordBound.vsplat (f : VFields) : WordBound.Statement (.vsplat f) := vectorBound _ _ f rfl (by decide) rfl
theorem WordBound.viota (f : VFields) : WordBound.Statement (.viota f) := vectorBound _ _ f rfl (by decide) rfl
theorem WordBound.vcvt (f : VFields) : WordBound.Statement (.vcvt f) := vectorBound _ _ f rfl (by decide) rfl
theorem WordBound.vkey (f : VFields) : WordBound.Statement (.vkey f) := vectorBound _ _ f rfl (by decide) rfl
theorem WordBound.vfold (f : VFields) : WordBound.Statement (.vfold f) := vectorBound _ _ f rfl (by decide) rfl
theorem WordBound.vgath (f : VFields) : WordBound.Statement (.vgath f) := vectorBound _ _ f rfl (by decide) rfl
theorem WordBound.vslup (f : VFields) : WordBound.Statement (.vslup f) := vectorBound _ _ f rfl (by decide) rfl
theorem WordBound.vsldn (f : VFields) : WordBound.Statement (.vsldn f) := vectorBound _ _ f rfl (by decide) rfl
theorem WordBound.vcmpr (f : VFields) : WordBound.Statement (.vcmpr f) := vectorBound _ _ f rfl (by decide) rfl
theorem WordBound.vrsum (f : VFields) : WordBound.Statement (.vrsum f) := vectorBound _ _ f rfl (by decide) rfl
theorem WordBound.vrmin (f : VFields) : WordBound.Statement (.vrmin f) := vectorBound _ _ f rfl (by decide) rfl
theorem WordBound.vrmax (f : VFields) : WordBound.Statement (.vrmax f) := vectorBound _ _ f rfl (by decide) rfl
theorem WordBound.vrmini (f : VFields) : WordBound.Statement (.vrmini f) := vectorBound _ _ f rfl (by decide) rfl
theorem WordBound.vrmaxi (f : VFields) : WordBound.Statement (.vrmaxi f) := vectorBound _ _ f rfl (by decide) rfl
theorem WordBound.vrts (f : VFields) : WordBound.Statement (.vrts f) := vectorBound _ _ f rfl (by decide) rfl
theorem WordBound.vscan (f : VFields) : WordBound.Statement (.vscan f) := vectorBound _ _ f rfl (by decide) rfl
theorem WordBound.vconf (f : VFields) : WordBound.Statement (.vconf f) := vectorBound _ _ f rfl (by decide) rfl
theorem WordBound.vld (f : VFields) : WordBound.Statement (.vld f) := vectorBound _ _ f rfl (by decide) rfl
theorem WordBound.vlds (f : VFields) : WordBound.Statement (.vlds f) := vectorBound _ _ f rfl (by decide) rfl
theorem WordBound.vldx (f : VFields) : WordBound.Statement (.vldx f) := vectorBound _ _ f rfl (by decide) rfl
theorem WordBound.vst (f : VFields) : WordBound.Statement (.vst f) := vectorBound _ _ f rfl (by decide) rfl
theorem WordBound.vsts (f : VFields) : WordBound.Statement (.vsts f) := vectorBound _ _ f rfl (by decide) rfl
theorem WordBound.vstxO (f : VFields) : WordBound.Statement (.vstxO f) := vectorBound _ _ f rfl (by decide) rfl
theorem WordBound.vstxU (f : VFields) : WordBound.Statement (.vstxU f) := vectorBound _ _ f rfl (by decide) rfl
theorem WordBound.vstn (f : VFields) : WordBound.Statement (.vstn f) := vectorBound _ _ f rfl (by decide) rfl
theorem WordBound.vgll (f : VFields) : WordBound.Statement (.vgll f) := vectorBound _ _ f rfl (by decide) rfl
theorem WordBound.vscc (f : VFields) : WordBound.Statement (.vscc f) := vectorBound _ _ f rfl (by decide) rfl
theorem WordBound.vsctadd (f : VFields) : WordBound.Statement (.vsctadd f) := vectorBound _ _ f rfl (by decide) rfl
theorem WordBound.vstrm (f : VFields) : WordBound.Statement (.vstrm f) := vectorBound _ _ f rfl (by decide) rfl
theorem WordBound.pack (f : VFields) : WordBound.Statement (.pack f) := vectorBound _ _ f rfl (by decide) rfl
theorem WordBound.wext (f : VFields) : WordBound.Statement (.wext f) := vectorBound _ _ f rfl (by decide) rfl
theorem WordBound.rnoise (f : VFields) : WordBound.Statement (.rnoise f) := vectorBound _ _ f rfl (by decide) rfl
theorem WordBound.rbound (f : VFields) : WordBound.Statement (.rbound f) := vectorBound _ _ f rfl (by decide) rfl
theorem WordBound.vbias (f : VFields) : WordBound.Statement (.vbias f) := vectorBound _ _ f rfl (by decide) rfl
theorem WordBound.rmask (f : VFields) : WordBound.Statement (.rmask f) := vectorBound _ _ f rfl (by decide) rfl
theorem WordBound.rqueue (f : VFields) : WordBound.Statement (.rqueue f) := vectorBound _ _ f rfl (by decide) rfl
theorem WordBound.rqueueK (f : VFields) : WordBound.Statement (.rqueueK f) := vectorBound _ _ f rfl (by decide) rfl
theorem WordBound.rnext (f : VFields) : WordBound.Statement (.rnext f) := vectorBound _ _ f rfl (by decide) rfl
theorem WordBound.rpost (f : VFields) : WordBound.Statement (.rpost f) := vectorBound _ _ f rfl (by decide) rfl
theorem WordBound.rzacc (f : VFields) : WordBound.Statement (.rzacc f) := vectorBound _ _ f rfl (by decide) rfl
theorem WordBound.copy2d (eng : Nat) (n : Nat) : WordBound.Statement (.copy2d eng n) := noWord _ rfl rfl
theorem WordBound.filltile (eng : Nat) (n : Nat) : WordBound.Statement (.filltile eng n) := noWord _ rfl rfl
theorem WordBound.zeroMemory (eng : Nat) (n : Nat) : WordBound.Statement (.zeroMemory eng n) := noWord _ rfl rfl
theorem WordBound.zeroSlot (eng : Nat) (n : Nat) : WordBound.Statement (.zeroSlot eng n) := noWord _ rfl rfl
theorem WordBound.slabnew (eng : Nat) (n : Nat) : WordBound.Statement (.slabnew eng n) := noWord _ rfl rfl
theorem WordBound.slabgrow (eng : Nat) (n : Nat) : WordBound.Statement (.slabgrow eng n) := noWord _ rfl rfl
theorem WordBound.slabfree (eng : Nat) (n : Nat) : WordBound.Statement (.slabfree eng n) := noWord _ rfl rfl
theorem WordBound.exportPrefix (eng : Nat) (n : Nat) : WordBound.Statement (.exportPrefix eng n) := noWord _ rfl rfl
theorem WordBound.importPrefix (eng : Nat) (n : Nat) : WordBound.Statement (.importPrefix eng n) := noWord _ rfl rfl
theorem WordBound.promote (eng : Nat) (n : Nat) : WordBound.Statement (.promote eng n) := noWord _ rfl rfl
theorem WordBound.demote (eng : Nat) (n : Nat) : WordBound.Statement (.demote eng n) := noWord _ rfl rfl
theorem WordBound.redalloc (eng : Nat) (n : Nat) : WordBound.Statement (.redalloc eng n) := noWord _ rfl rfl
theorem WordBound.redfree (eng : Nat) (n : Nat) : WordBound.Statement (.redfree eng n) := noWord _ rfl rfl
theorem WordBound.pullset (eng : Nat) (n : Nat) : WordBound.Statement (.pullset eng n) := noWord _ rfl rfl
theorem WordBound.mcast (eng : Nat) (n : Nat) : WordBound.Statement (.mcast eng n) := noWord _ rfl rfl
theorem WordBound.engineResultPost (eng : Nat) (n : Nat) : WordBound.Statement (.engineResultPost eng n) := noWord _ rfl rfl
theorem WordBound.vcqEntryExecute : WordBound.Statement (.vcqEntryExecute) := noWord _ rfl rfl
theorem WordBound.splitChange (core : Nat) : WordBound.Statement (.splitChange core) := noWord _ rfl rfl
theorem WordBound.runaheadLoad (tid : Nat) (word : Nat) : WordBound.Statement (.runaheadLoad tid word) := noWord _ rfl rfl
theorem WordBound.egressStorePerform (die : Nat) (entry : Nat) : WordBound.Statement (.egressStorePerform die entry) := noWord _ rfl rfl
theorem WordBound.syncMirrorUpdate (die : Nat) (cell : Nat) : WordBound.Statement (.syncMirrorUpdate die cell) := noWord _ rfl rfl
theorem WordBound.pageWalk (core : Nat) (vi : Nat) (asn : Nat) (va : BitVec 64) (store : Bool) : WordBound.Statement (.pageWalk core vi asn va store) := noWord _ rfl rfl
theorem WordBound.wfeWake (tid : Nat) : WordBound.Statement (.wfeWake tid) := noWord _ rfl rfl
theorem WordBound.registerRetention (tid : Nat) : WordBound.Statement (.registerRetention tid) := noWord _ rfl rfl
theorem WordBound.takeHeldTrap : WordBound.Statement (.takeHeldTrap) := noWord _ rfl rfl
theorem WordBound.watchdogExpiry (tid : Nat) : WordBound.Statement (.watchdogExpiry tid) := noWord _ rfl rfl
theorem WordBound.wmuStep (core : Nat) (wmu : Nat) : WordBound.Statement (.wmuStep core wmu) := noWord _ rfl rfl
theorem WordBound.wmacsBlockStart (core : Nat) (op : Nat) (job : Nat) (kblk : Nat) : WordBound.Statement (.wmacsBlockStart core op job kblk) := noWord _ rfl rfl
theorem WordBound.wmacsDrainRun : WordBound.Statement (.wmacsDrainRun) := noWord _ rfl rfl
theorem WordBound.quantumExpiry (gang : Nat) : WordBound.Statement (.quantumExpiry gang) := noWord _ rfl rfl
theorem WordBound.starveRaise (gang : Nat) : WordBound.Statement (.starveRaise gang) := noWord _ rfl rfl
theorem WordBound.domstop (region : BitVec 12) : WordBound.Statement (.domstop region) := noWord _ rfl rfl
theorem WordBound.fqresRetry (seq : BitVec 32) : WordBound.Statement (.fqresRetry seq) := noWord _ rfl rfl
theorem WordBound.fqresRefuse (seq : BitVec 32) : WordBound.Statement (.fqresRefuse seq) := noWord _ rfl rfl
theorem WordBound.wdogWrite (v : BitVec 64) : WordBound.Statement (.wdogWrite v) := noWord _ rfl rfl
theorem WordBound.tstatusVhDiscard : WordBound.Statement (.tstatusVhDiscard) := noWord _ rfl rfl
theorem WordBound.tstatusWhDiscard : WordBound.Statement (.tstatusWhDiscard) := noWord _ rfl rfl
theorem WordBound.registerWrite (f : BitVec 12) (v : BitVec 64) : WordBound.Statement (.registerWrite f v) := noWord _ rfl rfl
theorem WordBound.agingCheck (die : Nat) : WordBound.Statement (.agingCheck die) := noWord _ rfl rfl
theorem WordBound.demotionDone (die : Nat) (n : Nat) : WordBound.Statement (.demotionDone die n) := noWord _ rfl rfl
theorem WordBound.promotionDone (die : Nat) (n : Nat) (r : PromotionResult) : WordBound.Statement (.promotionDone die n r) := noWord _ rfl rfl
theorem WordBound.parkSaveDone (rec : Nat) : WordBound.Statement (.parkSaveDone rec) := noWord _ rfl rfl
theorem WordBound.hotWindowDone (rec : Nat) : WordBound.Statement (.hotWindowDone rec) := noWord _ rfl rfl
theorem WordBound.hotWindowFail (rec : Nat) : WordBound.Statement (.hotWindowFail rec) := noWord _ rfl rfl
theorem WordBound.slabChunkCopied (die : Nat) (n : Nat) : WordBound.Statement (.slabChunkCopied die n) := noWord _ rfl rfl
theorem WordBound.hostAccessHoldTimeout (n : Nat) : WordBound.Statement (.hostAccessHoldTimeout n) := noWord _ rfl rfl
theorem WordBound.fabricTargetRequest (r : FabricArrival) : WordBound.Statement (.fabricTargetRequest r) := noWord _ rfl rfl
theorem WordBound.keepWaitingNotice (n : Nat) : WordBound.Statement (.keepWaitingNotice n) := noWord _ rfl rfl
theorem WordBound.noticeReceived (req : Nat) : WordBound.Statement (.noticeReceived req) := noWord _ rfl rfl
theorem WordBound.fabricReply (req : Nat) (r : FabricReply) : WordBound.Statement (.fabricReply req r) := noWord _ rfl rfl
theorem WordBound.fabricTimeout (req : Nat) : WordBound.Statement (.fabricTimeout req) := noWord _ rfl rfl
theorem WordBound.combineArrival (req : Nat) : WordBound.Statement (.combineArrival req) := noWord _ rfl rfl
theorem WordBound.decombineReply (n : Nat) (r : FabricReply) : WordBound.Statement (.decombineReply n r) := noWord _ rfl rfl
theorem WordBound.decombineRecordDrop (n : Nat) (cause : RecordDrop) : WordBound.Statement (.decombineRecordDrop n cause) := noWord _ rfl rfl
theorem WordBound.linkCrcError (port : Nat) (replay : Bool) : WordBound.Statement (.linkCrcError port replay) := noWord _ rfl rfl
theorem WordBound.linkRetrainFail (port : Nat) : WordBound.Statement (.linkRetrainFail port) := noWord _ rfl rfl
theorem WordBound.reductionLineArrival (a : ReductionLine) : WordBound.Statement (.reductionLineArrival a) := noWord _ rfl rfl
theorem WordBound.pullLoad (req : Nat) (lines : List MemberLine) : WordBound.Statement (.pullLoad req lines) := noWord _ rfl rfl
theorem WordBound.migrate (vi : Nat) : WordBound.Statement (.migrate vi) := noWord _ rfl rfl
theorem WordBound.handoverDrained (n : Nat) : WordBound.Statement (.handoverDrained n) := noWord _ rfl rfl
theorem WordBound.handoverCopied (n : Nat) : WordBound.Statement (.handoverCopied n) := noWord _ rfl rfl
theorem WordBound.handoverShootdownDone (n : Nat) : WordBound.Statement (.handoverShootdownDone n) := noWord _ rfl rfl
theorem WordBound.handoverFreeFrame (n : Nat) : WordBound.Statement (.handoverFreeFrame n) := noWord _ rfl rfl
theorem WordBound.raceRoundDecide (ctx : Nat) : WordBound.Statement (.raceRoundDecide ctx) := noWord _ rfl rfl
theorem WordBound.hostWindowRead (vi : Nat) (at_ : HostPlace) (n : Nat) (ide : Bool) : WordBound.Statement (.hostWindowRead vi at_ n ide) := noWord _ rfl rfl
theorem WordBound.hostWindowWrite (vi : Nat) (off : Nat) (w : HostWrite) (ide : Bool) : WordBound.Statement (.hostWindowWrite vi off w ide) := noWord _ rfl rfl
theorem WordBound.start (vi : Nat) (v : BitVec 64) (ide : Bool) : WordBound.Statement (.start vi v ide) := noWord _ rfl rfl
theorem WordBound.hwbase (vi : Nat) (v : BitVec 64) (ide : Bool) : WordBound.Statement (.hwbase vi v ide) := noWord _ rfl rfl
theorem WordBound.mbxbase (vi : Nat) (v : BitVec 64) (ide : Bool) : WordBound.Statement (.mbxbase vi v ide) := noWord _ rfl rfl
theorem WordBound.getMeasurements (vi : Nat) : WordBound.Statement (.getMeasurements vi) := noWord _ rfl rfl
theorem WordBound.keyExchange (vi : Nat) (secret : List (BitVec 8)) : WordBound.Statement (.keyExchange vi secret) := noWord _ rfl rfl
theorem WordBound.setkey (vi : Nat) (slot : Nat) (key : BitVec 256) : WordBound.Statement (.setkey vi slot key) := noWord _ rfl rfl
theorem WordBound.clrkey (vi : Nat) (slot : Nat) : WordBound.Statement (.clrkey vi slot) := noWord _ rfl rfl
theorem WordBound.settenant (vi : Nat) (id : BitVec 64) : WordBound.Statement (.settenant vi id) := noWord _ rfl rfl
theorem WordBound.bindtag (vi : Nat) (tag : BitVec 16) : WordBound.Statement (.bindtag vi tag) := noWord _ rfl rfl
theorem WordBound.tdispMessage (vi : Nat) (m : TdispMessage) : WordBound.Statement (.tdispMessage vi m) := noWord _ rfl rfl
theorem WordBound.stopInterface (vi : Nat) : WordBound.Statement (.stopInterface vi) := noWord _ rfl rfl
theorem WordBound.ideKm (vi : Nat) (key : BitVec 256) : WordBound.Statement (.ideKm vi key) := noWord _ rfl rfl
theorem WordBound.firmwareUpdate (u : UpdateStep) : WordBound.Statement (.firmwareUpdate u) := noWord _ rfl rfl
theorem WordBound.moduleReset (passed : List Nat) : WordBound.Statement (.moduleReset passed) := noWord _ rfl rfl
theorem WordBound.powerCap (gate : Bool) : WordBound.Statement (.powerCap gate) := noWord _ rfl rfl
theorem WordBound.dieThrottle (die : Nat) (temp : Nat) : WordBound.Statement (.dieThrottle die temp) := noWord _ rfl rfl
theorem WordBound.dieShutdown (temp : Nat) : WordBound.Statement (.dieShutdown temp) := noWord _ rfl rfl
theorem WordBound.coreFence (core : Nat) : WordBound.Statement (.coreFence core) := noWord _ rfl rfl
theorem WordBound.pldmMonitoring : WordBound.Statement (.pldmMonitoring) := noWord _ rfl rfl
theorem WordBound.illegalInstruction (vec : Bool) (w : BitVec 64) : WordBound.Statement (.illegalInstruction vec w) := noWord _ rfl rfl
theorem WordBound.instructionFetchFault (vec : Bool) (addr : BitVec 64) (c : FetchFault) : WordBound.Statement (.instructionFetchFault vec addr c) := noWord _ rfl rfl
theorem WordBound.eccError (e : EccError) : WordBound.Statement (.eccError e) := noWord _ rfl rfl
theorem WordBound.endSession (vi : Nat) : WordBound.Statement (.endSession vi) := noWord _ rfl rfl
theorem WordBound.createVirtualInterface (vi : Nat) (cfg : InterfaceConfig) : WordBound.Statement (.createVirtualInterface vi cfg) := noWord _ rfl rfl
theorem WordBound.linkRetrainDone (port : Nat) : WordBound.Statement (.linkRetrainDone port) := noWord _ rfl rfl
theorem WordBound.fabricNodeFailure (lost : List Nat) : WordBound.Statement (.fabricNodeFailure lost) := noWord _ rfl rfl
theorem WordBound.powerFail (left : FirmwareImage) : WordBound.Statement (.powerFail left) := noWord _ rfl rfl
theorem WordBound.coolantLimit (temp : Nat) (flow : Nat) : WordBound.Statement (.coolantLimit temp flow) := noWord _ rfl rfl
theorem WordBound.firmwareMailboxRequest (vi : Nat) : WordBound.Statement (.firmwareMailboxRequest vi) := noWord _ rfl rfl
theorem WordBound.egressQueueDeparture (n : Nat) : WordBound.Statement (.egressQueueDeparture n) := noWord _ rfl rfl
theorem WordBound.raceBestReceived (tid : Nat) : WordBound.Statement (.raceBestReceived tid) := noWord _ rfl rfl

end Sys2Proof.Laws
end

