-- ==== Sys2Proof/Tests/Slice0.lean ====
section
/-! SUPPORT. Tests of the model, their expected results from the spec, and a witness for the hypotheses of every statement. -/

set_option Elab.async false

namespace Sys2Proof.Tests

open Sys2Proof Sys2Proof.Machine

/-! ## Small states -/

/-- One supervisor task on thread 0 of core 0, whose next instruction is `w`. -/
def at32 (w : Nat) : State := State.reset.withFetchWord 32 w

/-- The same with vector thread 0 in a block whose next word is `w`. -/
def at64 (w : Nat) : State := State.reset.withFetchWord 64 w

/-- The state after a step, when it is a next state. -/
def after (r : Host.Outcome State Fault Refusal) : Option State :=
  match r with
  | .next t => some t
  | _ => none

/-- Something of the next state. -/
def seen {α : Type} (r : Host.Outcome State Fault Refusal) (f : State → α) : Option α := (after r).map f

theorem test_addi : seen (step (at32 0x0840FFF8)) (fun t => (t.reg 0 2, (t.thread 0).pc)) = some (0xFFFFFFFFFFFFFFF8, 0x20004) := by decide +kernel

/-! ## Well-formedness: a term that each check refuses -/

/-- A vector word with every field zero. -/
def zv : VFields := { vd := 0, sa := 0, sb := 0, sc := 0, ty := 0, mask := 0, tail := 0, nb := 0, rs := 0, l := 0, ext := 0, lit := 0 }

theorem test_wf_scalar_refused : ∀ i ∈ [Instr.ld 1 2 7 0 0, .st 1 2 7 0 0, .st 1 2 1 0 0, .amoAdd 1 2 3 0 0 5 0, .csrr 1 0x009, .csrr 1 0x80D,
    .csrw 1 2 0x009, .csrw 1 2 0x005, .csrs 1 2 0x007, .csrc 1 2 0x010, .vsplit 3, .vsplit 0, .fenceScoped 0 0, .fenceScoped 1 5, .tlbinvPg 1 3 0,
    .tlbinvAs 3 0, .tlbinvVi 3, .eput 1 3, .eget 1 3, .ecnt 1 3, .sytas 1 2 3 0 5, .syadd 1 2 3 0 5, .syrd 1 2 0 5, .tclaim 1 2 0, .tclaim 1 2 65,
    .tclaimP 1 2 3, .tclaimP 1 2 0, .rcfg 1 6, .rcfgR 1 6], i.wf = false := by decide +kernel

theorem test_wf_vector_frame_refused : ∀ i ∈ [Instr.vadd { zv with ty := 4 }, .vadd { zv with mask := 3 }, .vadd { zv with nb := 3 },
    .vadd { zv with sa := 46 }, .vadd { zv with sb := 63 }, .vfma { zv with sc := 46 }, .vadd { zv with l := 1 }, .vadd { zv with sa := 44 },
    .vadd { zv with lit := 1 }, .vadd { zv with nb := 1, sa := 32 }, .vadd { zv with sc := 1 }, .vsqrt { zv with sb := 1 }, .vadd { zv with ext := 1 },
    .vadd { zv with rs := 1 }, .vadd { zv with ty := 2, rs := 2 }, .vmin { zv with rs := 2 }, .vmpop { zv with vd := 1 }, .vmpop { zv with tail := 1 },
    .vsplat { zv with sb := 36, nb := 1 }, .vstop { zv with vd := 1 }, .vstop { zv with ext := 1 }, .vnop { zv with sa := 1 }, .vsbar { zv with ext := 256 }],
    i.wf = false := by decide +kernel

theorem test_wf_vector_types_refused : ∀ i ∈ [Instr.vfma { zv with ty := 2 }, .vfcsa { zv with ty := 1 }, .vmulh zv, .vand zv, .viota zv, .vrts { zv with ty := 2 },
    .vfold { zv with ext := 3 }, .vfold { zv with ext := 4 }, .vscan { zv with ext := 3 }, .vcmp { zv with ext := 8 }, .vcvt { zv with ext := 4 },
    .vsplat { zv with sb := 31 }, .vslup { zv with sb := 36, ext := 2 }, .vcmpr { zv with ext := 2 }, .vgll { zv with sa := 36, ty := 1 },
    .pack { zv with ty := 2, sa := 36, sb := 36 }, .wext { zv with ty := 2, sb := 36, sc := 36, ext := 2 }, .rnoise { zv with ty := 1 },
    .rbound { zv with ext := 3 }, .rbound { zv with rs := 2 }, .rnext zv, .rqueue { zv with ext := 1 }, .rqueueK zv, .rpost { zv with vd := 1 },
    .rzacc { zv with sc := 1 }], i.wf = false := by decide +kernel

theorem test_wf_vector_memory_refused : ∀ i ∈ [Instr.vld zv, .vld { zv with sa := 36, nb := 1 }, .vld { zv with sa := 36, ext := 0x800 },
    .vld { zv with sa := 36, ext := 0x400 }, .vld { zv with sa := 36, vd := 1, ext := 0x2000 }, .vld { zv with sa := 36, tail := 1, ext := 0x2000 },
    .vld { zv with sa := 36, ext := 0x40000 }, .vld { zv with sa := 36, ext := 0x100000 }, .vld { zv with sa := 36, sb := 1 },
    .vld { zv with sa := 36, ext := 0x80000 }, .vld { zv with sa := 36, sb := 37, sc := 38, ext := 0x80001 }, .vlds { zv with sa := 36 },
    .vst { zv with sa := 36, ext := 0x2000 }, .vst { zv with sa := 36, tail := 1 }, .vst { zv with sa := 36, sc := 1 }, .vst { zv with sa := 36, ty := 2, ext := 0x10000 },
    .vstxO { zv with sa := 36, sc := 1 }, .vstxU { zv with sa := 36 }, .vstrm { zv with sa := 36, sb := 36 }, .vsctadd { zv with sa := 36, ty := 1 },
    .vbias { zv with sa := 36, sc := 36, ext := 0x10000 }, .vbias { zv with sa := 36, sc := 0 }, .rmask { zv with sa := 36, ty := 2 }], i.wf = false := by decide +kernel

theorem test_wf_accepted : ∀ i ∈ [Instr.vadd zv, .vld { zv with sa := 36 }, .vld { zv with sa := 36, ext := 0x2000 }, .vst { zv with sa := 36, sc := 1, ext := 0x10000 },
    .vld { zv with sa := 36, sb := 37, sc := 38, ext := 0x80000 }, .vfold { zv with ty := 2, ext := 3 }, .rnext { zv with ty := 3 }, .csrw 0 2 0x005,
    .tclaimP 1 2 64, .vsplat { zv with sb := 45 }], i.wf = true := by decide +kernel

/-! ## Decoding: words written out from the spec's encodings -/

theorem test_decode_integer : decodeTableWord 32 0x04642800 = some (.add 3 4 5) ∧ decodeTableWord 32 0x0843FFF8 = some (.addi 2 3 0xFFF8)
    ∧ decodeTableWord 32 0x2C821234 = some (.limc 4 2 0x1234) ∧ decodeTableWord 32 0x30A00010 = some (.addpc 5 0x10) := by decide +kernel

theorem test_decode_memory_and_branches : decodeTableWord 32 0x34C78010 = some (.ld 6 7 4 0 16) ∧ decodeTableWord 32 0x39490000 = some (.st 10 9 0 0 0)
    ∧ decodeTableWord 32 0x3C64FFFD = some (.beq 3 4 0xFFFD) ∧ decodeTableWord 32 0x54000010 = some (.jmp 16) ∧ decodeTableWord 32 0x5C1F0000 = some (.jmpr 0 31 0)
    ∧ decodeTableWord 32 0x60A63817 = some (.amoAdd 5 6 7 0 1 3 1) := by decide +kernel

theorem test_decode_system : decodeTableWord 32 0x65200032 = some (.csrr 9 0x032) ∧ decodeTableWord 32 0x68640000 = some (.setlen 3 4)
    ∧ decodeTableWord 32 0x6C050000 = some (.vfReg 5 0) ∧ decodeTableWord 32 0x70003026 = some (.fenceScoped 2 3) ∧ decodeTableWord 32 0x74000005 = some (.trap 5)
    ∧ decodeTableWord 32 0x744A9000 = some (.launch 2 10) ∧ decodeTableWord 32 0x74008300 = some (.tlbinvVi 1) := by decide +kernel

theorem test_decode_race : decodeTableWord 32 0x84A60000 = some (.rbegin 5 6) ∧ decodeTableWord 32 0x84071002 = some (.rcfg 7 2)
    ∧ decodeTableWord 32 0x85402000 = some (.rwait 10) ∧ decodeTableWord 32 0x85603001 = some (.rprobX 11) ∧ decodeTableWord 32 0x84004000 = some .rend
    ∧ decodeTableWord 64 0xB5800000C0000000 = some (.rnext { zv with vd := 16, ty := 3 }) := by decide +kernel

theorem test_decode_vector : decodeTableWord 64 0x1324128800000000 = some (.vfma { zv with vd := 4, sa := 32, sb := 37, sc := 4 })
    ∧ decodeTableWord 64 0x8044800000812C10 = some (.vld { zv with vd := 8, sa := 36, rs := 2, ext := 0x12C10 })
    ∧ decodeTableWord 64 0x6528C00080000000 = some (.vfold { zv with vd := 5, sa := 6, ty := 2 }) := by decide +kernel

theorem test_decode_refuses : decodeTableWord 32 0 = none ∧ decodeTableWord 32 0x04642801 = none ∧ decodeTableWord 32 0xFC000000 = none
    ∧ decodeTableWord 64 0 = none ∧ decodeTableWord 64 0xFF00000000000000 = none := by decide +kernel

theorem test_encode_literal : encode (.vadd { zv with vd := 5, sa := 6, sb := 44, l := 1, lit := 0x3FC00000 }) =
    [0x00, 0x00, 0x20, 0x00, 0x00, 0xD6, 0x28, 0x10, 0x00, 0x00, 0xC0, 0x3F, 0x00, 0x00, 0x00, 0x00] := by decide +kernel

theorem test_illegal_word : seen (step (at32 0x04642801)) (fun t => t.hub.stops.length) = some 0
    ∧ seen (step ((at32 0x04642801).setThread 0 { (at32 0x04642801).thread 0 with tvec := 0x30000 })) (fun t => ((t.thread 0).tcause, (t.thread 0).tval, (t.thread 0).pc)) =
      some (causeIllegal, 0x04642801, 0x30000) := by decide +kernel

/-! ## Single steps -/

/-- The task's registers set. -/
def withRegs (s : State) (l : List (Reg × Word)) : State := l.foldl (fun s p => s.setReg 0 p.1 p.2) s

/-- A task state on which a meaning is run by itself; the bytes are those of `at32 0`. -/
def task : State :=
  withRegs { at32 0 with hbm := [(0x10000, 0x01), (0x10001, 0x20), (0x10002, 0x01), (0x12000, 0x01), (0x12001, 0x40), (0x12002, 0x01), (0x14000, 0xFF)] }
    [(4, 7), (5, 0xFFFFFFFFFFFFFFFE), (6, 0x1000)]

theorem test_task_memory : task.hbm = (at32 0).hbm := by decide +kernel

/-- What a register holds after an instruction. -/
def gives (i : Instr) (d : Reg) : Option Word := seen (exec i task) (fun t => t.reg 0 d)

theorem test_arithmetic : gives (.add 4 4 5) 4 = some 5 ∧ gives (.sub 3 4 5) 3 = some 9 ∧ gives (.mulh 3 4 5) 3 = some 0xFFFFFFFFFFFFFFFF
    ∧ gives (.mulhn 3 4 5) 3 = some 6 ∧ gives (.slt 3 5 4) 3 = some 1 ∧ gives (.sltn 3 5 4) 3 = some 0 ∧ gives (.min 3 4 5) 3 = some 0xFFFFFFFFFFFFFFFE
    ∧ gives (.minn 3 4 5) 3 = some 7 := by decide +kernel

theorem test_division : gives (.div 3 5 4) 3 = some 0 ∧ gives (.rem 3 5 4) 3 = some 0xFFFFFFFFFFFFFFFE ∧ gives (.divn 3 4 0) 3 = some 0xFFFFFFFFFFFFFFFF
    ∧ gives (.rem 3 4 0) 3 = some 7 := by decide +kernel

theorem test_bits : gives (.clz 3 4) 3 = some 61 ∧ gives (.popc 3 5) 3 = some 63 ∧ gives (.srai 3 5 1) 3 = some 0xFFFFFFFFFFFFFFFF ∧ gives (.shli 3 4 63) 3 = some 0x8000000000000000
    ∧ gives (.andi 3 5 0xFFFF) 3 = some 0xFFFE ∧ gives (.limc 4 3 0x1234) 4 = some 0x1234000000000007 := by decide +kernel

theorem test_zero_register : gives (.add 0 4 5) 0 = some 0 ∧ seen (exec (.add 0 4 5) task) (fun t => (t.thread 0).pc) = some 0x20004 := by decide +kernel

theorem test_branch : seen (exec (.blt 5 4 0xFFFF) task) (fun t => (t.thread 0).pc) = some 0x1FFFC ∧ seen (exec (.bltn 5 4 0xFFFF) task) (fun t => (t.thread 0).pc) = some 0x20004
    ∧ seen (exec (.call 2) task) (fun t => ((t.thread 0).pc, t.reg 0 31)) = some (0x20008, 0x20004)
    ∧ seen (exec (.jmpr 6 6 2) task) (fun t => ((t.thread 0).pc, t.reg 0 6)) = some (0x1002, 0x20004) := by decide +kernel

theorem test_store_then_load : seen (exec (.st 5 6 4 0 0) task) (fun t => (t.hbm.filter (fun c => c.1 / 16 = 0x100), (after (exec (.ld 3 6 4 0 0) t)).map (fun u => u.reg 0 3))) =
    some ([(0x1000, 0xFE), (0x1001, 0xFF), (0x1002, 0xFF), (0x1003, 0xFF)], some 0xFFFFFFFFFFFFFFFE) := by decide +kernel

theorem test_atomic : seen (exec (.amoSwp 3 6 5 0 0 0 0) task) (fun t => (t.reg 0 3, (after (exec (.amoAdd 3 6 4 0 0 0 0) t)).map (fun u => (u.reg 0 3, u.hbm.filter (fun c => c.1 / 16 = 0x100))))) =
    some (0, some (0xFFFFFFFFFFFFFFFE, [(0x1000, 5)])) := by decide +kernel

theorem test_misaligned : seen (exec (.ld 3 6 6 0 1) (task.setThread 0 { task.thread 0 with tvec := 0x30000 })) (fun t => ((t.thread 0).tcause, (t.thread 0).tval, (t.thread 0).tpc, (t.thread 0).pc)) =
    some (causeMisalign, 0x1001, 0x20000, 0x30000) := by decide +kernel

theorem test_trap : seen (exec (.trap 9) (task.setThread 0 { task.thread 0 with tvec := 0x30000 }))
      (fun t => ((t.thread 0).tcause, (t.thread 0).tval, (t.thread 0).tpc, (t.thread 0).nest)) = some (causeTrapInsn, 9, 0x20004, true) := by decide +kernel

theorem test_return : seen (exec .rte (task.setThread 0 { task.thread 0 with tpc := 0x44, nest := true })) (fun t => ((t.thread 0).pc, (t.thread 0).nest, (t.thread 0).priv)) =
    some (0x44, false, .task) := by decide +kernel

theorem test_csr : seen (exec (.csrw 3 6 0x037) task) (fun t => (t.reg 0 3, (t.thread 0).tscratch)) = some (0, 0x1000)
    ∧ gives (.csrr 3 0x042) 3 = some 0 ∧ gives (.csrr 3 0x002) 3 = some 256 := by decide +kernel

theorem test_setlen : seen (exec (.setlen 3 6) task) (fun t => (t.reg 0 3, (t.vthread 0).work.vcq.length)) = some (2048, 1) := by decide +kernel

/-- A vector thread in a block, with a length of two, v1 = (1.0, 2.0), v2 = (3.0, −2.0). -/
def vec : State :=
  let s := { at64 0 with hbm := task.hbm }
  s.setVthread 0 { s.vthread 0 with vl := 2, vr := 1, regs := [(1, [(0, 0x3F800000), (1, 0x40000000)]), (2, [(0, 0x40400000), (1, 0xC0000000)])] }

/-- Elements 0 and 1 of row 0 of v3 after a vector instruction. -/
def lanes (i : Instr) : Option (Elem × Elem) := seen (exec i vec) (fun t => ((t.vthread 0).elem 3 0 0, (t.vthread 0).elem 3 0 1))

theorem test_vector_float : lanes (.vadd { zv with vd := 3, sa := 1, sb := 2 }) = some (0x40800000, 0) ∧ lanes (.vmul { zv with vd := 3, sa := 1, sb := 2 }) = some (0x40400000, 0xC0800000)
    ∧ lanes (.vfma { zv with vd := 3, sa := 1, sb := 2, sc := 1 }) = some (0x40800000, 0xC0000000) ∧ lanes (.vdiv { zv with vd := 3, sa := 1, sb := 2 }) = some (0x3EAAAAAB, 0xBF800000) := by decide +kernel

theorem test_vector_integer : lanes (.vadd { zv with vd := 3, sa := 1, sb := 2, ty := 3 }) = some (0x7FC00000, 0) ∧ lanes (.vpopc { zv with vd := 3, sa := 1, ty := 3 }) = some (7, 1)
    ∧ lanes (.vcmp { zv with vd := 3, sa := 1, sb := 2, ext := 2 }) = some (1, 0) := by decide +kernel

theorem test_vector_reduction : lanes (.vrsum { zv with vd := 3, sa := 1 }) = some (0x40400000, 0) := by decide +kernel

/-! ## Witnesses: states and operands that meet the hypotheses of the statements, clause by clause -/

/-- The state that an access check leaves, when the check passes. -/
def landed (s : State) (tid : Nat) (k : Kind) (cells : Bool) (space : BitVec 2) (ea : Word) (n : Nat) : State :=
  match s.check (s.agentOf tid false) (s.regionOf (s.thread tid)) k true cells space ea n with
  | .ok (_, t) => t
  | .error _ => s

/-- The place that an access check finds. -/
def placeOf (s : State) (tid : Nat) (k : Kind) (cells : Bool) (space : BitVec 2) (ea : Word) (n : Nat) : Option (Loc × BitVec 256) :=
  match s.check (s.agentOf tid false) (s.regionOf (s.thread tid)) k true cells space ea n with
  | .ok (.here l key, _) => some (l, key)
  | _ => none

theorem reaches_landed {s : State} {tid : Nat} {k : Kind} {cells : Bool} {space : BitVec 2} {ea : Word} {n : Nat} {l : Loc} {key : BitVec 256}
    (h : placeOf s tid k cells space ea n = some (l, key)) : Reaches s tid k cells space ea n l key (landed s tid k cells space ea n) := by
  unfold Reaches landed
  unfold placeOf at h
  split at h
  · next l' key' t heq =>
    simp only [Option.some.injEq, Prod.mk.injEq] at h
    rw [heq, h.1, h.2]
  · exact absurd h (by simp)

/-- The state of an operation that succeeds. -/
def okState (r : Except Stop State) : State :=
  match r with
  | .ok t => t
  | .error _ => State.reset

theorem ok_of_isOk {r : Except Stop State} (h : r.isOk = true) : r = .ok (okState r) := by
  cases r with
  | ok t => rfl
  | error e => exact absurd h (by simp [Except.isOk, Except.toBool])

/-- The value and the state of an operation that succeeds with both. -/
def okFst {α : Type} (r : Except Stop (α × State)) : Option α :=
  match r with
  | .ok p => some p.1
  | .error _ => none
def okSnd {α : Type} (r : Except Stop (α × State)) : State :=
  match r with
  | .ok p => p.2
  | .error _ => State.reset

theorem ok_pair {α : Type} {r : Except Stop (α × State)} {a : α} (h : okFst r = some a) : r = .ok (a, okSnd r) := by
  cases r with
  | ok p => simp only [okFst, Option.some.injEq] at h; rw [← h]; rfl
  | error e => exact absurd h (by simp [okFst])

theorem ok_val {ε α : Type} {r : Except ε α} {a : α} (h : r.toOption = some a) : r = .ok a := by
  cases r with
  | ok x => simpa [Except.toOption] using h
  | error e => exact absurd h (by simp [Except.toOption])

/-- The reason of an operation that fails. -/
def errOf {ε α : Type} (r : Except ε α) : Option ε :=
  match r with
  | .ok _ => none
  | .error e => some e

theorem err_of {ε α : Type} {r : Except ε α} {e : ε} (h : errOf r = some e) : r = .error e := by
  cases r with
  | ok x => exact absurd h (by simp [errOf])
  | error x => simpa [errOf] using h

/-- The task with synchronisation cells, task privilege, a handler, or on a thread without a vector thread. -/
def withCells (s : State) : State := s.setVi 0 { s.vi 0 with syncFirst := 0, syncCount := 4096 }
def asTask (s : State) : State := s.setThread 0 { s.thread 0 with priv := .task }
def handled (s : State) : State := s.setThread 0 { s.thread 0 with tvec := 0x30000 }

theorem witness_BranchesAndJumps : (task.reg 0 4 = task.reg 0 4 ∧ task.reg 0 4 ≠ task.reg 0 5) ∧ (task.reg 0 5).toInt < (task.reg 0 4).toInt
    ∧ (task.reg 0 4).toNat < (task.reg 0 5).toNat ∧ ¬ (task.reg 0 5).toNat < (task.reg 0 4).toNat := by decide +kernel

theorem witness_Divisions : gives (.div 3 4 6) 3 = some 0 ∧ gives (.div 3 4 0) 3 = some 0xFFFFFFFFFFFFFFFF
    ∧ seen (exec (.div 3 1 2) (withRegs task [(1, 0x8000000000000000), (2, 0xFFFFFFFFFFFFFFFF)])) (fun t => t.reg 0 3) = some 0x8000000000000000 := by decide +kernel

theorem witness_ScalarLoads : ∃ s', ((task.thread 0).wait = .none ∧ (task.thread 0).early = none) ∧ (6 : BitVec 3) ≠ 7
    ∧ Reaches ((task.orderScalar 0).forgetEarly 0) 0 .read true 0 (task.reg 0 6 + (0 : BitVec 11).signExtend 64) 8 (.hbm 0x1000) 0 s' ∧ s'.readsPoison 0 (.hbm 0x1000) 8 = false :=
  ⟨_, by decide +kernel, by decide, reaches_landed (by decide +kernel), by decide +kernel⟩

theorem witness_ScalarLoads_local : ∃ s', Reaches ((task.orderScalar 0).forgetEarly 0) 0 .read false 1 (0x3FFFFF : Word) 1 (.scratch 0 0x3FFFFF) 0 s' ∧ s'.readsPoison 0 (.scratch 0 0x3FFFFF) 1 = false :=
  ⟨_, reaches_landed (by decide +kernel), by decide +kernel⟩

theorem witness_ScalarLoads_cell : ∃ s', Reaches (((withCells task).orderScalar 0).forgetEarly 0) 0 .read true 3 (0x3FFF : Word) 8 (.cell 3 4095) 0 s' ∧ s'.readsPoison 0 (.cell 3 4095) 8 = false :=
  ⟨_, reaches_landed (by decide +kernel), by decide +kernel⟩

theorem witness_ScalarStores : ∃ s', task.defer = false ∧ Reaches ((task.orderScalar 0).forgetEarly 0) 0 .write true 0 (task.reg 0 6) 8 (.hbm 0x1000) 0 s' ∧ s'.defer = false
    ∧ (Loc.hbm 0x1000).isByte = true ∧ (Loc.hbm 0x1000).home = 0 ∧ s'.egressHolds 0 (.hbm 0x1000) 8 = false :=
  ⟨_, by decide +kernel, reaches_landed (by decide +kernel), by decide +kernel, by decide, by decide, by decide +kernel⟩

theorem witness_ScalarStores_elsewhere : ∃ s', Reaches ((task.orderScalar 0).forgetEarly 0) 0 .write true 0 (0x8000 : Word) 8 (.hbm 0x8000) 0 s' ∧ s'.defer = false
    ∧ (Loc.hbm 0x8000).isByte = true ∧ (Loc.hbm 0x8000).home ≠ 0 :=
  ⟨_, reaches_landed (by decide +kernel), by decide +kernel, by decide, by decide⟩

theorem witness_ScalarAtomics : ∃ s' s'', (task.thread 0).wait = .none ∧ Reaches ((task.orderScalar 0).forgetEarly 0) 0 .atomic false 0 (task.reg 0 6) 8 (.hbm 0x1000) 0 s'
    ∧ (if orderReleases 3 then s'.releaseReady 0 4 else .ok s') = .ok s'' ∧ s''.egressHolds 0 (.hbm 0x1000) 8 = false ∧ s''.poison = [] :=
  ⟨_, okState ((landed ((task.orderScalar 0).forgetEarly 0) 0 .atomic false 0 (task.reg 0 6) 8).releaseReady 0 4), by decide +kernel, reaches_landed (by decide +kernel),
    ok_of_isOk (by decide +kernel), by decide +kernel, by decide +kernel⟩

theorem witness_ScalarAtomics_local : ∃ s', Reaches ((task.orderScalar 0).forgetEarly 0) 0 .atomic false 1 (task.reg 0 6) 4 (.scratch 0 0x1000) 0 s'
    ∧ (if orderReleases 0 then s'.releaseReady 0 0 else .ok s') = .ok s' ∧ s'.egressHolds 0 (.scratch 0 0x1000) 4 = false ∧ s'.poison = [] :=
  ⟨_, reaches_landed (by decide +kernel), rfl, by decide +kernel, by decide +kernel⟩

theorem witness_SynchronisationCells : ∃ s1, let s := withRegs (withCells task) [(6, 0x3FFF)]
    let s0 := (s.orderScalar 0).forgetEarly 0
    (s.thread 0).wait = .none ∧ (s.reg 0 6).toNat < 2 ^ 14 ∧ (s.reg 0 6).toNat % 2 ^ 12 < (s.vi (s.thread 0).vi).syncCount
    ∧ (if orderReleases 2 then s0.releaseReady 0 4 else .ok s0) = .ok s1 ∧ s1.egressHolds 0 (.cell 3 4095) 8 = false :=
  ⟨okState ((((withRegs (withCells task) [(6, 0x3FFF)]).orderScalar 0).forgetEarly 0).releaseReady 0 4), by decide +kernel, by decide +kernel, by decide +kernel,
    ok_of_isOk (by decide +kernel), by decide +kernel⟩

/-- The clauses of the access checks over a space, a size code and an address. -/
def accessClauses (p : BitVec 2) (c : BitVec 3) (ea : Word) : List Bool :=
  let n := 2 ^ (c.toNat / 2)
  [p = spaceSync && n ≠ 8, p ≠ spaceSync && ea.toNat % n ≠ 0, p = spaceLocal && ea.toNat % n = 0 && decide (2 ^ 22 ≤ ea.toNat),
    p = spacePeer && ea.toNat % n = 0 && decide (2 ^ 28 ≤ ea.toNat), p = spaceGlobal && ea.toNat % n = 0 && !(decide (ea.toNat < 2 ^ 55) || decide (2 ^ 64 - 2 ^ 55 ≤ ea.toNat))]

theorem witness_AccessChecks : accessClauses 3 4 0 = [true, false, false, false, false] ∧ accessClauses 0 2 0x1001 = [false, true, false, false, false]
    ∧ accessClauses 1 6 0x400000 = [false, false, true, false, false] ∧ accessClauses 2 0 0x10000000 = [false, false, false, true, false]
    ∧ accessClauses 0 0 0x80000000000000 = [false, false, false, false, true] ∧ accessClauses 0 0 0xFF7FFFFFFFFFFFFF = [false, false, false, false, true]
    ∧ accessClauses 1 6 0x3FFFF8 = [false, false, false, false, false] ∧ (task.thread 0).wait = .none ∧ task.defer = false := by decide +kernel

/-- A gang of nothing, and the gang of number 0. -/
def noGang : Gang := { vi := 0, id := 0, region := 0, asn := 0, ntask := 1, percore := 1, split := 1, span := false, sup := true, entry := 0, done := 0, save := 0, args := [], st := .over, die := 0, level := 0, order := 0, since := 0, placedOrder := 0, quantumFrom := 0, cores := [], held := [], freed := [], ended := [], uids := [], fresh := false, saved := [], splits := [], pads := [], seed := 0, owed := none, stopping := false, raised := 0, saving := false }
def firstGang (s : State) : Gang := (s.gang? 0).getD noGang

/-- The task of a gang in another region, on core 1, and a fenced core 2. -/
def neighboured : State :=
  let s := (task.setGang 7 { firstGang task with cores := [1], region := 5, uids := [9] })
  s.setCore 2 { s.core 2 with fenced := true }

theorem witness_AccessChecks_cells : 2 ^ 14 ≤ (0x4000 : Word).toNat ∧ (task.vi (task.thread 0).vi).syncCount = 0 ∧ (0x3FFF : Word).toNat < 2 ^ 14
    ∧ (task.thread 0).wait = .none ∧ task.defer = false := by decide +kernel

theorem witness_AccessChecks_peers : let s := (neighboured.orderScalar 0).forgetEarly 0
    (s.core 2).fenced = true ∧ s.gangOn 3 = none ∧ (∃ h, s.gangOn 1 = some (7, h) ∧ h.region ≠ s.regionOf (s.thread 0) ∧ s.domain 0 (s.regionOf (s.thread 0)) = none)
    ∧ (0x800000 : Word).toNat / 2 ^ 22 = 2 ∧ (0xFFFFFF8 : Word).toNat < 2 ^ 28 ∧ (0xFFFFFF8 : Word).toNat % 8 = 0 ∧ s.gangOn ((0xFFFFFF8 : Word).toNat / 2 ^ 22) = none := by
  refine ⟨by decide +kernel, by decide +kernel, ⟨(neighboured.gang? 7).getD noGang, by decide +kernel⟩, by decide +kernel, by decide +kernel, by decide +kernel, by decide +kernel⟩

/-- The clauses of an atomic's checks, and of a WFE's, over a space and an address. -/
def amoClauses (lo : BitVec 1) (m : Nat) (x : Word) : List Bool :=
  [decide (x.toNat % m ≠ 0), lo = 1 && x.toNat % m = 0 && decide (2 ^ 22 ≤ x.toNat), lo = 0 && x.toNat % m = 0 && !(decide (x.toNat < 2 ^ 55) || decide (2 ^ 64 - 2 ^ 55 ≤ x.toNat))]
def wfeClauses (p : BitVec 2) (x : Word) : List Bool :=
  [p = spaceSync, p ≠ spaceSync && x.toNat % 8 ≠ 0, x.toNat % 8 = 0 && ((p = spaceLocal && decide (2 ^ 22 ≤ x.toNat)) || (p = spacePeer && decide (2 ^ 28 ≤ x.toNat))),
    x.toNat % 8 = 0 && p = spaceGlobal && !(decide (x.toNat < 2 ^ 55) || decide (2 ^ 64 - 2 ^ 55 ≤ x.toNat))]

theorem witness_AccessChecks_atomics : amoClauses 0 8 0x1004 = [true, false, false] ∧ amoClauses 1 4 0x1002 = [true, false, false] ∧ amoClauses 1 4 0x400000 = [false, true, false]
    ∧ amoClauses 0 8 0x80000000000000 = [false, false, true] ∧ amoClauses 0 4 0xFF7FFFFFFFFFFFFC = [false, false, true] ∧ amoClauses 1 8 0x3FFFF8 = [false, false, false]
    ∧ wfeClauses 3 1 = [true, false, false, false] ∧ wfeClauses 0 4 = [false, true, false, false] ∧ wfeClauses 1 0x400000 = [false, false, true, false]
    ∧ wfeClauses 2 0x10000000 = [false, false, true, false] ∧ wfeClauses 0 0x80000000000000 = [false, false, false, true] := by decide +kernel

theorem witness_CsrReadsAndWrites : let s := withRegs task [(4, 0)]
    (∀ n ∈ [0x035, 0x037, 0x800], let f := BitVec.ofNat 12 n; csrMapped f = true ∧ f.toNat < 0xC00 ∧ isVectorCsr f = false ∧ (csrMask f).isSome = true ∧ csrQueued f = false ∧ (s.thread 0).priv = .supervisor
      ∧ s.reg 0 4 &&& ~~~((csrMask f).getD 0) = 0 ∧ (csrValue s 0 f ||| s.reg 0 4) &&& ~~~((csrMask f).getD 0) = 0
      ∧ csrRefuses s 0 f (s.reg 0 4) = false ∧ csrRefuses s 0 f (csrValue s 0 f ||| s.reg 0 4) = false ∧ csrRefuses s 0 f (csrValue s 0 f &&& ~~~s.reg 0 4) = false)
    ∧ (csrMapped 0x005 = true ∧ (csrMask 0x005).isSome = true ∧ csrQueued 0x005 = true ∧ (s.vthread 0).work.entries < 32 ∧ s.hasVector 0 = true
      ∧ s.reg 0 4 &&& ~~~((csrMask 0x005).getD 0) = 0)
    ∧ (∀ n ∈ [0x010, 0x80C], let f := BitVec.ofNat 12 n; csrMapped f = true ∧ (csrWaits f = true → s.vectorQuiet 0 = true)) := by decide +kernel

theorem witness_CsrRefusals : csrMapped 0x009 = false ∧ (0xC00 ≤ (0xC00 : BitVec 12).toNat ∧ csrMapped 0xC00 = true)
    ∧ (isSupervisorCsr 0x800 = true ∧ ((asTask task).thread 0).priv = .task) ∧ (isVectorCsr 0x005 = true ∧ csrMapped 0x005 = true ∧ task.hasVector 1 = false)
    ∧ (csrMapped 0x002 = true ∧ csrMask 0x002 = none) ∧ (∃ m, csrMask 0x016 = some m ∧ (0x20 : Word) &&& ~~~m ≠ 0) :=
  ⟨by decide, by decide, by decide +kernel, by decide +kernel, by decide, ⟨0x1F, by decide, by decide⟩⟩

theorem witness_CsrRefusals_tstatus : (task.thread 0).priv = .supervisor ∧ (task.thread 0).vh = false ∧ (task.thread 0).wh = false ∧ (task.thread 0).ret = false
    ∧ (∀ y ∈ [(0x40, 6), (0x80, 7), (0x20, 5)], (BitVec.ofNat 64 y.1 : Word).getLsbD y.2 = true) := by decide +kernel

theorem witness_TrapAndBreak : let s := handled task
    (s.thread 0).nest = false ∧ (s.thread 0).tvec ≠ 0 ∧ (s.thread 0).wait = .none ∧ (s.core 0).pendSplit = none ∧ (task.thread 0).tvec = 0 := by decide +kernel

theorem witness_ReturnFromTrap : ((asTask task).thread 0).priv = .task ∧ (2 ≤ (task.setThread 0 { task.thread 0 with ppriv := 2 } |>.thread 0).ppriv.toNat)
    ∧ (let s := (at64 0).setThread 0 { (at64 0).thread 0 with vh := true, nest := true, heldV := some VectorWork.idle, wh := true }
       (s.thread 0).vh = true ∧ s.vectorQuiet 0 = false ∧ (s.thread 0).ppriv.toNat < 2 ∧ (s.thread 0).priv = .supervisor)
    ∧ (let s := task.setThread 0 { task.thread 0 with vh := true, nest := true, heldV := some VectorWork.idle, wh := true }
       (s.thread 0).vh = true ∧ (s.thread 0).wh = true ∧ s.vectorQuiet 0 = true ∧ (s.thread 0).ppriv.toNat < 2 ∧ (s.thread 0).heldV = some VectorWork.idle
       ∧ (s.thread 0).live = true ∧ (s.thread 0).priv = .supervisor ∧ (s.core 0).accs = [])
    ∧ ((0 : Word).getLsbD 6 = false ∧ (0 : Word).getLsbD 7 = false) := by decide +kernel

theorem witness_ReturnFromTrap_csr : let s := task.setThread 0 { task.thread 0 with vh := true, wh := true }
    (s.thread 0).priv = .supervisor ∧ ∀ y ∈ [0, 0x40, 0x80, 0xC9], let x := BitVec.ofNat 64 y; x &&& ~~~0xEB#64 = 0 ∧ csrRefuses s 0 0x035 x = false := by decide +kernel

/-- A pending cause of each kind. -/
def cause (k : HeldKind) : Pending := { kind := k, cause := 9, tval := 5, tvaddr := 0, tseq := 0, tblk := 0, nested := false, xinfo := none }

theorem witness_HeldTraps : ∀ k ∈ [HeldKind.vector, .wmu 0, .fabricStore, .watchdog],
    let s := (handled task).setThread 0 { (handled task).thread 0 with pending := [cause .watchdog, cause k] }
    (s.thread 0).live = true ∧ (s.thread 0).nest = false ∧ (s.thread 0).tvec ≠ 0 ∧ (s.thread 0).wait = .none ∧ (s.core 0).pendSplit = none
      ∧ (s.thread 0).nextHeld = some (cause k) := by decide +kernel

/-- The vector command queue of thread 0 holds some entries. -/
def queued (s : State) (ops : List VcqOp) : State :=
  s.setVthread 0 { s.vthread 0 with work := { (s.vthread 0).work with vcq := ops.map (fun o => { seq := 7, op := o, nested := false, aside := false }) } }

theorem witness_QueueEntries : (task.hasVector 0 = true ∧ (task.vthread 0).work.entries < 32) ∧ ((queued task (List.replicate 31 .fenceVv)).vthread 0).work.entries < 32
    ∧ (let s := queued task (List.replicate 32 .fenceVv); s.hasVector 0 = true ∧ 32 ≤ (s.vthread 0).work.entries) ∧ task.hasVector 1 = false
    ∧ (BitVec.ofInt 64 ((task.reg 0 6).toInt + (1 : BitVec 16).toInt * 8)).toNat % 8 = 0 ∧ (BitVec.ofInt 64 ((task.reg 0 4).toInt + (0 : BitVec 16).toInt * 8)).toNat % 8 ≠ 0 := by decide +kernel

theorem witness_QueueProgress : task.hasVector 0 = true ∧ (task.vthread 0).ret = [] ∧ task.vectorQuiet 0 = true ∧ (at64 0).vectorQuiet 0 = false ∧ (at64 0).hasVector 0 = true
    ∧ (let s := task.setVthread 0 { task.vthread 0 with ret := [5] }; s.hasVector 0 = true ∧ (s.vthread 0).ret = 5 :: [])
    ∧ (∀ n ∈ [0, 0x8000], (task.vthread 0).work.vcq = [] ∧ (task.vthread 0).work.run = none ∧ (task.thread 0).heldV = none ∧ ((task.thread 0).vdone - BitVec.ofNat 16 n).toNat ≤ 2 ^ 15)
    ∧ (queued task [.fenceVv]).hasVector 0 = true ∧ (∃ e ∈ ((queued task [.fenceVv]).vthread 0).work.vcq, e.seq = ((queued task [.fenceVv]).reg 0 4).setWidth 16) := by decide +kernel

theorem witness_QueueProgress_scoped : (∃ s1, task.vectorQuiet 0 = true ∧ (if orderReleases 3 then task.releaseReady 0 4 else .ok task) = .ok s1)
    ∧ (∃ s1, task.vectorQuiet 1 = true ∧ task.hasVector 1 = false ∧ (if orderReleases 1 then task.releaseReady 1 0 else .ok task) = .ok s1) ∧ (at64 0).vectorQuiet 0 = false :=
  ⟨⟨okState (task.releaseReady 0 4), by decide +kernel, ok_of_isOk (by decide +kernel)⟩, ⟨task, by decide +kernel, by decide +kernel, rfl⟩, by decide +kernel⟩

theorem witness_QueueProgress_head : ∀ o ∈ [VcqOp.varg 7 9, .setlen 256 8, .csr 0x005 1 3, .csr 0x007 2 3, .csr 0x010 3 1, .csr 0x016 3 1, .fenceVs, .fenceVv, .fenceSv, .fence 2 3],
    ((queued task [o]).vthread 0).work.vcq = { seq := 7, op := o, nested := false, aside := false } :: [] ∧ ((queued task [o]).vthread 0).work.run = none
      ∧ ((queued task [o]).vthread 0).work.faulted = false := by decide +kernel

theorem witness_SplitsAndMerges : (task.thread 0).vh = false ∧ (task.core 0).pendSplit = none ∧ splitReady task 0 0 = true
    ∧ (task.vthread 0).vl ≤ (if (4 : BitVec 12) = 1 then 256 else if (4 : BitVec 12) = 2 then 128 else 64) ∧ task.hasVector 0 = true ∧ (task.vthread 0).vl ≤ 256
    ∧ (splitReady (at64 0) 0 0 = false ∧ ((at64 0).core 0).pendSplit = none)
    ∧ (let s := task.setCore 0 { task.core 0 with pendSplit := some (4, 0) }; (s.core 0).pendSplit = some (4, 0) ∧ splitReady s 0 0 = true) := by decide +kernel

theorem witness_WaitForEvent : ∃ s', (∀ i, (task.thread 0).wait ≠ .request i) ∧ ((task.thread 0).early = none ∧ (0 : BitVec 2) ≠ spaceSync)
    ∧ Reaches ((task.orderScalar 0).forgetEarly 0) 0 .read false 0 (task.reg 0 6) 8 (.hbm 0x1000) 0 s' ∧ s'.readsPoison 0 (.hbm 0x1000) 8 = false
    ∧ BitVec.ofNat 64 (leNat (s'.loadBytes 0 0 (.hbm 0x1000) 8)) ≠ task.reg 0 4 ∧ BitVec.ofNat 64 (leNat (s'.loadBytes 0 0 (.hbm 0x1000) 8)) = task.reg 0 0 :=
  ⟨_, fun i h => (by decide +kernel : (task.thread 0).wait ≠ .none → False) (fun e => by rw [e] at h; cases h), by decide +kernel, reaches_landed (by decide +kernel), by decide +kernel, by decide +kernel, by decide +kernel⟩

theorem witness_WaitForEvent_woken : let s := task.setThread 0 { task.thread 0 with wait := .wfe 3 6 0 0 }
    (s.thread 0).wait = .wfe 3 6 0 0 ∧ (s.thread 0).early = none ∧ placeOf ((s.orderScalar 0).forgetEarly 0) 0 .read false 0 (s.reg 0 6) 8 = some (.hbm 0x1000, 0) := by decide +kernel

theorem witness_IllegalWordsAndFetchFaults : ((at64 0).vthread 0).work.run.isSome = true ∧ ((at64 0).thread 0).pending = [] := by decide +kernel

/-- Eight bytes of HBM. -/
def put8 (s : State) (a v : Nat) : State := { s with hbm := Memory.writeList s.hbm a (leBytes 8 v) }

/-- The words of the tables below: an address space with a slab table, a pinned 64 GiB leaf and one 64 KiB page at 2^36, and region 0 with a quantum and
a starvation bound of 10 and four race contexts. -/
def worldWords : List (Nat × Nat) :=
  [(0x10000, 0x12003), (0x10008, 0x1A000), (0x12000, 0x14001), (0x14000, 0x1FF), (0x14008, 0x16001), (0x16000, 0x18001), (0x18000, 0x5000FF),
    (0x40000, 3 + 0x3FF * 2 ^ 22), (0x40008, 64 + 4 * 2 ^ 8), (0x40010, 10 + 10 * 2 ^ 32), (0x40018, 100), (0x40020, 100)]

/-- The task with these words in its memory, byte by byte. -/
def world : State :=
  { task.setVi 0 { task.vi 0 with rgnbase := 0x40000 } with
    hbm := [(0x10000, 0x03), (0x10001, 0x20), (0x10002, 0x01), (0x10009, 0xA0), (0x1000A, 0x01), (0x12000, 0x01), (0x12001, 0x40), (0x12002, 0x01),
      (0x14000, 0xFF), (0x14001, 0x01), (0x14008, 0x01), (0x14009, 0x60), (0x1400A, 0x01), (0x16000, 0x01), (0x16001, 0x80), (0x16002, 0x01), (0x18000, 0xFF),
      (0x18002, 0x50), (0x40000, 0x03), (0x40002, 0xC0), (0x40003, 0xFF), (0x40008, 0x40), (0x40009, 0x04), (0x40010, 0x0A), (0x40014, 0x0A), (0x40018, 0x64), (0x40020, 0x64)] }

theorem test_world_memory : worldWords.foldl (fun m p => Memory.writeList m p.1 (leBytes 8 p.2)) [] = world.hbm := by decide +kernel

/-- The gang of the task, and its chain of regions. -/
def gang0 : Gang := firstGang world
def chain0 : List (Nat × Rcb) := (world.chain 0 0).getD []

theorem get_all {α : Type} {P : α → Prop} {d : α} {t : Tab α} (hd : P d) (h : ∀ e ∈ t, P e.2) (k : Nat) : P (Tab.get d k t) := by
  induction t with
  | nil => exact hd
  | cons e t ih =>
    obtain ⟨k', v⟩ := e
    simp only [Tab.get]
    split
    · exact h (k', v) (by simp)
    · exact ih (fun e he => h e (List.mem_cons_of_mem _ he))

/-- A command of the task. -/
def cmd (code n : Nat) (args : List Word) : Cmd :=
  { id := 5, uid := 1, vi := 0, asn := 0, priv := .supervisor, region := 0, die := 0, header := BitVec.ofNat 64 (code * 2 ^ 56 + args.length * 2 ^ 48 + n), args := args
    geom := 0, started := false, done := 0, buf := [], wr := 0, req := none, mem := [], run := none, result := none }

theorem witness_TaskExits : (at64 0).vectorQuiet 0 = false
    ∧ (let s := task.setCore 0 { task.core 0 with copyQ := [cmd 1 0 []] }; s.cores.any (fun c => c.2.copyQ.any (fun k => k.uid = (s.thread 0).uid)) = true)
    ∧ (let s := task.setThread 1 { task.thread 0 with uid := 2, index := 1 }
       s.vectorQuiet 0 = true ∧ (s.cores.any (fun c => c.2.copyQ.any (fun k => k.uid = 1)) || s.dies.any (fun d => d.2.pageQ.any (fun k => k.uid = 1)) || s.hub.fcQ.any (fun k => k.uid = 1)) = false
       ∧ (s.thread 0).race = none ∧ (s.thread 0).pend = [] ∧ (s.vthread 0).pend = [] ∧ (s.gang? (s.thread 0).gang).isSome = true
       ∧ (s.tidsOf 0).any (fun x => x ≠ 0 && x / 4 = 0) = true) := by decide +kernel

/-- The clock of die 0 at its quantum, and a gang waiting in its queue. -/
def late : State := world.setDie 0 { world.die 0 with ageclk := 10 }
def contested : State := late.setGang 1 { gang0 with st := .queued, cores := [], held := [], uids := [], fresh := true, order := 1 }

theorem witness_QuantaAndStarvation : (world.gang? 0 = some gang0 ∧ world.chain gang0.vi gang0.region = some chain0 ∧ (world.thread 0).gang = 0 ∧ gang0.isPlaced = true
      ∧ world.quantumDue gang0 = false ∧ (world.retire 0).quantumDue gang0 = false)
    ∧ (effective 4 chain0 ≠ 0 ∧ gang0.quantumFrom + effective 4 chain0 ≤ (late.die gang0.die).ageclk ∧ late.quantumDue gang0 = false ∧ gang0.stopping = false)
    ∧ (contested.gang? 0 = some gang0 ∧ contested.chain 0 0 = some chain0 ∧ contested.quantumDue gang0 = true ∧ contested.copyRuns gang0 = false)
    ∧ (let g := (contested.gang? 1).getD gang0; g.isQueued = true ∧ effective 5 chain0 ≠ 0 ∧ g.level < 15 ∧ g.since + effective 5 chain0 ≤ (contested.die g.die).ageclk) := by decide +kernel

/-- A task whose watchdog count has reached its limit of five. -/
def watched (w : Word) : State := task.setThread 0 { task.thread 0 with wdog := w, wdogCount := 5 }

theorem witness_QuantaAndStarvation_watchdog : ((watched 5).thread 0).live = true ∧ ((watched 5).thread 0).wdog.toNat % 4294967296 = 5 ∧ ((watched 5).thread 0).wdogCount = 5
    ∧ ((watched 5).thread 0).pending = [] ∧ ((watched 5).thread 0).wdog.getLsbD 63 = false := by decide +kernel

theorem witness_QuantaAndStarvation_stop : ((watched 0x8000000000000005).thread 0).wdog.toNat % 4294967296 = 5 ∧ ((watched 0x8000000000000005).thread 0).wdog.getLsbD 63 = true
    ∧ ((watched 5).thread 0).priv = .supervisor ∧ (5 : Word) &&& 0x7FFFFFFF00000000#64 = 0 := by decide +kernel

theorem witness_SupervisorRegisterEvents : (world.thread 0).live = true ∧ (world.thread 0).priv = .supervisor ∧ (world.chain 0 0).isSome = true ∧ world.chain 0 1 = none
    ∧ (let s := world.setHub { world.hub with fq := [{ vi := 0, seq := 3, page := 0, kind := 0 }] }
       s.hub.fq.find? (fun e => e.vi = 0 && e.seq % 2 ^ 32 = (3 : BitVec 32).toNat) = some { vi := 0, seq := 3, page := 0, kind := 0 })
    ∧ csrMask 0x037 = some (BitVec.allOnes 64) ∧ csrRefuses world 0 0x037 5 = false := by decide +kernel

theorem witness_CachesAndTranslations : ((asTask task).thread 0).priv = .task ∧ (task.thread 0).priv = .supervisor ∧ (∀ d, (task.die d).egress = []) ∧ task.hub.reqs = []
    ∧ (∀ x, (task.thread x).pend = [] ∧ (task.vthread x).pend = []) ∧ (∀ d ∈ task.dies, d.2.egress = []) ∧ (task.reg 0 6).toNat % 2 ^ 56 / 2 ^ 48 ≠ 0xFE :=
  ⟨by decide +kernel, by decide +kernel, fun d => get_all (P := fun x : Die => x.egress = []) rfl (by decide +kernel) d, by decide +kernel,
    fun x => ⟨get_all (P := fun x : CThread => x.pend = []) rfl (by decide +kernel) x, get_all (P := fun x : VThread => x.pend = []) rfl (by decide +kernel) x⟩, by decide +kernel, by decide +kernel⟩

theorem witness_CachesAndTranslations_cached : let s := (queued task [.fenceVv]).setCore 0 { task.core 0 with bcache := [(0x20000, 5)] }
    (s.vthread 0).work.vcq ≠ [] ∧ (s.vthread 0).work.kept = [] ∧ (0x20000, 5) ∈ (s.core 0).bcache ∧ ∀ x ∈ (s.core 0).bcache, x.1 = 0x20000 → x.2 = 5 := by decide +kernel

theorem witness_CachesAndTranslations_waiting : (let s := withRegs task [(6, 0xFE000400000000)]; (s.reg 0 6).toNat % 2 ^ 56 / 2 ^ 48 = 0xFE ∧ (s.thread 0).wait = .none)
    ∧ (∀ ids ∈ [[], [4]], let s := task.setThread 0 { task.thread 0 with wait := .inval ids }; (s.thread 0).priv = .supervisor ∧ (s.thread 0).wait = .inval ids) := by decide +kernel

/-- A descriptor at 0x2000: one supervisor task of region 0, its entry at 0x20000. -/
def launching : State := put8 (withRegs world [(6, 0x2000)]) 0x2008 0x20000

theorem witness_Launches : ∃ s1 s3 c, let s0 := launching.flushScalar 0
    (launching.thread 0).wait = .none
    ∧ s0.check (s0.agentOf 0 false) (s0.regionOf (launching.thread 0)) .read false false spaceGlobal (launching.reg 0 6) 128 = .ok (.here (.hbm 0x2000) 0, s1)
    ∧ s1.readsPoison 0 (.hbm 0x2000) 128 = false ∧ ((s1.observe 0 (launching.thread 0).uid (.hbm 0x2000) 128).thread 0).priv = .supervisor
    ∧ (s1.observe 0 (launching.thread 0).uid (.hbm 0x2000) 128).releaseReady 0 3 = .ok s3
    ∧ s3.judgeLaunch 0 ((List.range 16).map (fun j => BitVec.ofNat 64 (leNat (s1.loadBytes 0 0 ((Loc.hbm 0x2000).plus (8 * j)) 8)))) = .ok c
    ∧ s3.queueLength (effective 2 c) < 1024
    ∧ s3.judgeLaunch 0 [1] = .error 4 :=
  ⟨_, okState (((okSnd (let s0 := launching.flushScalar 0; s0.check (s0.agentOf 0 false) (s0.regionOf (launching.thread 0)) .read false false spaceGlobal (launching.reg 0 6) 128)).observe 0 1 (.hbm 0x2000) 128).releaseReady 0 3), chain0,
    by decide +kernel, ok_pair (by decide +kernel), by decide +kernel, by decide +kernel, ok_of_isOk (by decide +kernel), ok_val (by decide +kernel), by decide +kernel, err_of (by decide +kernel)⟩

theorem witness_Parking : ∃ s1, let s := withRegs world [(6, 0x100000)]
    let s2 := s1.awaitEgress 0 (.hbm 0x100000) 8
    (s.thread 0).parked = none ∧ parkChecks (s.flushScalar 0) 0 (parkPages (s.reg 0 6) (contextBytes (s.core 0).split)) none = .ok (some (.here (.hbm 0x100000) 0), s1)
    ∧ (s.reg 0 6).toNat % 256 = 0 ∧ (s.reg 0 6).toNat / 2 ^ 48 % 256 ≠ 0xFE ∧ bits (s2.physWord 0 0 0x100000) 63 8 = 0 ∧ bits (s2.physWord 0 0 0x100000) 7 4 = 0
    ∧ s2.gangOfTask (s2.thread 0) = some gang0 ∧ gang0.ntask ≤ 1 ∧ bits (s2.physWord 0 0 0x100000) 2 0 = 0 ∧ s2.recs = [] ∧ (s2.core 0).slots = [] ∧ (s2.core 0).accs = []
    ∧ (s2.thread 0).race = none :=
  ⟨_, by decide +kernel, ok_pair (by decide +kernel), by decide +kernel⟩

theorem witness_Parking_slab : parkSlabOk (put8 world 0x1A000 (1 + 16 * 2 ^ 10)) 0 0 = true
    ∧ (let s := world.setHub { world.hub with fcQ := [cmd 0x22 0 []] }; s.hub.fcQ.any (fun c => c.uid = (s.thread 0).uid) = true) := by decide +kernel

theorem witness_Launches_task : let w : List Word := [1]
    descSup w = false ∧ descRegion w = (asTask launching).regionOf ((asTask launching).thread 0) ∧ ((asTask launching).thread 0).priv = .task := by decide +kernel

/-- A record in SAVING. -/
def record : ParkRec :=
  { vi := 0, asn := 0, va := 0x100000, at_ := 0x100000, key := 0, die := 0, gang := 0, st := .saving, gd := 3, slabs := [], hotTokens := 4096, d1 := 20000, d2 := 2000000, hk := false, parkage := 0
    seed := 9, woken := false, demoted := 0, discarded := 0, promoted := 0, failed := 0, firstFail := 0, failReason := 6, pages := [], hot := [], rest := [], hotFailed := false, dwell := [], wake := 0
    lens := [], req := none, descs := [], resumed := false }

theorem witness_Parking_saved : let s := (withRegs world [(6, 0x100000)]).setThread 0 { (withRegs world [(6, 0x100000)]).thread 0 with parked := some 2 }
    let v := s.setRec 2 record
    (v.thread v.cur).parked = some 2 ∧ v.rec? 2 = some record ∧ record.va = v.reg v.cur 6 ∧ (parkSave v v.cur 2 record).isOk = true := by decide +kernel

theorem begins_with {s : State} {tid : Nat} {f : VFields} {codes : List (BitVec 6)} {regs : List Nat} {P : Reading → State → Bool} (hr : (s.vectorRuns tid && decide (s.share = .whole)) = true)
    (h : (match okFst (s.begin_ tid f codes regs) with
      | some c => decide (c.v.vl ≤ 256) && decide (c.v.vr ≤ 8) && P c (okSnd (s.begin_ tid f codes regs))
      | none => false) = true) : ∃ c s', Begins s tid f codes regs c s' ∧ P c s' = true := by
  split at h
  · next c hc =>
    simp only [Bool.and_eq_true, decide_eq_true_eq] at h
    exact ⟨c, _, ⟨(Bool.and_eq_true_iff.1 hr).1, of_decide_eq_true (Bool.and_eq_true_iff.1 hr).2, ok_pair hc, h.1⟩, h.2⟩
  · exact absurd h (by simp)

/-- The operands v1 and v2 (and v1 again), into v3. -/
def vf : VFields := { zv with vd := 3, sa := 1, sb := 2, sc := 1 }

/-- `vec` with block arguments, FILL, a group on queue 0, and a return queue of some length. -/
def vecArgs (n : Nat) : State :=
  vec.setVthread 0 { vec.vthread 0 with bargs := [(0, 0x1000), (1, 0x10), (2, 2), (7, 9)], fill := 5, queues := [(0, [{ vr := 1, vl := 1, data := [11], struck := false }])], ret := List.replicate n 3 }

theorem witness_VectorOperands : ∀ p ∈ [((31 : BitVec 6), (0 : BitVec 2)), (1, 1), (0, 2), (36, 0), (43, 0), (44, 0), (45, 0), (32, 0)],
    ∃ c s', Begins (vecArgs 0) 0 { vf with sa := p.1, nb := p.2 } [p.1] [] c s' ∧ (decide (1 < c.total) && decide (c.v.vl = 2)) = true := by
  intro p hp
  simp only [List.mem_cons, List.not_mem_nil, or_false] at hp
  rcases hp with rfl | rfl | rfl | rfl | rfl | rfl | rfl | rfl <;> exact begins_with (by decide +kernel) (by decide +kernel)

theorem witness_VectorOperands_state : (vecArgs 0).poison = [] ∧ ((vecArgs 0).vthread 0).work.popped = none ∧ ((vecArgs 0).vthread 0).work.vstart = 0 ∧ ((vecArgs 0).vthread 0).binds = []
    ∧ Tab.get [] 0 ((vecArgs 0).vthread 0).queues = [{ vr := 1, vl := 1, data := [11], struck := false }] := by decide +kernel

/-- No element of an instruction of the element table raises an enabled flag. -/
def calm (f : VFields) (k : Nat) (c : Reading) : Bool :=
  match (elementTable f)[k]? with
  | some op => (List.range c.total).all (fun i => (op.value c i).2 &&& c.v.fctl = 0)
  | none => false

theorem witness_ElementwiseInstructions : ∀ p ∈ [(0, [vf.sa, vf.sb]), (3, [vf.sa, vf.sb, vf.sc]), (7, [vf.sa])],
    ((elementTable vf)[p.1]?).map (fun op => op.codes) = some p.2 ∧ vf.nb = 0 ∧ ∃ c s', Begins vec 0 vf p.2 [] c s' ∧ calm vf p.1 c = true := by
  intro p hp
  simp only [List.mem_cons, List.not_mem_nil, or_false] at hp
  rcases hp with rfl | rfl | rfl <;> exact ⟨by decide +kernel, rfl, begins_with (by decide +kernel) (by decide +kernel)⟩

/-- Four element groups of 64 elements, of which a turn performs the first or the first three. -/
def wide (n : Nat) : State := { vec.setVthread 0 { vec.vthread 0 with vl := 256 } with share := .groups n }

theorem witness_ElementwiseInstructions_groups : ∀ n ∈ [0, 2], ∃ c s1, (wide n).vectorRuns 0 = true ∧ (wide n).share = .groups n ∧ (wide n).begin_ 0 vf [vf.sa, vf.sb] [] = .ok (c, s1)
    ∧ (decide (c.v.vl ≤ 256 ∧ c.v.vr ≤ 8) && c.v.work.packets = [] && decide ((c.v.work.vstart / 64 + n + 1) * 64 < c.total) && calm vf 0 c) = true := by
  have h (n : Nat) (hn : (match okFst ((wide n).begin_ 0 vf [vf.sa, vf.sb] []) with
      | some c => decide (c.v.vl ≤ 256 ∧ c.v.vr ≤ 8) && c.v.work.packets = [] && decide ((c.v.work.vstart / 64 + n + 1) * 64 < c.total) && calm vf 0 c
      | none => false) = true) : ∃ c s1, (wide n).begin_ 0 vf [vf.sa, vf.sb] [] = .ok (c, s1)
      ∧ (decide (c.v.vl ≤ 256 ∧ c.v.vr ≤ 8) && c.v.work.packets = [] && decide ((c.v.work.vstart / 64 + n + 1) * 64 < c.total) && calm vf 0 c) = true := by
    split at hn
    · next c hc => exact ⟨c, _, ok_pair hc, hn⟩
    · exact absurd hn (by simp)
  intro n hn
  simp only [List.mem_cons, List.not_mem_nil, or_false] at hn
  rcases hn with rfl | rfl
  · obtain ⟨c, s1, hc, hp⟩ := h 0 (by decide +kernel)
    exact ⟨c, s1, by decide +kernel, rfl, hc, hp⟩
  · obtain ⟨c, s1, hc, hp⟩ := h 2 (by decide +kernel)
    exact ⟨c, s1, by decide +kernel, rfl, hc, hp⟩

theorem witness_ElementwiseInstructions_cross : ∀ p ∈ [(0, [vf.sa]), (1, [vf.sa, vf.sb])],
    ((crossTable vf)[p.1]?).map (fun op => op.codes) = some p.2 ∧ vf.sa.toNat ≠ vf.vd.toNat ∧ vf.vd ≠ 0 ∧ ∃ c s', Begins vec 0 vf p.2 [] c s' ∧ decide (c.total = 2) = true := by
  intro p hp
  simp only [List.mem_cons, List.not_mem_nil, or_false] at hp
  rcases hp with rfl | rfl <;> exact ⟨by decide +kernel, by decide, by decide, begins_with (by decide +kernel) (by decide +kernel)⟩

/-- Division by zero enabled, the second divisor zero. -/
def vecZero : State :=
  vec.setVthread 0 { vec.vthread 0 with fctl := 2, regs := [(1, [(0, 0x3F800000), (1, 0x40000000)]), (2, [(0, 0x40400000)])] }

theorem witness_EnabledFlagsTrap : ((elementTable vf)[6]?).map (fun op => op.codes) = some [vf.sa, vf.sb] ∧ ∃ c s', Begins vecZero 0 vf [vf.sa, vf.sb] [] c s'
    ∧ (match (elementTable vf)[6]? with
      | some op => (op.value c 0).2 &&& c.v.fctl = 0 && (op.value c 1).2 &&& c.v.fctl ≠ 0 && decide (c.v.work.vstart = 0) && decide (c.total = 2) && c.active 1
          && (s'.vthread 0).work.run.isSome && (s'.thread 0).pending = []
      | none => false) = true := ⟨by decide +kernel, begins_with (by decide +kernel) (by decide +kernel)⟩

theorem witness_EnabledFlagsTrap_overlap : vec.vectorRuns 0 = true ∧ (vec.vthread 0).work.run.isSome = true ∧ (vec.thread 0).pending = []
    ∧ (let f := { vf with vd := 1, nb := 1 }; f.nb ≠ 0 ∧ f.sa.toNat = f.vd.toNat) ∧ (let f := { vf with vd := 0, mask := 1 }; f.vd = 0 ∧ f.mask ≠ 0) := by decide +kernel

/-- The tree of a floating-point reduction ends in one value without an enabled flag. -/
def treeEnds (f : VFields) (op : Nat) (c : Reading) : Bool :=
  let t := tree (combine f op) (identity f.ty op) 11 ((List.range c.total).map (fun j => if c.active j then c.plainA (j / c.v.vl) (j % c.v.vl) else identity f.ty op))
  t.1.length = 1 && t.2 &&& c.v.fctl = 0

theorem witness_Reductions : ∀ t ∈ [(0 : BitVec 3), 1, 2, 3], ∃ c s', Begins (vecArgs 15) 0 { vf with ty := t, ext := 1 } [vf.sa] [] c s'
    ∧ (decide (c.v.work.vstart = 0) && decide ((s'.vthread 0).ret.length = 15) && decide (2 ≤ c.v.vl)
      && (decide (2 ≤ t.toNat) || [0, 1, 2].all (fun op => treeEnds { vf with ty := t, ext := 1 } op c))) = true := by
  intro t ht
  simp only [List.mem_cons, List.not_mem_nil, or_false] at ht
  rcases ht with rfl | rfl | rfl | rfl <;> exact begins_with (by decide +kernel) (by decide +kernel)

theorem witness_Reductions_twoSum : ∃ c s', Begins vec 0 vf [vf.sa] [] c s' ∧
    (let t := tree twoSumNode (0x80000000, 0x80000000) 11 ((List.range c.total).map (fun j => (if c.active j then c.plainA (j / c.v.vl) (j % c.v.vl) else 0x80000000, 0x80000000)))
     t.1.length = 1 && t.2 &&& c.v.fctl = 0 && decide (2 ≤ c.v.vl)) = true := begins_with (by decide +kernel) (by decide +kernel)

theorem witness_ReturnQueuePushes : ∀ n ∈ [15, 16], ∃ c s', Begins (vecArgs n) 0 { vf with ty := 2 } [vf.sa] [] c s'
    ∧ (decide (c.v.work.vstart = 0) && decide ((s'.vthread 0).ret.length = n) && decide (c.total = 2) && c.active 0 && c.active 1
      && decide (intOf 2 (c.plainA 0 0) < intOf 2 (c.plainA 0 1))) = true := by
  intro n hn
  simp only [List.mem_cons, List.not_mem_nil, or_false] at hn
  rcases hn with rfl | rfl <;> exact begins_with (by decide +kernel) (by decide +kernel)

theorem witness_FoldsAndScans : ∀ t ∈ [(2 : BitVec 3), 3], ∃ c s', Begins vec 0 { vf with ty := t, ext := 3 } [vf.sa] [] c s' ∧ decide (c.v.work.vstart = 0) = true := by
  intro t ht
  simp only [List.mem_cons, List.not_mem_nil, or_false] at ht
  rcases ht with rfl | rfl <;> exact begins_with (by decide +kernel) (by decide +kernel)

theorem witness_RoundingToIntegers : 0 < 2 ∧ ¬ 2 ∣ 5 ∧ 2 ∣ 4 ∧ (roundAt .rne false 5 2 0).1 = 2 ∧ (roundAt .rup false 5 2 0).1 = 3 ∧ (roundAt .rdn true 5 2 0).1 = 3 := by decide +kernel

theorem witness_BlocksAndBarriers : vec.vectorRuns 0 = true ∧ ((vec.vthread 0).work.run.bind (fun r => r.drain)) = none ∧ (vec.vthread 0).work.run.isSome = true
    ∧ (vec.vthread 0).work.vcq.length = 1
    ∧ (let s := task.setCore 0 { task.core 0 with cycle := 8192 }
       s.hasVector 0 = true ∧ s.vectorQuiet 0 = true ∧ (s.vthread 0).retained = false ∧ 8192 ≤ (s.core 0).cycle - (s.vthread 0).idleFrom) := by decide +kernel

theorem witness_BlocksAndBarriers_stream : ∃ c s', Begins (vecArgs 0) 0 { zv with sa := 36, sb := 38, ext := 0x2000 } [] [] c s'
    ∧ decide (0 < (c.v.word { zv with sa := 36, sb := 38, ext := 0x2000 } 38).toNat % 2 ^ 32) = true := begins_with (by decide +kernel) (by decide +kernel)

/-- The load of queue 0 at the block's second word, and the state before it: a VNOP in execution, RAD = 2. -/
def ahead : VFields := { zv with sa := 36, ext := 0x2000 }
def before : State :=
  let s := put8 (put8 vec 0x20000 0x0200000000000000) 0x20008 0x8004800000002000
  s.setVthread 0 { s.vthread 0 with bargs := [(0, 0x1000)], rad := 2 }

theorem sound_of {s : State} {tid : Nat} {k : Kind} {space : BitVec 2} {cond : Bool} {got : Nat → Option Word} {plan : List VElem}
    (h : (s.sound tid k space cond got plan).2.1.isNone = true) :
    s.sound tid k space cond got plan = ((s.sound tid k space cond got plan).1, none, (s.sound tid k space cond got plan).2.2) := by
  rw [← Option.isNone_iff_eq_none.1 h]

/-- Every access stands in this module, as a test. -/
def here (good : List Checked) : Bool := good.all (fun g => g.2.all (fun p => match p.2 with | .here _ _ => true | _ => false))

theorem allHere_of {good : List Checked} (h : here good = true) : AllHere good := by
  intro g hg p hp
  have h := List.all_eq_true.1 (List.all_eq_true.1 h g hg) p hp
  split at h
  · next l key e => exact ⟨l, key, e⟩
  · exact absurd h (by simp)

/-- Checked elements of one access each in bytes at home, as a test. -/
def plain (s : State) (die : Nat) (good : List Checked) : Bool :=
  good.all (fun g => match g.2 with
    | [(a, .here l key)] => a.idx = g.1.idx && a.keep = 0 && l.isByte && l.home = die && !s.egressHolds die l a.n && key = 0
    | _ => false)

theorem plainHere_of {s : State} {die : Nat} {good : List Checked} (h : plain s die good = true) : PlainHere s die 0 good := by
  intro g hg
  have h := List.all_eq_true.1 h g hg
  split at h
  · next a l key e =>
    simp only [Bool.and_eq_true, decide_eq_true_eq, Bool.not_eq_true'] at h
    exact ⟨a, l, h.2 ▸ e, h.1.1.1.1.1, h.1.1.1.1.2, h.1.1.1.2, h.1.1.2, h.1.2⟩
  · exact absurd h (by simp)

theorem witness_BlocksAndBarriers_runahead : let v := before.vthread 0
    (before.thread 0).live = true ∧ before.hasVector 0 = true ∧ v.work.faulted = false ∧ before.poison = [] ∧ ∃ w, before.walkTo 0 1 = some w
      ∧ (let c := w.reading ahead
         let g := (before.orderVector 0 0 1).sound 0 .read 0 false (fun _ => none) (vldPlan c)
         decide (1 < w.v.rad) && decide (before.heldRows 0 + w.v.vr ≤ 64) && decide (before.instrAt 0 w.addr w.word = some (.vld ahead, 0x8004800000002000, 0))
          && (Tab.find (State.aheadKey w.seq w.word 0) v.ahead).isNone && ahead.q && ahead.mask = 0 && !w.streams.contains 0 && g.2.1.isNone && here g.1
          && g.1.all (fun x => (c.loaded x.1.idx (readVals g.2.2 0 x.2)).isSome) && g.1.map (fun x => x.1.idx) = [0, 1]) = true := by
  have h (o : Option Walk) (p : Walk → Bool) (h : o.any p = true) : ∃ w, o = some w ∧ p w = true := by
    cases o with
    | none => exact absurd h (by simp)
    | some w => exact ⟨w, rfl, by simpa using h⟩
  exact ⟨by decide +kernel, by decide +kernel, by decide +kernel, by decide +kernel, h _ _ (by decide +kernel)⟩

/-- What the loads of an addressing form ask of a state, the indexed ones with their sounding pass. -/
def loads (s : State) (f : VFields) (i : Instr) (indexed : Bool) (plan : Reading → List VElem) (c : Reading) (s' : State) : Bool :=
  let s0 := if indexed then s'.soundAll 0 .read f.space (plan c) else .ok s'
  let g := ((okState s0).orderVector 0 f.rs.toNat 0).sound 0 .read f.space false (fun _ => none) (plan c)
  s0.isOk && (bfpReady s 0 f i.word).isOk && c.v.work.vstart = 0 && c.v.work.part.isNone && c.v.ahead.isEmpty && c.v.work.early.isEmpty && c.v.work.packets = [] && g.2.1.isNone && here g.1
    && g.1.length = 2 && g.1.all (fun x => (c.loaded x.1.idx (readVals g.2.2 0 x.2)).isSome) && decide (s'.queuedRows 0 + c.v.vr ≤ 64)

/-- Index v4 = (0, 64), base b0, stride b1. -/
def indexed : State := (vecArgs 0).setVthread 0 { (vecArgs 0).vthread 0 with regs := (4, [(1, 64)]) :: ((vecArgs 0).vthread 0).regs }
def lf : VFields := { zv with vd := 3, sa := 36 }

theorem witness_VectorLoads : (∃ c s', Begins (vecArgs 0) 0 lf [] [] c s' ∧ loads (vecArgs 0) lf (.vld lf) false vldPlan c s' = true)
    ∧ (let f := { lf with ext := 0x2C00 }; f.q = true ∧ f.w = true ∧ ∃ c s', Begins (vecArgs 0) 0 f [] [] c s' ∧ loads (vecArgs 0) f (.vld f) false vldPlan c s' = true)
    ∧ (let f := { lf with vd := 0, ext := 0x3800 }; f.q = true ∧ f.w = false ∧ ∃ c s', Begins (vecArgs 0) 0 f [] [] c s' ∧ loads (vecArgs 0) f (.vld f) false vldPlan c s' = true) :=
  ⟨begins_with (by decide +kernel) (by decide +kernel), ⟨by decide, by decide, begins_with (by decide +kernel) (by decide +kernel)⟩,
    ⟨by decide, by decide, begins_with (by decide +kernel) (by decide +kernel)⟩⟩

theorem witness_VectorLoads_forms : (let f := { lf with sb := 37 }; ∃ c s', Begins (vecArgs 0) 0 f [] [] c s' ∧ loads (vecArgs 0) f (.vlds f) false (fun c => c.loadPlan c.stridedEa) c s' = true)
    ∧ (let f := { lf with sb := 4 }; ∃ c s', Begins indexed 0 f [f.sb] [] c s' ∧ loads indexed f (.vldx f) true (fun c => c.loadPlan c.indexedEa) c s' = true
        ∧ loads indexed f (.vgll f) true (fun c => c.loadPlan c.indexedEa) c s' = true) := by
  refine ⟨begins_with (by decide +kernel) (by decide +kernel), ?_⟩
  obtain ⟨c, s', h, hp⟩ := begins_with (s := indexed) (tid := 0) (f := { lf with sb := 4 }) (codes := [4]) (regs := [])
    (P := fun c s' => loads indexed { lf with sb := 4 } (.vldx { lf with sb := 4 }) true (fun c => c.loadPlan c.indexedEa) c s'
      && loads indexed { lf with sb := 4 } (.vgll { lf with sb := 4 }) true (fun c => c.loadPlan c.indexedEa) c s') (by decide +kernel) (by decide +kernel)
  exact ⟨c, s', h, (Bool.and_eq_true_iff.1 hp).1, (Bool.and_eq_true_iff.1 hp).2⟩

/-- What the stores of an addressing form ask of a state. -/
def stores (s : State) (f : VFields) (i : Instr) (indexed defer : Bool) (plan : Reading → List VElem) (c : Reading) (s' : State) : Bool :=
  let z := if indexed then s'.soundAll 0 .write f.space (plan c) else .ok s'
  let g := (okState z).sound 0 .write f.space false (fun _ => none) (plan c)
  z.isOk && c.v.work.vstart = 0 && c.v.work.packets = [] && c.v.work.early.isEmpty && (bfpReady s 0 f i.word).isOk && (plan c).all (fun e => (c.v.firstEnabled e.flags).isNone) && g.2.1.isNone
    && g.2.2.defer = defer && plain (g.2.2.orderVector 0 f.rs.toNat 0) 0 g.1 && g.1.length = 2 && decide (((localSpots g.1).map (fun p => p.2.1)).Nodup)

def sf : VFields := { zv with vd := 1, sa := 36 }

/-- Stores may be issued without taking effect yet. -/
def deferred : State := { vecArgs 0 with defer := true }

theorem witness_VectorStores : (∃ c s', Begins (vecArgs 0) 0 sf (scaleCodes sf) [1] c s' ∧ stores (vecArgs 0) sf (.vst sf) false false (fun c => c.storePlan c.unitEa false) c s' = true)
    ∧ (let f := { sf with sb := 37 }; ∃ c s', Begins (vecArgs 0) 0 f (scaleCodes f) [1] c s' ∧ stores (vecArgs 0) f (.vsts f) false false (fun c => c.storePlan c.stridedEa false) c s' = true)
    ∧ (let f := { sf with sb := 4 }; ∃ c s', Begins indexed 0 f [f.sb] [1] c s' ∧ stores indexed f (.vstxO f) true false (fun c => c.storePlan c.indexedEa false) c s' = true)
    ∧ (∃ c s', Begins deferred 0 sf (scaleCodes sf) [1] c s' ∧ stores deferred sf (.vst sf) false true (fun c => c.storePlan c.unitEa false) c s' = true)
    ∧ sf.fmt < 8 ∧ (let f := { sf with ty := 3, ext := 0x110000 }; f.fmt = 17) :=
  ⟨begins_with (by decide +kernel) (by decide +kernel), begins_with (by decide +kernel) (by decide +kernel), begins_with (by decide +kernel) (by decide +kernel), begins_with (by decide +kernel) (by decide +kernel), by decide, by decide⟩

/-- A VSTN of two elements whose waypoint word b2 names stands at 0x3000, with its order code in the low bits. -/
def waypoint : State := (vecArgs 0).setVthread 0 { (vecArgs 0).vthread 0 with bargs := [(0, 0x1000), (2, 0x3001)] }
def nf : VFields := { sf with sb := 38 }

theorem witness_VectorStores_waypoint : ∃ c s', Begins waypoint 0 nf (scaleCodes nf) [1] c s' ∧
    (let a := c.v.word nf nf.sb
     let g := s'.sound 0 .write nf.space false (fun _ => none) [{ idx := c.v.work.vstart, accs := [oneAcc c.v.work.vstart (a &&& ~~~7#64) 8 0], flags := [], bad := false }]
     let s4 := okState (g.2.2.runSet 0 c)
     c.v.work.packets = [] && c.v.work.wayp = none && decide (a.toNat % 8 ≤ 4) && g.2.1.isNone && (g.2.2.runSet 0 c).isOk && decide ((s4.vthread 0).work.wayp = some c.total)
      && (s4.writeWaypoint 0 c c.total).isOk) = true := begins_with (by decide +kernel) (by decide +kernel)

/-- What VSCC and VSCTADD ask of a state. -/
def scatters (f : VFields) (c : Reading) (s' : State) : Bool :=
  let plan := (c.activeRest).map (fun i => ({ idx := i, accs := [oneAcc i (c.indexedEa i) 4 ((c.dest i).setWidth 64)], flags := [], bad := false } : VElem))
  let s0 := s'.orderVector 0 f.rs.toNat 0
  let w := s0.sound 0 .write f.space true (fun _ => none) plan
  let a := s0.sound 0 .atomic f.space false (fun _ => none) plan
  c.v.work.vstart = 0 && c.v.work.packets = [] && c.v.work.early.isEmpty && c.v.work.atomic.isNone && w.2.1.isNone && plain w.2.2 0 w.1 && w.1.length = 2 && decide (((localSpots w.1).map (fun p => lineOf p.2.1)).Nodup)
    && w.1.all (fun g => g.2.all (fun p => decide (p.1.n = 4) && (match p.2 with | .here l _ => lineOf l = lineOf (l.plus 3) | _ => false)))
    && a.2.1.isNone && plain a.2.2 0 a.1 && a.1.length = 2 && a.1.all (fun g => g.2.all (fun p => decide (p.1.n = 4)))
    && decide ((localSpots a.1).Pairwise (fun p q => p.2.1.meets 4 q.2.1 4 = false))
    && a.1.all (fun g => g.2.all (fun p => match p.2 with
      | .here l k => (addFl false .rne (readFloat false (BitVec.ofNat 32 (leNat ((List.range 4).map (fun i => a.2.2.homeByte k (l.plus i)))))) (readFloat false (p.1.data.setWidth 32))).2 &&& (a.2.2.vthread 0).fctl = 0
      | _ => false))

theorem witness_LinkedAndScattered : let f := { sf with sb := 4 }
    ∃ c s', Begins indexed 0 f [f.sb] [1] c s' ∧ scatters f c s' = true := begins_with (by decide +kernel) (by decide +kernel)

/-- A geometry of one lane by one: 8-bit values, 16-bit slots, strides of one. -/
def geom1 : Word := BitVec.ofNat 64 (8 * 2 ^ 58 + 2 ^ 36 + 2 ^ 20)

/-- A READY operand slot of one step whose lane 0 is `x`, and a READY accumulator whose slot 0 is `x`, of thread 0. -/
def slotOf (x : BitVec 16) : Slot := { Slot.empty with st := .ready, written := [0], vw := 8, data := [(0, x)] }
def accOf (x : Int) : Acc := { Acc.empty with st := .ready, w := 16, slots := [(0, x)] }

/-- The geometry on thread 0, slots 1 to 3 and accumulators 0 and 1 of its own, slot 3 FILLING. -/
def tiled (s : State) (x : Int) : State :=
  (s.setThread 0 { s.thread 0 with geom := geom1 }).setCore 0 { s.core 0 with slots := [(1, slotOf 3), (2, slotOf 5), (3, { Slot.empty with st := .filling })], accs := [(0, accOf x), (1, accOf 0)] }

/-- Every slot of core 0 is taken. -/
def packed : State := task.setCore 0 { task.core 0 with slots := (List.range 64).map (fun n => (n, slotOf 3)) }

theorem witness_TileClaims : (let s := tiled task 0; (∀ i, i < 2 → (s.slot 0 (4 + i)).st = .empty) ∧ ¬ (s.slot 0 3).st = .empty ∧ (s.slot 0 0).st = .empty)
    ∧ (∀ n, n < 64 → ¬ (packed.slot 0 n).st = .empty)
    ∧ (let s := tiled task 0
       bits (s.thread 0).geom 61 58 ≠ 0 ∧ (s.acc 0 2).st = .empty ∧ s.accFits 0 2 (geomW (s.thread 0).geom) = true ∧ (∀ j, j < 2 → (s.acc 0 j).st ≠ .empty)
       ∧ s.ownsSlot 0 1 = true ∧ (s.slot 0 1).odd = false ∧ (s.slot 0 1).rdrs = 0 ∧ (s.slot 0 1).fills = 0 ∧ tileWaits s 0 (.slot 1) = false ∧ wmacsOn s 0 (fun m => m.names 1) = false
       ∧ s.ownsAcc 0 1 = true ∧ (s.acc 0 1).st = .ready ∧ tileWaits s 0 (.acc 1) = false ∧ wmacsOn s 0 (fun x => x.blocksOn 1) = false) := by decide +kernel

/-- An operation of two steps on slots 1 and 2 into accumulator 0. -/
def op1 : WmuOp := { id := 9, uid := (task.thread 0).uid, acc := 0, aslot := 1, bslot := 2, k0 := 0, cnt := 2, done := 0, geom := geom1, pc := 0x20000, nested := false, halted := false, block := none }
def working (x : Int) : State :=
  (tiled task x).setCore 0 { (tiled task x).core 0 with wops := [op1], accs := [(0, { accOf x with st := .filling }), (1, accOf 0)] }

/-- The total of the one slot that the geometry reaches. -/
def total0 (x : Int) : Int := Tab.get 0 0 ((working x).acc 0 0).slots + coefficient (Tab.get 0 0 ((working x).slot 0 1).data) 8 * coefficient (Tab.get 0 0 ((working x).slot 0 2).data) 8

theorem witness_MultiplierSteps : (∀ x ∈ [(1 : Int), 32767], (working x).nextOp 0 0 = some op1 ∧ (working x).poison = [] ∧ (working x).tidOf op1.uid = some 0 ∧ ((working x).thread 0).pending = [])
    ∧ ((working 1).slot 0 1).vw = geomV op1.geom ∧ ((working 1).slot 0 2).vw = geomV op1.geom
    ∧ geomNa geom1 = 0 ∧ geomNb geom1 = 0 ∧ geomBase geom1 = 0 ∧ op1.done + 1 < op1.cnt
    ∧ total0 1 = 16 ∧ ¬ (2 : Int) ^ (((working 1).acc 0 0).w - 1) - 1 < (total0 1).natAbs
    ∧ (2 : Int) ^ (((working 32767).acc 0 0).w - 1) - 1 < (total0 32767).natAbs := by decide +kernel

theorem witness_MultiplierSteps_last : let s := (working 1).setCore 0 { (working 1).core 0 with wops := [{ op1 with done := 1 }] }
    s.nextOp 0 0 = some { op1 with done := 1 } ∧ ({ op1 with done := 1 } : WmuOp).done ≠ 0 ∧ s.poison = [] ∧ ({ op1 with done := 1 } : WmuOp).done + 1 = op1.cnt := by decide +kernel

theorem witness_MultiplierInstructions : let s := withRegs (tiled task 7) [(6, geom1), (7, geom1 + 0x4000000000000000), (8, 0x20100)]
    geomInvalid (s.reg 0 6) false = false
    ∧ (geomInvalid (s.reg 0 7) true = false ∧ (s.reg 0 7).toNat % 16 = 0 ∧ s.ownsAcc 0 0 = true ∧ tileWaits s 0 (.acc 0) = false ∧ wmacsOn s 0 (fun m => m.blocksOn 0) = false ∧ (s.acc 0 0).st = .ready
      ∧ (s.acc 0 0).normal = false ∧ (s.acc 0 0).w ≤ geomW (s.reg 0 7) ∧ s.accFits 0 0 (geomW (s.reg 0 7)) = true ∧ s.poison = [])
    ∧ (let x := s.reg 0 8
       bits (s.thread 0).geom 61 58 ≠ 0 ∧ bits x 3 0 = 0 ∧ bits x 13 8 = 1 ∧ bits x 21 16 = 2 ∧ (operandChecks s 0 geom1 [0] [1, 2] (bits x 31 24 + bits x 39 32)).isOk = true
       ∧ (s.slot 0 1).st = .ready ∧ (s.slot 0 2).st = .ready ∧ (s.slot 0 1).vw = geomV geom1 ∧ (s.slot 0 2).vw = geomV geom1
       ∧ (∀ y ∈ [TileName.slot 1, .slot 2, .acc 0], tileWaits s 0 y = false)) := by decide +kernel

/-- A descriptor at 0x1000 of one job with one k-block: accumulator 0, slots 1 and 2, a drain block. -/
def product : State := [(0x1008, 0x2000), (0x1010, 0x100), (0x1018, 0x102)].foldl (fun s p => put8 s p.1 p.2) (tiled vec 0) |> fun s => withRegs s [(6, 0x1000)]

theorem witness_MultiplierInstructions_wmacs : ∃ s', product.hasVector 0 = true ∧ readRecord product 0 (product.reg 0 6) wmacsLength = .ok ([0, 0x2000, 0x100, 0x102], s')
    ∧ wmacsParse [0, 0x2000, 0x100, 0x102] = some (0x2000, [(0, 1)], 1, [(1, 2)]) ∧ bits geom1 61 58 ≠ 0
    ∧ (operandChecks s' 0 geom1 [0, 1] [1, 2] 0).isOk = true ∧ s'.hasVector 0 = true ∧ (s'.vthread 0).work.entries < 32 :=
  ⟨_, by decide +kernel, ok_pair (by decide +kernel), by decide +kernel⟩

/-- A block with the geometry, b1 = 3 (slot 3, step 0), b2 = 0 (accumulator 0), b3 = 0. -/
def tileBlock : State :=
  let s := tiled vec 7
  s.setVthread 0 { s.vthread 0 with bargs := [(1, 3)], regs := [(1, [(0, 11), (1, 0xFFFFFFF5)])], work := { (s.vthread 0).work with run := ((s.vthread 0).work.run).map (fun r => { r with geom := geom1 }) } }
def pf : VFields := { zv with sa := 1, sb := 37 }
def xf : VFields := { zv with vd := 3, sb := 38, sc := 39, ty := 2, ext := 4 }

theorem witness_TilesAndVectors : bits (((tileBlock.vthread 0).work.run).elim 0 (fun r => r.geom)) 61 58 ≠ 0
    ∧ (∃ c s', Begins tileBlock 0 pf [pf.sa] [] c s' ∧
      (let b := c.v.word pf pf.sb
       let x := s'.slot 0 3
       decide (bits b 5 0 = 3) && decide (bits b 15 8 = 0) && c.v.work.vstart = 0 && decide (pf.mask = 0) && decide (c.total = 2) && s'.ownsSlot 0 3 && !x.odd && decide (1 ≤ x.ext + 1)
        && x.st = .filling && x.written = [] && x.vw = 0 && s'.poison = [] && (List.range 2).all (fun i => decide ((c.srcA i).toInt.natAbs ≤ 127))) = true)
    ∧ (∃ c s', Begins tileBlock 0 xf [] [] c s' ∧
      (decide (bits (c.v.word xf xf.sb) 3 0 = 0) && decide (bits (c.v.word xf xf.sc) 13 0 = 0) && c.v.work.vstart = 0 && s'.ownsAcc 0 0 && decide (c.total = 2)
        && (s'.acc 0 0).st ≠ .filling && !heldBefore s' 0 0 && s'.poison = []) = true) :=
  ⟨by decide +kernel, begins_with (by decide +kernel) (by decide +kernel), begins_with (by decide +kernel) (by decide +kernel)⟩

/-- A tiled product of one job and one k-block in the sequencer, its block operation not started, or ended and not drained. -/
def wm (l : List (Nat × Nat × Nat)) : Wmacs :=
  { id := 4, uid := (task.thread 0).uid, ordered := true, ksteps := 1, jobs := [(0, 1)], nkb := 1, blocks := [(1, 2)], drain := 0x2000, geom := geom1, pc := 0x20000, nested := false
    started := l, ended := l, drained := [] }
def sequenced (l : List (Nat × Nat × Nat)) : State :=
  let s := (tiled vec 0).setCore 0 { (tiled vec 0).core 0 with wmacs := [wm l] }
  s.setVthread 0 { s.vthread 0 with work := { (s.vthread 0).work with run := none, vcq := [{ seq := 1, op := .wmacs 4, nested := false, aside := false }] } }

theorem witness_TilesAndVectors_sequencer : (let s := sequenced []
      (s.core 0).wmacs.find? (fun m => m.id = 4) = some (wm []) ∧ (wm []).jobs[0]? = some (0, 1) ∧ (wm []).blocks[0 * (wm []).nkb + 0]? = some (1, 2) ∧ 0 < (wm []).nkb
      ∧ (wm []).started = [] ∧ (s.core 0).wops = [] ∧ (s.slot 0 1).st = .ready ∧ (s.slot 0 2).st = .ready
      ∧ accTakes s 0 (wm []) 0 = true ∧ blockWaits s (wm []) [.slot 1, .slot 2, .acc 0] = false)
    ∧ (let s := sequenced [(0, 0, 0)]
      (s.vthread 0).work.vcq = [{ seq := 1, op := .wmacs 4, nested := false, aside := false }] ∧ (s.vthread 0).work.run = none ∧ (s.vthread 0).work.faulted = false
      ∧ (s.core 0).wmacs.find? (fun m => m.id = 4) = some (wm [(0, 0, 0)]) ∧ (wm [(0, 0, 0)]).drain ≠ 0 ∧ (wm [(0, 0, 0)]).nextDrain = some (0, 0, 0)) := by decide +kernel

/-- A race of one shard, number 0 in context 0, the shard as it joined. -/
def shard0 : Shard := Shard.joined (task.thread 0).uid 0
def race0 : RaceCtx :=
  { gang := 0, vi := 0, region := 0, held := [0], tag := 7, m := 1, shards := [(0, shard0)], started := false, lock := false, etrap := false, topk := 0, best := none, floor := negInf
    posts := [], struck := [], round := 0, decided := false, pair := none }

/-- The task of a state in this race. -/
def racing (s : State) (c : RaceCtx) : State := (s.setThread 0 { s.thread 0 with race := some (0, 0) }).setHub { s.hub with races := [(0, c)] }

/-- The world with a request record at 0x1000: shard 0 of `m` + 1, tag 7. -/
def joining (m : Nat) (races : Tab RaceCtx) : State := (put8 world 0x1000 (m * 2 ^ 16 + 7)).setHub { world.hub with races := races }

theorem witness_RaceMembership_request : ∀ p ∈ [(0, []), (0, [(0, race0)]), (1, [(0, race0)]), (0, [(0, { race0 with shards := [] })]), (0, [(0, { race0 with shards := [], started := true })]), (64, [])],
    ∃ s1, ((joining p.1 p.2).thread 0).race = none ∧ readRecord (joining p.1 p.2) 0 ((joining p.1 p.2).reg 0 6) (fun _ => 2) = .ok ([BitVec.ofNat 64 (p.1 * 2 ^ 16 + 7), 0], s1)
      ∧ s1.hub.races = p.2 ∧ (s1.thread 0).gang = 0 ∧ s1.chain (s1.thread 0).vi (s1.regionOf (s1.thread 0)) = some chain0
      ∧ (State.budgets 8 chain0).any (fun b => decide (b.2 < (s1.useOf (s1.thread 0).vi b.1).races + 1)) = false := by
  intro p hp
  simp only [List.mem_cons, List.not_mem_nil, or_false] at hp
  rcases hp with rfl | rfl | rfl | rfl | rfl | rfl <;> exact ⟨_, by decide +kernel, ok_pair (by decide +kernel), by decide +kernel⟩

theorem witness_RaceMembership_full : ([(0, race0)] : Tab RaceCtx).find? (fun c => c.2.gang = 0 && c.2.tag = 8) = none
    ∧ (let s := world.setHub { world.hub with races := (List.range 64).map (fun n => (n, { race0 with tag := 9 + n })) }; ∀ n, n < 64 → s.race? n ≠ none)
    ∧ (let u : RegionUse := { world.useOf 0 0 with races := 64 }; ∃ b ∈ State.budgets 8 chain0, b.2 < u.races + 1) := by decide +kernel

theorem witness_RaceMembership_held : (task.thread 0).race = none ∧ raceOf task 0 = none
    ∧ (let s := racing task race0
       (s.thread 0).race = some (0, 0) ∧ raceOf s 0 = some (0, 0, race0, shard0) ∧ s.hasVector 0 = true ∧ (s.vthread 0).work.entries < 32 ∧ shard0.stopped = false ∧ raceWork s 0 = false
       ∧ (race0.put 0 { shard0 with st := .ended }).shards.all (fun y => y.2.st = .ended) = true)
    ∧ (let c := { race0 with m := 2, shards := [(0, shard0), (1, shard0)] }
       (c.put 0 { shard0 with st := .ended }).shards.all (fun y => y.2.st = .ended) = false ∧ shard0.st = .active)
    ∧ (let s := racing task race0
       raceWork (s.setVthread 0 { s.vthread 0 with work := { (s.vthread 0).work with vcq := [{ seq := 1, op := .rcfg 1 0, nested := false, aside := false }] } }) 0 = true) := by decide +kernel

/-- A race decided: with no best, or with row 6 of score 1.0 as its winner, whose shard has waited. -/
def stopped0 : Shard := { shard0 with st := .finished }
def undecided0 : RaceCtx := { race0 with shards := [(0, stopped0)] }
def decided0 (best : Option (Elem × Nat × Elem)) (etrap : Bool) : RaceCtx := { undecided0 with decided := true, best := best, etrap := etrap }

theorem witness_RaceResults : (∀ c ∈ [race0, undecided0, decided0 none true, decided0 none false, decided0 (some (0x3F800000, 6, 0)) false],
      ∃ x, raceOf (racing task c) 0 = some (0, 0, c, x) ∧ raceWork (racing task c) 0 = false)
    ∧ shard0.st = .active ∧ (stopped0.st ≠ .active ∧ stopped0.st ≠ .ranking) ∧ undecided0.decided = false := by
  refine ⟨?_, by decide +kernel⟩
  intro c hc
  simp only [List.mem_cons, List.not_mem_nil, or_false] at hc
  rcases hc with rfl | rfl | rfl | rfl | rfl
  · exact ⟨shard0, by decide +kernel⟩
  all_goals exact ⟨stopped0, by decide +kernel⟩

/-- A shard whose sum has one exact term, and one whose sum has a bound. -/
def summed (bounds : Nat) : Shard := { stopped0 with m := 0x3F800000, zlo := 0x3F800000, zhi := 0x3F800000, bounds := bounds }
def wonBy (x : Shard) (l : Tab Shard) : RaceCtx := ({ decided0 (some (0x3F800000, 6, 0x3F800000)) false with shards := l }).put 0 { x with atWait := some (x.atWait.getD (x.m, x.zlo, x.zhi, x.bounds)) }

theorem witness_RaceResults_pair : (let c := wonBy (summed 0) []
      c.pair = none ∧ (∀ y ∈ c.shards, y.2.atWait ≠ none ∨ y.2.st = .ended) ∧ (c.probability 0x3F800000).2.2 = false ∧ c.topk = 0 ∧ (∀ y ∈ c.shards, y.2.combined.2.2.2 = 0))
    ∧ (let c := wonBy (summed 1) []; ∃ y ∈ c.shards, y.2.combined.2.2.2 ≠ 0)
    ∧ (let c := wonBy shard0 []; (c.probability 0x3F800000).2.2 = true)
    ∧ (let c := wonBy (summed 0) [(1, shard0)]; ∃ y ∈ c.shards, y.2.atWait = none ∧ y.2.st ≠ .ended) := by decide +kernel

/-- The vector thread in this race. -/
def vrace : State := racing vec race0

theorem witness_RaceElements : raceOf vrace 0 = some (0, 0, race0, shard0) ∧ (∃ c s', Begins vrace 0 vf [vf.sa] [] c s' ∧ decide (c.total = 2) = true)
    ∧ (∃ c s', Begins vrace 0 vf [vf.sa, vf.sb, vf.sc] [] c s' ∧
      ((List.range 2).all (fun i => (boundElem shard0 .rne 2 (c.srcA i) (c.srcB i) (c.srcC i)).2 &&& c.v.fctl = 0)) = true)
    ∧ Rounding.ofCode (vf.rs.toNat / 2) = .rne ∧ readFloat false (shard0.config32 2) = readFloat false (shard0.config32 3) :=
  ⟨by decide +kernel, begins_with (by decide +kernel) (by decide +kernel), begins_with (by decide +kernel) (by decide +kernel), by decide, rfl⟩

theorem witness_RaceElements_values : readFloat false (shard0.config32 2) = .fin false 8388608 8388608 ∧ isNan32 0x7FC00000 = true
    ∧ readFloat false 0xFF800000 = .inf true ∧ readFloat false 0x3F800000 = .fin false 8388608 8388608 ∧ readFloat false 0x40400000 = .fin false 12582912 4194304 := by decide +kernel

/-- The bias list at b0 (two entries for rows 0 and 3F800000H) and the bitmap; b1 holds the count. -/
def biased (n : Nat) : State :=
  let s := put8 (put8 vrace 0x1000 0x3F80000000000000) 0x1008 0x400000003F800000
  s.setVthread 0 { s.vthread 0 with bargs := [(0, 0x1000), (1, BitVec.ofNat 64 n)] }
def bf : VFields := { zv with vd := 3, sa := 36, sb := 1, sc := 37 }
def mf : VFields := { zv with vd := 3, sa := 36, sb := 4, sc := 1 }

/-- What VBIAS asks of a state. -/
def biasOk (n : Nat) (c : Reading) (s' : State) : Bool :=
  let g := (s'.orderVector 0 bf.rs.toNat 0).sound 0 .read bf.space false (fun _ => none) [{ idx := 0, flags := [], bad := false, accs := (List.range n).map (fun k =>
        { oneAcc (0 + 4096 * k) (c.base + bytesAt (8 * k)) 8 0 with ea := c.base + bytesAt (8 * k) }) }]
  let list := ((g.1.map (fun g => g.2)).flatten).map (fun p => (g.2.2.vectorRead 0 p).1)
  c.v.work.packets = [] && c.v.work.early.isEmpty && decide ((c.v.word bf bf.sc).toNat % 2 ^ 32 = n) && c.activeRest = [0, 1] && g.2.1.isNone && here g.1
    && decide ((list.map (fun e => bits e 30 0)).Pairwise (fun a b => a < b)) && decide (list.length = n)

theorem witness_RaceElements_lists : (∃ c s', Begins (biased 2) 0 bf [bf.sb] [] c s' ∧ biasOk 2 c s' = true)
    ∧ (∃ c s', Begins (biased 2) 0 mf [mf.sb, mf.sc] [] c s' ∧
      (let g := (s'.orderVector 0 mf.rs.toNat 0).sound 0 .read mf.space false (fun _ => none) (c.activeRest.map (fun i =>
        { idx := i, accs := [oneAcc i (c.base + bytesAt ((c.srcB i).toNat % 2 ^ 31 / 8)) 1 0], flags := [], bad := false }))
       c.v.work.packets = [] && c.v.work.early.isEmpty && !mf.q && g.2.1.isNone && here g.1 && decide (c.activeRest = [0, 1]) && decide (c.srcC 0 = 0x3F800000)) = true) :=
  ⟨begins_with (by decide +kernel) (by decide +kernel), begins_with (by decide +kernel) (by decide +kernel)⟩

/-- One element selected: v1 = its row and score, v2 its lower bound. -/
def single (s : State) (b z : Elem) : State := s.setVthread 0 { s.vthread 0 with vl := 1, vr := 1, regs := [(1, [(0, 5)]), (2, [(0, b)]), (3, [(0, z)])] }
def qf : VFields := { zv with sa := 1, sb := 2, sc := 3 }

/-- An entry for row 5 that has been handed out, and the shard and the race with it. -/
def entry5 (handed : Bool) : HeapEntry := { HeapEntry.fresh 5 with hi := 0x3F800000, lo := 0x3F800000, handed := handed }
def shard5 (handed : Bool) : Shard := { shard0 with heap := [entry5 handed] }
def race5 (handed : Bool) : RaceCtx := { race0 with shards := [(0, shard5 handed)] }

theorem witness_RaceRounds_enter : ∀ b ∈ [(0x3F800000 : Elem), 0xFF800000, 0x7FC00000], ∀ h ∈ [true, false],
    raceOf (single (racing vec (race5 h)) b 0x3F800000) 0 = some (0, 0, race5 h, shard5 h) ∧ (shard5 h).stopped = false ∧ (shard5 h).queued = false
    ∧ ∃ c s', Begins (single (racing vec (race5 h)) b 0x3F800000) 0 qf [qf.sa, qf.sb, qf.sc] [] c s' ∧
      (decide (c.v.work.vstart = 0) && decide (c.total = 1) && c.active 0 && decide (c.srcA 0 = 5) && decide (c.srcB 0 = b) && decide (c.v.fctl = 0)) = true := by
  intro b hb h hh
  simp only [List.mem_cons, List.not_mem_nil, or_false] at hb hh
  rcases hb with rfl | rfl | rfl <;> rcases hh with rfl | rfl
  all_goals exact ⟨by decide +kernel, by decide, by decide, begins_with (by decide +kernel) (by decide +kernel)⟩

theorem witness_RaceRounds_empty : raceOf (single vrace 0x3F800000 0x3F800000) 0 = some (0, 0, race0, shard0) ∧ shard0.heap.any (fun e => e.j = 5) = false ∧ shard0.heap.length < 65536
    ∧ ∃ c s', Begins (single vrace 0x40000000 0) 0 qf [qf.sa, qf.sb] [] c s' ∧ (decide (c.total = 1) && !isNan32 (c.srcA 0) && !isNan32 (c.srcB 0) && !f32Lt (c.srcB 0) (c.srcA 0)) = true :=
  ⟨by decide +kernel, by decide, by decide, begins_with (by decide +kernel) (by decide +kernel)⟩

theorem witness_RaceRounds_next : ∀ x ∈ [race5 false, race0], raceOf (racing vec x) 0 = some (0, 0, x, (Tab.find 0 x.shards).getD shard0) ∧ x.m ≤ x.shards.length ∧ x.started = false
    ∧ (let y := (Tab.find 0 x.shards).getD shard0; y.st = .active ∧ (y.config 4).getLsbD 0 = false ∧ ∀ e ∈ y.heap, isNan32 e.hi = false)
    ∧ ∃ c s', Begins (racing vec x) 0 { zv with vd := 3 } [] [] c s' ∧
      (c.v.work.vstart = 0 && decide ((s'.vthread 0).ret.length < 16) && decide (c.v.vl ≤ maxlOf (s'.core 0).split) && decide (c.total = 2)) = true := by
  intro x hx
  simp only [List.mem_cons, List.not_mem_nil, or_false] at hx
  rcases hx with rfl | rfl <;> exact ⟨by decide +kernel, by decide, by decide, by decide +kernel, begins_with (by decide +kernel) (by decide +kernel)⟩

/-- A shard in lockstep, and one that has arrived at its round. -/
def lockShard (arrived : Bool) : Shard := { shard0 with cfg := [(4, 1)], arrived := arrived }
def lockRace (arrived : Bool) : RaceCtx := { race0 with lock := true, started := true, shards := [(0, lockShard arrived)] }

theorem witness_RaceRounds_lockstep : ((lockShard false).config 4).getLsbD 0 = true ∧ (lockShard false).arrived = false ∧ (lockRace false).lock = true ∧ (lockRace false).etrap = ((lockShard false).config 4).getLsbD 1
    ∧ (lockRace false).topk = ((lockShard false).config32 5).toNat ∧ raceOf (racing vec (lockRace true)) 0 = some (0, 0, lockRace true, lockShard true)
    ∧ (lockRace true).m ≤ (lockRace true).shards.length ∧ ((lockShard true).arrived && (lockShard true).snapshot.isNone) = true ∧ (lockShard true).stopped = false
    ∧ (race5 true).lock = false ∧ (shard5 true).stopped = false := by decide +kernel

/-- The task with a command of an engine in assembly, with `n` results, or with one result. -/
def filling (mod : Nat) (m : Assembly) (s : State) : State := s.setThread 0 { s.thread 0 with asm := [(mod, m)] }
def withResults (l : List EngineResult) : State := task.setThread 0 { task.thread 0 with results := [(0, l)] }

/-- COPY2D's header with its count, and one of a page engine's command that asks for supervisor privilege. -/
def copyHeader : Word := BitVec.ofNat 64 (2 ^ 56 + 4 * 2 ^ 48 + 5)
def fillHeader : Word := BitVec.ofNat 64 (2 * 2 ^ 56 + 2 * 2 ^ 48 + 1)

theorem witness_EngineQueues_headers : Tab.find 0 (task.thread 0).asm = none ∧ commandTable 0 (bits copyHeader 63 56) = some (4, false) ∧ bits copyHeader 55 48 = 4
    ∧ bits (0x0100000000000000 : Word) 55 48 ≠ 4 ∧ commandTable 0 9 = none
    ∧ commandTable 1 0x15 = some (1, true) ∧ bits (0x1501000000000000 : Word) 63 56 = 0x15 ∧ bits (0x1501000000000000 : Word) 55 48 = 1 ∧ ((asTask task).thread 0).priv = .task
    ∧ ((task.cmdsOf 0).filter (fun c => c.uid = (task.thread 0).uid)).length + (Tab.get [] 0 (task.thread 0).results).length < 16
    ∧ 16 ≤ (Tab.get [] 0 ((withResults (List.replicate 16 { word := 0, tval := 0, xinfo := 0 })).thread 0).results).length := by decide +kernel

theorem witness_EngineQueues_last : (let s := filling 0 { header := copyHeader, args := [1, 2] } task
      Tab.find 0 (s.thread 0).asm = some { header := copyHeader, args := [1, 2] } ∧ [1, 2].length + 1 < bits copyHeader 55 48)
    ∧ (let s := filling 0 { header := fillHeader, args := [0x1000] } (tiled task 0)
       ∃ s1, bits fillHeader 55 48 ≤ [0x1000].length + 1 ∧ fillWord fillHeader [0x1000, 3] = some 3 ∧ fillChecks s 0 ((Instr.eput 6 0).word) 3 = .ok () ∧ s.releaseReady 0 1 = .ok s1) :=
  ⟨by decide +kernel, _, by decide +kernel, by decide +kernel, ok_val (by decide +kernel), ok_of_isOk (by decide +kernel)⟩

theorem witness_EngineQueues_results : (∀ w : Word, Tab.get [] 0 ((withResults [{ word := w, tval := 7, xinfo := 0 }]).thread 0).results = [{ word := w, tval := 7, xinfo := 0 }])
    ∧ [(0 : Word), 0x0100000000000000, 0x0200000000000000, 0x0300000000000000].map (fun w => bits w 63 56) = [0, 1, 2, 3]
    ∧ Tab.get [] 0 (task.thread 0).results = [] ∧ ((task.cmdsOf 0).filter (fun c => c.uid = (task.thread 0).uid)).length = 0 :=
  ⟨fun _ => rfl, by decide +kernel, by decide +kernel, by decide +kernel⟩

theorem witness_EngineQueues_posted : let c : Cmd := { cmd 1 0 [] with result := some { word := 0, tval := 0, xinfo := 0 } }
    let s := task.setCore 0 { task.core 0 with copyQ := [c] }
    ((s.cmdsOf 0).filter (fun c => c.uid = (s.thread 0).uid)).length ≠ 0 ∧ (s.cmds 0)[0]? = some c ∧ c.result = some { word := 0, tval := 0, xinfo := 0 }
    ∧ s.unperformed c.id true = false ∧ s.tidOf c.uid = some 0 := ⟨by decide +kernel, rfl, rfl, by decide +kernel, by decide +kernel⟩

theorem starts_of {s : State} {eng k code : Nat} {c : Cmd}
    (h : (s.cmds eng)[k]? = some c ∧ c.code = code ∧ c.result = none ∧ (if eng < 64 then copyMay eng s ((s.cmds eng).take k) c else pageMay s ((s.cmds eng).take k) c) = true
      ∧ s.powered (engineDie eng) = true ∧ c.done = 0 ∧ c.buf = [] ∧ c.run = none ∧ c.req = none ∧ c.wr = 0 ∧ c.mem = []) : Starts s eng k code c :=
  ⟨h.1, h.2.1, h.2.2.1, h.2.2.2.1, h.2.2.2.2.1, h.2.2.2.2.2⟩

/-- The task's core with one command in its copy engine. -/
def copying (c : Cmd) (s : State) : State := s.setCore 0 { s.core 0 with copyQ := [c] }

theorem witness_CopyCommands : (let c := cmd 1 5 [0x100, 0x200, 0x100000008, 0x2000000020]
      let s := copying c task
      Starts s 0 0 1 c ∧ bits c.header 39 0 = 5 ∧ s.share = .whole ∧ s.poison = [] ∧ (s.die 0).egress = [] ∧ bits (c.arg 3) 31 0 = 8 ∧ bits (c.arg 3) 47 32 + 1 = 2 ∧ bits (c.arg 3) 63 48 = 0
      ∧ (∀ r, r < 2 → (c.arg 1 + BitVec.ofNat 64 r * ((c.arg 4).setWidth 32 : BitVec 32).signExtend 64).toNat = 0x100 + 32 * r
          ∧ (c.arg 2 + BitVec.ofNat 64 r * ((c.arg 4 >>> 32).setWidth 32 : BitVec 32).signExtend 64).toNat = 0x200 + 32 * r))
    ∧ (let c := cmd 3 2 [0x100, 64]
       Starts (copying c task) 0 0 3 c ∧ bits c.header 39 0 = 2 ∧ 0 < (c.arg 2).toNat ∧ (c.arg 1).toNat + (c.arg 2).toNat ≤ 2 ^ 22)
    ∧ (let c : Cmd := { cmd 2 1 [0x100, 3] with geom := geom1 }
       let s := copying c (tiled task 0)
       Starts s 0 0 2 c ∧ bits c.header 39 0 = 1 ∧ bits (c.arg 2) 31 24 = 0 ∧ s.tidOf c.uid = some 0 ∧ bits (c.arg 2) 7 6 = 0 ∧ (s.slot 0 3).st = .filling ∧ (s.slot 0 3).vw = 0
       ∧ (c.arg 1).toNat + 16 * geomV c.geom ≤ 2 ^ 22)
    ∧ (let c : Cmd := { cmd 3 1 [1, 0] with geom := geom1 }
       let s := copying c (tiled task 0)
       Starts s 0 0 3 c ∧ bits c.header 39 0 = 1 ∧ bits (c.arg 1) 63 24 = 0 ∧ c.arg 2 = 0 ∧ bits (c.arg 1) 7 6 = 0 ∧ (s.slot 0 1).st = .ready ∧ (s.slot 0 1).rdrs = 0) := by
  refine ⟨⟨starts_of ?_, ?_⟩, ⟨starts_of ?_, ?_⟩, ⟨starts_of ?_, ?_⟩, starts_of ?_, ?_⟩ <;> decide +kernel

/-- Die 0's page engine with one command; the world with slab 0 of 64 KiB (when `v`) at address 0, with 64 bytes a token. -/
def paging (c : Cmd) (s : State) : State := s.setDie 0 { s.die 0 with pageQ := [c] }
def slabbed (v : Bool) : State := if v then put8 (put8 world 0x1A000 (1 + 16 * 2 ^ 10)) 0x1A018 (64 * 2 ^ 32) else world

theorem witness_SlabsAndPrefixes_new : ∀ v ∈ [true, false], let c := cmd 0x10 0 [0, 0x200000, 16, 0]
    let s := paging c (slabbed v)
    Starts s 64 0 0x10 c ∧ slabnewBad c = none ∧ (s.begun 64 c).cmdSlabAt 64 c.begun 0 = .ok 0x1A000 ∧ ((s.begun 64 c).homeSlab 0 0 0x1A000).v = v := by
  intro v hv
  simp only [List.mem_cons, List.not_mem_nil, or_false] at hv
  rcases hv with rfl | rfl <;> exact ⟨starts_of (by decide +kernel), by decide +kernel, ok_val (by decide +kernel), by decide +kernel⟩

theorem witness_SlabsAndPrefixes_free : let c := cmd 0x12 0 [0]
    let s := paging c (slabbed true)
    let d := (s.begun 64 c).homeSlab 0 0 0x1A000
    Starts s 64 0 0x12 c ∧ bits c.header 39 0 = 0 ∧ (s.begun 64 c).cmdSlabAt 64 c.begun 0 = .ok 0x1A000 ∧ d.v = true ∧ d.malformed = false ∧ d.mv = 0 ∧ d.pk = false :=
  ⟨starts_of (by decide +kernel), by decide +kernel, ok_val (by decide +kernel), by decide +kernel⟩

theorem witness_SlabsAndPrefixes_freed : ∀ ids ∈ [[], [4]], let c : Cmd := { cmd 0x12 0 [0] with started := true, done := 1, mem := ids }
    ((paging c (slabbed true)).cmds 64)[0]? = some c ∧ c.code = 0x12 ∧ c.result = none ∧ c.started = true ∧ c.done = 1 ∧ (paging c (slabbed true)).powered 0 = true := by decide +kernel

theorem witness_SlabsAndPrefixes_grow : let c := cmd 0x11 0 [0, 0x200000]
    let s := paging c (slabbed true)
    let z := s.begun 64 c
    Starts s 64 0 0x11 c ∧ ((s.die 0).moves = [] ∧ (s.die 0).moves.length + growsBefore s ((s.cmds 64).take 0) < 16 ∧ ∀ m ∈ (s.die 0).moves, m.cmd ≠ c.id) ∧ bits c.header 39 0 = 0 ∧ z.cmdSlabAt 64 c.begun 0 = .ok 0x1A000 ∧ growDenied z 64 c.begun (z.homeSlab 0 0 0x1A000) = none :=
  ⟨starts_of (by decide +kernel), by decide +kernel, by decide +kernel, ok_val (by decide +kernel), by decide +kernel⟩

/-- A run of reads that has read all, and the state a run leaves. -/
def RunRead.data? : RunRead → Option (List Byte)
  | .ok _ b => some b
  | _ => none
def RunRead.end_ : RunRead → State
  | .ok s _ => s
  | .wait s _ => s
  | .fault s _ _ _ => s
def RunWrite.done? : RunWrite → Bool
  | .ok _ => true
  | _ => false
def RunWrite.end_ : RunWrite → State
  | .ok s => s
  | .wait s _ => s
  | .fault s _ _ _ => s

theorem run_read {r : RunRead} {b : List Byte} (h : RunRead.data? r = some b) : r = .ok (RunRead.end_ r) b := by
  cases r with
  | ok s x => simp only [RunRead.data?, Option.some.injEq] at h; rw [← h]; rfl
  | wait s x => exact absurd h (by simp [RunRead.data?])
  | fault s x v i => exact absurd h (by simp [RunRead.data?])

theorem run_write {r : RunWrite} (h : RunWrite.done? r = true) : r = .ok (RunWrite.end_ r) := by
  cases r with
  | ok s => rfl
  | wait s n => exact absurd h (by simp [RunWrite.done?])
  | fault s n v i => exact absurd h (by simp [RunWrite.done?])

/-- EXPORT of no tokens, and IMPORT of a record of zeros. -/
def exporting : Cmd := cmd 0x13 0 [0, 0x1000000000, 5, 0, 0x3000]
def importing : Cmd := cmd 0x14 0 [0, 0x3000, 5, 0x3100]

theorem witness_SlabsAndPrefixes_export : ∃ s1 s2, let c := exporting
    let s := paging c (slabbed true)
    let z := s.begun 64 c
    let d := z.homeSlab 0 0 0x1A000
    Starts s 64 0 0x13 c ∧ bits c.header 39 0 = 0 ∧ z.cmdSlabAt 64 c.begun 0 = .ok 0x1A000 ∧ d.v = true ∧ d.malformed = false ∧ (c.arg 2).toNat % 256 = 0 ∧ (c.arg 4).toNat < 2 ^ 32
    ∧ (c.arg 4).toNat * d.tokb = 0 ∧ z.readRun 64 c.begun spaceGlobal (fullVa (slabVa 0)) 0 (z.share.accesses 0) = .ok s1 []
    ∧ s1.readRun 64 c.begun spaceGlobal (c.arg 5) 48 (s1.share.accesses 48) = .ok s2 (List.replicate 48 0) :=
  ⟨_, _, starts_of (by decide +kernel), by decide +kernel, ok_val (by decide +kernel), by decide +kernel,
    by decide +kernel, by decide +kernel, by decide +kernel, by decide +kernel, run_read rfl, run_read (by decide +kernel)⟩

theorem witness_SlabsAndPrefixes_import : ∃ s1 s2, let c := importing
    let s := paging c (slabbed true)
    let z := s.begun 64 c
    Starts s 64 0 0x14 c ∧ bits c.header 39 0 = 0 ∧ z.cmdSlabAt 64 c.begun 0 = .ok 0x1A000 ∧ z.readRun 64 c.begun spaceGlobal (c.arg 2) 256 (z.share.accesses 256) = .ok s1 (List.replicate 256 0)
    ∧ s1.readRun 64 c.begun spaceGlobal (c.arg 4) 48 (s1.share.accesses 48) = .ok s2 (List.replicate 48 0) ∧ importRefused s2 c.begun (List.replicate 256 0) (List.replicate 48 0) = some 1 :=
  ⟨_, _, starts_of (by decide +kernel), by decide +kernel, ok_val (by decide +kernel), run_read (by decide +kernel),
    run_read (by decide +kernel), by decide +kernel⟩

/-- IMPORT that has read its bytes: the record names no bytes (and 64 a token), with the digest of nothing or with zeros. -/
def imported (good : Bool) : Cmd :=
  { importing with started := true, mem := [3], buf := List.replicate 28 0 ++ [0x40] ++ List.replicate 51 0 ++ (if good then sha384 [] else List.replicate 48 0) ++ List.replicate 176 0 }

theorem witness_SlabsAndPrefixes_imported : ∀ good ∈ [true, false], ∃ s1 s2, let c := imported good
    let s := paging c (slabbed true)
    let z := s.begun 64 c
    let word := (recWordAt (c.buf.take 304) 0x18).toNat
    (s.cmds 64)[0]? = some c ∧ c.code = 0x14 ∧ c.result = none ∧ c.started = true ∧ c.mem = [3] ∧ s.powered 0 = true ∧ word % 2 ^ 32 * (word / 2 ^ 32 % 2 ^ 16) = 0
    ∧ z.writeRun 64 c.begun spaceGlobal (fullVa (slabVa 0)) 0 (fun i => (c.buf.drop 304).getD i 0) (z.share.accesses 0) = .ok s1
    ∧ decide (sha384 (c.buf.drop 304) = recField (c.buf.take 304) 0x50 48) = good
    ∧ word / 2 ^ 32 % 2 ^ 16 = (z.homeSlab 0 0 0x1A000).tokb ∧ s1.unperformed c.id false = false ∧ (z.homeSlab 0 0 0x1A000).lenptr = 0
    ∧ s1.writeRun 64 { c.begun with run := none } spaceGlobal (fullVa (slabVa 0)) 0 (fun _ => 0) (s1.share.accesses 0) = .ok s2 := by
  intro good hg
  simp only [List.mem_cons, List.not_mem_nil, or_false] at hg
  rcases hg with rfl | rfl <;> exact ⟨_, _, by decide +kernel, by decide, by decide, by decide, by decide, by decide +kernel, by decide +kernel, rfl, by decide +kernel, by decide +kernel, by decide +kernel, by decide +kernel, run_write (by decide +kernel)⟩

/-- A move of slab 0 from address 0 to 2^36, at its only chunk but one. -/
def move0 : Move := { cmd := 5, vi := 0, asn := 0, slab := 0, desc := 0x1A000, base := 0x300000, newbase := 0x200000, sz := 17, cursor := 15, held := true, lenptr := 0, tokb := 64 }

theorem witness_SlabsAndPrefixes_chunk : ∃ s2, let c : Cmd := { cmd 0x11 0 [0, 0x200000] with run := some { todo := [], parts := [], out := [] } }
    let s := (paging c (slabbed true)).setDie 0 { (paging c (slabbed true)).die 0 with moves := [move0] }
    let h := s.setMove 0 { move0 with held := true }
    (s.die 0).moves[0]? = some move0 ∧ (s.cmds 64).find? (fun x => x.id = move0.cmd) = some c ∧ move0.held = true ∧ s.powered 0 = true
    ∧ h.copyRun 64 c spaceGlobal spaceGlobal (oneRow (fullVa ((move0.base + move0.cursor * 4096) % 2 ^ 56)) 4096) (oneRow (fullVa ((move0.newbase + move0.cursor * 4096) % 2 ^ 56)) 4096) 1
        (h.share.accesses 4096) = .ok s2 ∧ s2.unperformed c.id true = false := by
  exact ⟨_, by decide +kernel, by decide +kernel, rfl, by decide +kernel, run_write (by decide +kernel), by decide +kernel⟩

/-- The world's 64 KiB page at 2^36 with some leaf word, and with a return ring of two entries whose header stands at 80000H. -/
def paged (w : Nat) : State := put8 world 0x18000 w
def ringed (w : Nat) : State := (put8 (paged w) 0x80018 0x90001).setVi 0 { world.vi 0 with frpool := 0x80000 }
def page36 : Nat := 0x1000000000
def leafHbm : Nat := 0x5000FF
def leafCxl : Nat := 0x5000FF + 2 ^ 58

theorem witness_TierMoves_promote : ∀ w ∈ [leafHbm, leafCxl], ∃ s1, let c := cmd 0x15 0 [0x1000000000]
    let s := paging c (paged w)
    let z := s.begun 64 c
    let l : Leaf := { level := 0, at_ := 0x18000, word := BitVec.ofNat 64 w }
    Starts s 64 0 0x15 c ∧ bits c.header 39 0 = 0 ∧ (c.arg 1).toNat % 2 ^ 16 = 0 ∧ z.tierLeaf 64 c.begun (c.arg 1) = .ok (page36, l) ∧ pteFr l.word = false ∧ (pteTier l.word = 0 ↔ w = leafHbm)
    ∧ z.meetTier 0 (waiterCmd c.id) c.vi c.asn (page36 / 2 ^ pageBits l.level * 2 ^ pageBits l.level) l.at_ l.word = (.waits, s1) := by
  intro w hw
  simp only [List.mem_cons, List.not_mem_nil, or_false] at hw
  rcases hw with rfl | rfl <;> exact ⟨_, starts_of (by decide +kernel), by decide +kernel, by decide +kernel, ok_val (by decide +kernel),
    by decide +kernel, by decide +kernel, Prod.ext (by decide +kernel) rfl⟩

theorem witness_TierMoves_proceeds : ∃ s1, let c := cmd 0x15 0 [0x1000000000]
    let d : Demo := { vi := 0, asn := 0, va := page36, at_ := 0x18000, old := BitVec.ofNat 64 leafHbm, new := BitVec.ofNat 64 leafCxl, page := 1, flash := false, rec_ := none, cmd := none, region := 0 }
    let s := (paging c (paged leafCxl)).setDie 0 { (paging c (paged leafCxl)).die 0 with demos := [d] }
    (s.begun 64 c).meetTier 0 (waiterCmd c.id) c.vi c.asn (page36 / 2 ^ pageBits 0 * 2 ^ pageBits 0) 0x18000 (BitVec.ofNat 64 leafCxl) = (.proceeds, s1) :=
  ⟨_, Prod.ext (by decide +kernel) rfl⟩

theorem witness_TierMoves_demote : let c := cmd 0x16 0 [0x1000000000]
    let s := paging c (ringed leafHbm)
    let z := s.begun 64 c
    let l : Leaf := { level := 0, at_ := 0x18000, word := BitVec.ofNat 64 leafHbm }
    Starts s 64 0 0x16 c ∧ bits c.header 39 1 = 0 ∧ z.tierLeaf 64 c.begun (c.arg 1) = .ok (page36, l) ∧ ptePin l.word = false ∧ pteDl l.word = false ∧ pteFr l.word = false ∧ pteTier l.word = 0
    ∧ s.leafWord c.vi l.at_ = l.word ∧ s.egressHolds 0 (.hbm l.at_) 8 = false ∧ z.chargedFor c.vi c.asn page36 l.word c.region = some [0] ∧ z.quotaRoom c.vi [0] false = true ∧ z.inPromoting c.vi c.asn page36 = false
    ∧ z.returnRoom 0 c.vi = some true ∧ z.promoOf c.vi l.at_ = none ∧ z.demoOf c.vi l.at_ = none
    ∧ ∀ x ∈ s.dies, ∀ e ∈ x.2.demos, e.cmd ≠ some c.id :=
  ⟨starts_of (by decide +kernel), by decide +kernel, ok_val (by decide +kernel), by decide +kernel⟩

theorem witness_TierMoves_there : (∀ p ∈ [(leafCxl, 0), (0x5001FF, 0)], let c := cmd 0x16 p.2 [0x1000000000]
      let s := paging c (paged p.1)
      (s.begun 64 c).tierLeaf 64 c.begun (c.arg 1) = .ok (page36, { level := 0, at_ := 0x18000, word := BitVec.ofNat 64 p.1 }))
    ∧ pteTier (BitVec.ofNat 64 leafCxl) = 1 ∧ ptePin (BitVec.ofNat 64 0x5001FF) = true ∧ pteTier (BitVec.ofNat 64 0x5001FF) = 0 := by
  refine ⟨?_, by decide +kernel⟩
  intro p hp
  simp only [List.mem_cons, List.not_mem_nil, or_false] at hp
  rcases hp with rfl | rfl <;> exact ok_val (by decide +kernel)

/-- A demotion of that page in flight, and a promotion of it with its frame, the page stored. -/
def demo36 : Demo := { vi := 0, asn := 0, va := page36, at_ := 0x18000, old := BitVec.ofNat 64 leafHbm, new := BitVec.ofNat 64 leafCxl, page := 1, flash := false, rec_ := none, cmd := some 5, region := 0 }
def promo36 : Promo := { vi := 0, asn := 0, va := page36, at_ := 0x18000, leaf := BitVec.ofNat 64 leafCxl, frame := some 0x600000, rec_ := none, hot := false, waiters := [] }
def stored36 : StoredPage := { handle := 0x50, flash := false, discarded := false, data := [(3, 7)], key := 0, counter := 0, tag := 0, vi := 0, asn := 0, va := page36, charged := [], since := 0, die := 0 }
def demoting : State := (ringed leafCxl).setDie 0 { (ringed leafCxl).die 0 with demos := [demo36], pageQ := [cmd 0x16 0 [0x1000000000]] }
def promoting : State := { (ringed leafCxl).setDie 0 { (ringed leafCxl).die 0 with promos := [promo36] } with store := [(1, stored36)] }

theorem witness_TierMoves_done : (demoting.die 0).demos[0]? = some demo36 ∧ pteTier demo36.old = 0 ∧ hbmAddr (pteFrame demo36.old) = some 0x500000 ∧ demoting.returnRoom 0 0 = some true
    ∧ demoting.rangeQuiet (.hbm 0x500000) (2 ^ 16) = true ∧ Tab.find (pteSkey demo36.old) (demoting.vi 0).keys = some 0
    ∧ demoting.powered 0 = true ∧ demo36.rec_ = none :=
  ⟨by decide +kernel, by decide +kernel, by decide +kernel, by decide +kernel, by decide +kernel, by decide +kernel, by decide +kernel, rfl⟩

theorem witness_TierMoves_lands : (promoting.die 0).promos[0]? = some promo36 ∧ promo36.frame = some 0x600000 ∧ promoting.returnRoom 0 0 ≠ some false
    ∧ Tab.find (pteSkey promo36.leaf) (promoting.vi 0).keys = some 0 ∧ bits promo36.leaf 55 16 ≠ 0 ∧ promoting.storedOf 0 0 page36 promo36.leaf = some (1, stored36) ∧ stored36.key = 0 ∧ (promoting.die 0).egress = []
    ∧ pteNoAd (promoting.leafWord 0 promo36.at_) = pteNoAd promo36.leaf ∧ hbmAddr 0x600000 = some 0x600000 ∧ promo36.at_ + 8 ≤ 0x600000 ∧ stored36.charged = [] ∧ promo36.rec_ = none
    ∧ promoting.hub.held = [] ∧ promoting.hub.hostHeld = [] ∧ promoting.powered 0 = true ∧ promoting.demoOf promo36.vi promo36.at_ = none ∧ 0x600000 % 2 ^ 16 = 0
    ∧ 0x600000 < 2 ^ 39 ∧ promo36.at_ % 8 = 0 := by
  refine ⟨by decide +kernel, rfl, by decide +kernel, by decide +kernel, by decide +kernel, by decide +kernel, rfl, by decide +kernel, by decide +kernel, by decide +kernel, by decide +kernel, rfl, rfl, by decide +kernel, by decide +kernel, by decide +kernel, by decide +kernel, by decide, by decide, by decide⟩

theorem witness_TierMoves_aging : world.powered 0 = true ∧ (∀ r ∈ world.recs, ¬ (r.2.st = .parked ∧ r.2.die = 0))
    ∧ (let t := (asTask world).setThread 0 { (asTask world).thread 0 with wdog := 5 }
       (t.thread 0).live = true ∧ (t.thread 0).priv = .task ∧ bits (t.thread 0).wdog 31 0 ≠ 0) := by decide +kernel

theorem witness_TierMoves_ranges : ((0xFFFB000000000000 : Word).toNat % 2 ^ 56 / 2 ^ 48, (0xFFFDFFFFFFFFFFFF : Word).toNat % 2 ^ 56 / 2 ^ 48) = (0xFB, 0xFD) := by decide +kernel

/-- A promotion without a frame; the pool's free ring, at 90000H, holds one frame or none, or there is no pool. -/
def frameless (header : List (Nat × Byte)) : State :=
  let s := { task with hbm := header ++ [(0x80018, 1), (0x8001A, 9), (0x90002, 0x60)] }.setVi 0 { task.vi 0 with frpool := 0x80000 }
  s.setDie 0 { s.die 0 with promos := [{ promo36 with frame := none }] }
def oneFrame : State := frameless [(0x80000, 1), (0x80002, 9), (0x80008, 1)]
def noFrame : State := frameless [(0x80000, 1), (0x80002, 9)]
def noPool : State := oneFrame.setVi 0 { oneFrame.vi 0 with frpool := 0 }

theorem witness_TierMoves_frames : ∀ s ∈ [oneFrame, noFrame, noPool], (s.die 0).promos[0]? = some { promo36 with frame := none } ∧ s.powered 0 = true
    ∧ s.demoOf promo36.vi promo36.at_ = none ∧ ∀ q ∈ (s.die 0).promos.take 0, ¬ (q.vi = promo36.vi ∧ q.frame = none) := by
  intro s hs
  simp only [List.mem_cons, List.not_mem_nil, or_false] at hs
  rcases hs with rfl | rfl | rfl <;> decide +kernel

theorem witness_TierMoves_takes : (oneFrame.takeFrame 0 0).1 = .got 0x600000 ∧ (noFrame.takeFrame 0 0).1 = .empty ∧ (noPool.takeFrame 0 0).1 = .absent
    ∧ (let s1 := (oneFrame.takeFrame 0 0).2
       let q : Promo := { promo36 with frame := some 0x600000 }
       ((s1.setDie 0 { s1.die 0 with promos := [q] }).writeStarve 0 0).returnRoom 0 0 ≠ some false) := by decide +kernel

theorem witness_TierMoves_behind : let p := { promo36 with frame := none, at_ := 0x18008 }
    let s := noFrame.setDie 0 { noFrame.die 0 with promos := [p, { promo36 with frame := none }] }
    (s.die 0).promos[1]? = some { promo36 with frame := none } ∧ s.demoOf promo36.vi promo36.at_ = none ∧ p ∈ (s.die 0).promos.take 1 ∧ p.vi = promo36.vi ∧ p.frame = none
    ∧ (s.poolRing 0 0 0).isSome = true := by decide +kernel

theorem witness_TierMoves_reserved : let c := cmd 0x15 0 [0x1000000000]
    let w : Word := BitVec.ofNat 64 (0x4000000000FF + 2 ^ 56)
    let s := paging c (paged (0x4000000000FF + 2 ^ 56))
    Starts s 64 0 0x15 c ∧ (s.begun 64 c).tierLeaf 64 c.begun (c.arg 1) = .ok (page36, { level := 0, at_ := 0x18000, word := w }) ∧ pteFr w = true :=
  ⟨starts_of (by decide +kernel), ok_val (by decide +kernel), by decide +kernel⟩

theorem witness_TierMoves_fails : ∃ s1, let c := cmd 0x15 0 [0x1000000000]
    let s := (paging c (paged leafCxl)).setDie 0 { (paging c (paged leafCxl)).die 0 with tierFails := [(waiterCmd c.id, 0x18000, 6)] }
    Starts s 64 0 0x15 c ∧ (s.begun 64 c).meetTier 0 (waiterCmd c.id) c.vi c.asn (page36 / 2 ^ pageBits 0 * 2 ^ pageBits 0) 0x18000 (BitVec.ofNat 64 leafCxl) = (.fails 6, s1) :=
  ⟨_, starts_of (by decide +kernel), Prod.ext (by decide +kernel) rfl⟩

theorem witness_TierMoves_walk : ∃ s1 l2 s2, let ag := world.agentOf 0 false
    let l : Leaf := { level := 0, at_ := 0x18000, word := BitVec.ofNat 64 leafHbm }
    world.threads.find? (fun t => t.2.live && t.1 / 4 = 0 && t.2.vi = 0 && world.asnOf t.2 = 0) = some (0, world.thread 0)
    ∧ world.asEntry ag.die 0 0 = .ok (0x12000, 0x1A000, true) ∧ ag.vi = 0 ∧ ag.asn = 0 ∧ page36 / 2 ^ 48 < 0xFB
    ∧ world.freshLeaf ag .read 0x1000000000 0x12000 page36 = .ok (l, s1) ∧ world.freshLeaf ag .write 0x1000000000 0x12000 page36 = .ok (l, s1)
    ∧ permits ag .write l.word = true ∧ s1.setLeafBits 0 0 l 0x80 = some (l2, s2) :=
  ⟨_, { level := 0, at_ := 0x18000, word := BitVec.ofNat 64 leafHbm }, ((okSnd (world.freshLeaf (world.agentOf 0 false) .read 0x1000000000 0x12000 page36)).setLeafBits 0 0 { level := 0, at_ := 0x18000, word := BitVec.ofNat 64 leafHbm } 0x80).elim State.reset (fun p => p.2),
    by decide +kernel, ok_val (by decide +kernel), by decide +kernel, by decide +kernel, by decide, ok_pair (by decide +kernel), (ok_pair (by decide +kernel)), by decide +kernel, by decide +kernel⟩

/-- The record of the task's gang in some state, with slab 0 in it and with the page at 2^36 in its hot window. -/
def recorded (r : ParkRec) (w : Nat) : State := ((paged w).setGang 0 { gang0 with st := .parked }).setRec 2 r

theorem witness_ParkEvents : (let r := { record with st := .promoting, hot := [[(slabVa 0, page36)]] }
      (recorded r leafHbm).rec? 2 = some r ∧ r.hotFailed = false ∧ (recorded r leafHbm).powered r.die = true
       ∧ ∀ p ∈ r.hot.flatten, (recorded r leafHbm).peekLeaf r.die r.vi r.asn p.2 = some (page36, { level := 0, at_ := 0x18000, word := BitVec.ofNat 64 leafHbm }) ∧ pteTier (BitVec.ofNat 64 leafHbm) = 0)
    ∧ (let r := { record with st := .promoting, hotFailed := true }
       (recorded r leafHbm).rec? 2 = some r ∧ (recorded r leafHbm).powered r.die = true ∧ ∀ d ∈ (recorded r leafHbm).dies, d.2.promos = []) :=
  by decide +kernel

theorem witness_ParkEvents_save : ∀ woken ∈ [true, false], ∀ v ∈ [true, false], let r := { record with slabs := [0], woken := woken }
    let s : State := { recorded r leafHbm with hbm := if v then (slabbed true).hbm else (recorded r leafHbm).hbm }
    let desc : SlabDesc := ((s.slabAt r.die r.vi r.asn 0).map (s.homeSlab r.die r.vi)).getD { w0 := 0, w1 := 0, w2 := 0, w3 := 0 }
    let fresh : ParkRec := { r with descs := [{ desc with w0 := desc.w0 ||| 2 }], demoted := 0, discarded := 0, promoted := 0, failed := 0, firstFail := 0 }
    let s1 := ((s.setRec 2 fresh).setPk fresh true).putCounters 2
    s.rec? 2 = some r ∧ r.st = .saving ∧ r.lens = [] ∧ r.descs.length ≠ r.slabs.length ∧ s.gang? r.gang = some { gang0 with st := .parked } ∧ s.recs.length ≤ 4096
    ∧ desc.v = v ∧ desc.mv = 0 ∧ desc.lenptr = 0 ∧ s.powered r.die = true ∧ s1.rec? 2 = some fresh ∧ s1.recWord fresh 8 = 0 := by
  intro woken hw v hv
  simp only [List.mem_cons, List.not_mem_nil, or_false] at hw hv
  rcases hw with rfl | rfl <;> rcases hv with rfl | rfl <;>
    exact ⟨by decide +kernel, rfl, rfl, by decide, by decide +kernel, by decide +kernel, by decide +kernel, by decide +kernel, by decide +kernel, by decide +kernel, by decide +kernel, by decide +kernel⟩

/-- The collective engine with one command, this module 0 of a system of four, and a reduction slot in its hub. -/
def collecting (c : Cmd) (s : State) : State := { s.setHub { s.hub with fcQ := [c] } with nmod := 4 }
def red0 : RedSlot :=
  { id := 4, st := .opened, m := 2, op := 0, len := 64, members := [0, 0], result := 0x5000, notify := 0x5100, tag := 0, vi := 0, region := 0, c := 0, dup := 0, bitmap := [], lines := [], buffer := []
    src := 0, sent := [] }

theorem witness_CollectiveCommands_redalloc : ∃ s1, let c := cmd 0x20 0 [0x10000, 64, 0x3000, 0x5000, 0x5100]
    let s := collecting c world
    let z := s.begun 68 c
    Starts s 68 0 0x20 c ∧ redallocBad z c.begun = none ∧ bits (c.arg 1) 10 0 = s.modnum ∧ bits (c.arg 1) 25 16 + 1 = 2
    ∧ z.readRun 68 c.begun spaceGlobal (c.arg 3) (2 * 2) (z.share.accesses (2 * 2)) = .ok s1 [0, 0, 0, 0] ∧ (s1.vi 0).handles.length < 256 ∧ s1.modnum = s.modnum ∧ (s1.cmds 68)[0]? = some c.begun
    ∧ s1.hub.slots = [] ∧ s1.slotMemory + reservation 0 2 64 ≤ 2 ^ 25 :=
  ⟨_, starts_of (by decide +kernel), by decide +kernel, by decide +kernel, by decide +kernel, run_read (by decide +kernel), by decide +kernel,
    by decide +kernel, by decide +kernel, by decide +kernel, by decide +kernel⟩

theorem witness_CollectiveCommands_busy : let h : Handle := { id := 4, slot := 0, node := 0, op := 0, region := 0 }
    256 ≤ ((world.setVi 0 { world.vi 0 with handles := (List.range 256).map (fun n => (n, h)) }).vi 0).handles.length := by decide +kernel

theorem witness_CollectiveCommands_noslot : let s := world.setHub { world.hub with slots := (List.range 32).map (fun n => (n, { red0 with len := 2 ^ 20 })) }
    ¬ s.slotMemory + reservation 0 2 64 ≤ 2 ^ 25 := by decide +kernel

theorem witness_CollectiveCommands_redfree : ∀ st ∈ [RedState.opened, .collecting], let c := cmd 0x21 0 [9]
    let h : Handle := { id := 4, slot := 3, node := 0, op := 0, region := 0 }
    let s := ((collecting c world).setVi 0 { world.vi 0 with handles := [(9, h)] }).setHub { (collecting c world).hub with slots := [(3, { red0 with st := st, tag := (world.vi 0).tag })] }
    Starts s 68 0 0x21 c ∧ bits c.header 39 0 = 0 ∧ (c.arg 1).toNat < 256 ∧ Tab.find (c.arg 1).toNat (s.vi c.vi).handles = some h ∧ h.node = s.modnum
    ∧ Tab.find h.slot s.hub.slots = some { red0 with st := st, tag := (s.vi c.vi).tag } ∧ red0.id = h.id ∧ red0.src = s.modnum := by
  intro st hs
  simp only [List.mem_cons, List.not_mem_nil, or_false] at hs
  rcases hs with rfl | rfl <;> exact ⟨starts_of (by decide +kernel), by decide +kernel⟩

theorem witness_CollectiveCommands_pullset : (let c := cmd 0x22 0 [0x80000003, 0, 0]
      Starts (collecting c world) 68 0 0x22 c ∧ pullsetBad ((collecting c world).begun 68 c) c.begun = none ∧ (c.arg 1).getLsbD 31 = true)
    ∧ ∃ s1, (let c := cmd 0x22 0 [0x10003, 0x3000, 0x5000]
       let z := (collecting c world).begun 68 c
       Starts (collecting c world) 68 0 0x22 c ∧ pullsetBad z c.begun = none ∧ (c.arg 1).getLsbD 31 = false ∧ bits (c.arg 1) 21 16 + 1 = 2
       ∧ z.readRun 68 c.begun spaceGlobal (c.arg 2) (2 * 2) (z.share.accesses (2 * 2)) = .ok s1 [0, 0, 0, 0] ∧ (s1.cmds 68)[0]? = some c.begun) :=
  ⟨⟨starts_of (by decide +kernel), by decide +kernel⟩,
    _, starts_of (by decide +kernel), by decide +kernel, by decide +kernel, by decide +kernel, run_read (by decide +kernel), by decide +kernel⟩

/-- MCAST of 64 bytes to modules 1 and 2, its map and bytes read: at its first member, waiting for an acknowledgement, or for the last notify word's. -/
def casting (done wr : Nat) (req : Option Nat) : Cmd :=
  { cmd 0x23 0 [0x3000, 64, 0x5000, 1, 0x3100, 0x5100] with started := true, mem := [1, 2], buf := List.replicate 64 0, done := done, wr := wr, req := req }
def request8 (kind : FabricKind) : FabReq :=
  { id := 8, uid := 5, vi := 0, tid := 256, module := 1, tag := 0, kind := kind, elems := [{ idx := 0, va := 0x5100, n := 8, data := 1, cmp := 0 }], grant := none, sysScope := true, posted := false, nested := false, pc := 0
    deadline := 1000, tmo := 1000, reply := none, expired := false, lost := false, left := false, looped := false }
def cast (c : Cmd) (reply : Option FabricReply) : State := (collecting c world).setHub { (collecting c world).hub with reqs := [{ request8 .store with reply := reply }] }

theorem witness_CollectiveCommands_mcast : (∀ p ∈ [(0, 0, none), (0, 0, some 8), (1, 1, some 8), (2, 0, none)], let c := casting p.1 p.2.1 p.2.2
      let s := cast c (some (.done []))
      (s.cmds 68)[0]? = some c ∧ c.code = 0x23 ∧ c.result = none ∧ c.started = true ∧ mcastBad c = none ∧ c.mem ≠ [] ∧ c.buf.length = (c.arg 2).toNat)
    ∧ (casting 2 0 none).mem.length ≤ (casting 2 0 none).done ∧ (casting 0 0 none).mem[0]? = some 1 ∧ (casting 1 1 none).mem[1]? = some 2
    ∧ (cast (casting 0 0 (some 8)) (some (.done []))).request 8 = some { request8 .store with reply := some (.done []) }
    ∧ (cast (casting 1 0 (some 8)) (some (.refused 3 .perm 1 4 []))).request 8 = some { request8 .store with reply := some (.refused 3 .perm 1 4 []) } := by decide +kernel

/-- A contribution from module 3 to slot 3, by member, line and generation. -/
def contribution (gen member line : Nat) : ReductionLine := { slot := 3, gen := gen, member := member, line := line, data := List.replicate 64 1, src := 3, id := 12 }

theorem witness_CollectiveCommands_lines : (contribution 0 0 0).src ≠ world.modnum ∧ Tab.find 3 world.hub.slots = none ∧ ((contribution 0 0 0).gen = red0.c % 256 ∧ (contribution 0 0 0).gen ≠ (red0.c + 255) % 256)
    ∧ ((contribution 0 1 0).member < red0.m ∧ 64 * (contribution 0 1 0).line < red0.len ∧ (0, 0) ∉ red0.bitmap) ∧ ¬ (contribution 0 2 0).member < red0.m ∧ ¬ 64 * (contribution 0 1 1).line < red0.len
    ∧ (contribution 255 0 0).gen = (red0.c + 255) % 256 ∧ ((contribution 7 0 0).gen ≠ (red0.c + 255) % 256 ∧ (contribution 7 0 0).gen ≠ red0.c % 256)
    ∧ (0, 0) ∈ { red0 with bitmap := [(0, 0)] }.bitmap ∧ ({ red0 with bitmap := [(0, 0)] }.bitmap.length + 1 = red0.m * (red0.len / 64)) ∧ red0.bitmap.length + 1 ≠ red0.m * (red0.len / 64) := by decide +kernel

theorem witness_CollectiveCommands_pull : (∀ own ∈ [false, true], let e : FabricElem := { idx := 0, va := 0xFFFC030000000008, n := 8, data := 0, cmp := 0 }
      let members := if own then [0, 2] else [1, 2]
      let r : FabReq := { request8 (.pull 0 members 0x5000) with module := 0, elems := [e] }
      let s := world.setHub { world.hub with reqs := [r] }
      let lines : List MemberLine := members.map (fun m => { module := m, data := List.replicate 64 1 })
      s.request 8 = some r ∧ r.elems = [e] ∧ r.module = s.modnum ∧ r.reply = none ∧ r.expired = false ∧ r.lost = false ∧ members = lines.map (fun l => l.module)
      ∧ (s.modnum ∈ members ↔ own = true) ∧ s.hub.reqs.find? (fun q => q.uid = 8 && q.vi = 64) = none)
    ∧ (let r : FabReq := { request8 (.pull 0 [0, 2] 0x5000) with module := 0 }
       let q : FabReq := { request8 .load with id := 9, uid := 8, vi := 64, module := 0, reply := some (.done [(0, 5)]) }
       let s := world.setHub { world.hub with reqs := [r, q] }
       s.request 8 = some r ∧ s.hub.reqs.find? (fun q => q.uid = 8 && q.vi = 64) = some q ∧ q.reply = some (.done [(0, 5)])) := by decide +kernel

/-- A request from module 3 for the doubleword at 0x5000 of the interface that tag 9 is bound to. -/
def arrival (kind : FabricKind) (tag : BitVec 16) : FabricArrival := { src := 3, id := 12, tag := tag, kind := kind, elems := [{ idx := 0, va := 0x5000, n := 8, data := 7, cmp := 0 }] }
def bound : State := world.setVi 0 { world.vi 0 with bound := [9] }

theorem witness_FabricRequests_target : ∃ s1 s2, bound.boundTo 8 = none ∧ bound.boundTo 9 = some 0
    ∧ bound.check (targetAgent 0 12) 0 .read false false spaceGlobal 0x5000 8 = .ok (.here (.hbm 0x5000) 0, s1) ∧ s1.poison = []
    ∧ bound.check (targetAgent 0 12) 0 .write false false spaceGlobal 0x5000 8 = .ok (.here (.hbm 0x5000) 0, s2) :=
  ⟨_, _, by decide +kernel, by decide +kernel, ok_pair (by decide +kernel), by decide +kernel, ok_pair (by decide +kernel)⟩

theorem witness_FabricRequests_timers : (let p : Parked := { arrival := arrival .load 9, vi := 0, fault := none, entry := none, next := 0, vals := [], noticed := 0 }
      let s := (world.setHub { world.hub with held := [p] }).setDie 4 { world.die 4 with ageclk := 250 }
      s.hub.held[0]? = some p ∧ p.fault = none ∧ p.arrival.src ≠ s.modnum ∧ p.noticed + 250 ≤ (s.die 4).ageclk)
    ∧ (let r : FabReq := { request8 .load with uid := (world.thread 0).uid, tid := 0, deadline := 0 }
       let s := world.setHub { world.hub with reqs := [r] }
       s.hub.records = [] ∧ s.request 8 = some r ∧ r.reply = none ∧ r.expired = false ∧ r.lost = false ∧ s.hub.waiting = [] ∧ s.hub.slots = [] ∧ r.module ≠ s.modnum
       ∧ s.hub.outbox = [] ∧ s.hub.pulls = [] ∧ s.hub.hostHeld = [] ∧ (∀ q ∈ s.hub.reqs, q.uid ≠ 8) ∧ (∀ d, d < 5 → ∀ x ∈ (s.die d).egress, x.req ≠ some 8)
       ∧ s.owned r = true ∧ r.deadline ≤ (s.die (r.tid / 64)).ageclk) := by decide +kernel

theorem witness_FabricRequests_local : (let x : EgressEntry := { id := 1, loc := .hbm 0x5000, key := 0, data := [1], owners := [], src := none, who := none, vi := 0, req := none }
      let s := world.setDie 1 { world.die 1 with egress := [x], updates := [(3, 5)] }
      (s.die 1).egress[0]? = some x ∧ State.egressFirst (s.die 1).egress 0 = true ∧ x.req = none ∧ s.powered 1 = true ∧ x.loc.home ≠ 5 ∧ (s.die 1).updates.find? (fun x => x.1 = 3) = some (3, 5))
    ∧ (world.fabricLink 0).retraining = false ∧ (world.fabricLink 0).removed = false
    ∧ (∀ k ∈ [({ replays := 1, retraining := false, removed := false } : LinkSt), { replays := 8, retraining := false, removed := false }, { replays := 0, retraining := true, removed := false }],
        (world.setHub { world.hub with links := [(0, k)] }).fabricLink 0 = k) := by decide +kernel

/-- A fetch-and-add of this module to module 1 that has not left, and one that waits at the port. -/
def adding : FabReq := { request8 (.amo 0) with elems := [{ idx := 0, va := 0x5100, n := 8, data := 3, cmp := 0 }] }
def waiter : Waiting := { id := 6, port := Config.fabricPort 0 1 324 % 16, module := 1, tag := 0, va := 0x5100, width := 8, addend := 5, tabled := true }
def ported (ws : List Waiting) (n : Nat) : State :=
  world.setHub { world.hub with reqs := [adding], waiting := ws, records := List.replicate n { id := 20, combined := 21, first := 22, second := 23, addend := 1, width := 8, since := 0 } }

theorem witness_CombiningAndHandover_combine : (∀ ws ∈ [[], [waiter]], let s := ported ws 1
      s.request 8 = some adding ∧ adding.kind = .amo 0 ∧ adding.sysScope = true ∧ adding.reply = none ∧ adding.lost = false ∧ adding.left = false ∧ adding.looped = false ∧ (∀ w ∈ s.hub.waiting, w.id ≠ 8)
      ∧ (∀ d ∈ s.hub.records, d.first ≠ 8 ∧ d.second ≠ 8) ∧ s.hub.records.length < 8192)
    ∧ (let d : Decombine := { id := 20, combined := 21, first := 22, second := 23, addend := 1, width := 8, since := 0 }
       let s := (ported [] 1).setDie 4 { world.die 4 with ageclk := 2000000 }
       s.hub.records[0]? = some d ∧ (∀ w ∈ s.hub.waiting, w.id ≠ d.combined) ∧ (∀ x ∈ s.hub.records, x.first ≠ d.combined ∧ x.second ≠ d.combined) ∧ (∀ x ∈ s.hub.records, x.combined = d.combined → x = d)
       ∧ (∀ x ∈ s.hub.records, x.id ≠ d.id → x.combined ≠ d.first ∧ x.combined ≠ d.second) ∧ d.since + 2000000 ≤ (s.die 4).ageclk
       ∧ (∀ q ∈ s.hub.reqs, q.module ≠ s.modnum) ∧ s.hub.outbox = []) := by
  refine ⟨?_, by decide +kernel⟩
  intro ws hw
  simp only [List.mem_cons, List.not_mem_nil, or_false] at hw
  rcases hw with rfl | rfl
  · decide +kernel
  · exact ⟨by decide +kernel, rfl, rfl, rfl, rfl, rfl, rfl, fun w h => by rw [List.mem_singleton.1 h]; decide, by decide +kernel, by decide +kernel⟩

theorem witness_CombiningAndHandover_same : [waiter].find? (fun w => w.tabled && w.port = Config.fabricPort 0 1 ((0x5100 : Word).toNat / 64) % 16 && w.module = 1 && w.tag = 0 && w.va = 0x5100 && w.width = 8
    && (0x5100 : Word).toNat % 8 = 0) = some waiter := by simp [waiter]

theorem witness_CombiningAndHandover_leaves : ∀ m ∈ [0, 1], let w : Waiting := { id := 6, port := 0, module := m, tag := 0, va := 0x5100, width := 8, addend := 5, tabled := true }
    (ported [w] 0).hub.waiting[0]? = some w ∧ (w.module = (ported [w] 0).modnum ↔ m = 0) := by decide +kernel

theorem witness_CombiningAndHandover_full : (List.replicate 8192 waiter).length = 8192 := List.length_replicate

/-- The first leaf with HS set, the mailbox at 0x6000 with a command and its argument, and a bad or a good page. -/
def boxed (c arg tgt : Nat) : State :=
  let s := put8 (put8 (put8 (put8 world 0x14000 0x3FF) 0x6000 c) 0x6010 arg) 0x6018 tgt
  { s.setVi 0 { s.vi 0 with mbxbase := 0x6000 } with nmod := 4 }

theorem witness_CombiningAndHandover_mailbox : (∀ p ∈ [(2, 0, 0), (1, 0, 0), (1, 0x1000000000, 1)], mailboxAt (boxed p.1 p.2.1 p.2.2) 0 = some (.hbm 0x6000, 0)
        ∧ mailboxWord (boxed p.1 p.2.1 p.2.2) (.hbm 0x6000, 0) 0 = BitVec.ofNat 64 p.1)
    ∧ (∀ h ∈ (boxed 1 0 0).hub.handovers, h.vi = 0 → h.st = .retired) ∧ (mailboxWord (boxed 1 0 0) (.hbm 0x6000, 0) 0x18).toNat = (boxed 1 0 0).modnum := by decide +kernel

theorem witness_CombiningAndHandover_migrate : let s := boxed 1 0x1000000000 1
    let w := fun (off : Nat) => mailboxWord s (.hbm 0x6000, 0) off
    (w 0x20 = 0 ∧ w 0x28 = 0 ∧ w 0x30 = 0 ∧ w 0x38 = 0 ∧ (w 0x10).toNat % 2 ^ 16 = 0 ∧ canonical (w 0x10) = true ∧ (w 0x18).toNat < s.nmod ∧ (w 0x18).toNat ≠ s.modnum)
    ∧ s.peekLeaf 4 0 0 ((w 0x10).toNat % 2 ^ 56) = some (page36, { level := 0, at_ := 0x18000, word := BitVec.ofNat 64 leafHbm }) ∧ pteFr (BitVec.ofNat 64 leafHbm) = false
    ∧ pteTier (BitVec.ofNat 64 leafHbm) = 0 ∧ hbmAddr (pteFrame (BitVec.ofNat 64 leafHbm)) = some 0x500000 :=
  ⟨by decide +kernel, by decide +kernel, by decide +kernel, by decide +kernel, by decide +kernel⟩

theorem witness_CombiningAndHandover_handover : ∀ st ∈ [HandoverState.draining, .copying, .forwarding, .retired],
    let h : Handover := { vi := 0, va := page36, frame := 0x500000, target := 1, at_ := 0x18000, st := st }
    let s := world.setHub { world.hub with handovers := [h] }
    s.hub.handovers[0]? = some h ∧ ∀ i, i < 4 → s.rangeQuiet (.hbm (h.byteAt (2 ^ 14 * i))) (2 ^ 14) = true ∧ hostAwaits s h = false := by decide +kernel

theorem witness_CombiningAndHandover_codes : bits (0x102 : Word) 7 0 = 2 ∧ bits (0x101 : Word) 7 0 = 1 ∧ bits (0x401 : Word) 9 0 = 1 ∧ (boxed 1 0 0).nmod = 4 ∧ (boxed 1 0 0).modnum = 0 := by decide +kernel

/-- The interface with its host window at virtual address 0, its first leaf with HS, in a TDISP state. -/
def hosted (t : Tdisp) : State :=
  let s := put8 world 0x14000 0x3FF
  s.setVi 0 { s.vi 0 with tdisp := t }

theorem witness_HostLink_access : ∃ s1 s2, (((hosted .unlocked).vi 0).created = true ∧ (hosted .unlocked).hub.hostHeld = []) ∧ ((hosted .locked).vi 0).tdisp = .locked ∧ ((hosted .error).vi 0).tdisp = .error
    ∧ (hosted .unlocked).hostAccepts 0 0x5000 false = true ∧ (hosted .unlocked).hostAccepts 0 0x5000 true = true
    ∧ (let s := world.setVi 0 { world.vi 0 with tdisp := .unlocked }; s.hostAccepts 0 0x5000 false = false ∧ s.hostAccepts 0 0x5000 true = false)
    ∧ (hosted .unlocked).translateGlobal (hostAgent 0 0x5000) .read false (fullVa ((((hosted .unlocked).vi 0).hwbase.toNat + 0x5000) % 2 ^ 56)) = .ok (.here (.hbm 0x5000) 0, s1) ∧ s1.poison = []
    ∧ (hosted .unlocked).translateGlobal (hostAgent 0 0x5000) .write false (fullVa ((((hosted .unlocked).vi 0).hwbase.toNat + 0x5000) % 2 ^ 56)) = .ok (.here (.hbm 0x5000) 0, s2) :=
  ⟨_, _, by decide +kernel, by decide +kernel, by decide +kernel, by decide +kernel, by decide +kernel, by decide +kernel, ok_pair (by decide +kernel), by decide +kernel, ok_pair (by decide +kernel)⟩

theorem witness_HostLink_held : let h : HostHeld := { vi := 0, off := 0x5000, n := 8, data := none, deadline := some 0, req := none, cas := none, ide := false }
    let s := world.setHub { world.hub with hostHeld := [h] }
    s.hub.hostHeld[0]? = some h ∧ h.vi = 0 ∧ h.deadline = some 0 ∧ 0 ≤ (s.die 4).ageclk := by decide +kernel

/-- The same with the key of its IDE stream. -/
def keyed (t : Tdisp) : State := (hosted t).setVi 0 { (hosted t).vi 0 with ideKey := some 5 }

theorem witness_HostLink_gate : (∀ t ∈ [Tdisp.locked, .run], ((keyed t).vi 0).tdisp = t ∧ ((keyed t).vi 0).ideKey ≠ none ∧ ((hosted t).vi 0).ideKey = none) ∧ ((keyed .error).vi 0).tdisp = .error
    ∧ ((keyed .error).vi 0).created = true := by decide +kernel

theorem witness_HostLink_swap : ∃ s1, let s := hosted .unlocked
    s.translateGlobal (hostAgent 0 0x5000) .atomic false (fullVa (((s.vi 0).hwbase.toNat + 0x5000) % 2 ^ 56)) = .ok (.here (.hbm 0x5000) 0, s1) ∧ s1.egressHolds 4 (.hbm 0x5000) 8 = false
    ∧ s1.poison = [] ∧ (Loc.hbm 0x5000).isByte = true ∧ 0x5000 + 8 ≤ 2 ^ 36 ∧ 0x5000 % 4096 + 8 ≤ 4096 ∧ 0x5000 % 8 = 0 :=
  ⟨_, ok_pair (by decide +kernel), by decide +kernel, by decide +kernel, by decide +kernel, by decide +kernel⟩

theorem witness_HostLink_bounds : (0xFFF8 + 8 ≤ 2 ^ 16 ∧ 0xFFFF + 1 ≤ 2 ^ 16) ∧ (List.replicate 8 (0 : Byte)).length = 8 ∧ (0x1FFF < 0x2000 ∧ 0x2080 ≤ 0x2080) := by decide +kernel

theorem witness_HostLink_registers : (bits (0x30000 : Word) 63 56 = 0 ∧ bits (0x30000 : Word) 15 0 = 0 ∧ bits (0x30000 : Word) 11 0 = 0 ∧ (0x30000 : Word) ≠ ((hosted .locked).vi 0).hwbase)
    ∧ bits (0x30001 : Word) 15 0 ≠ 0 ∧ bits (0x30001 : Word) 11 0 ≠ 0 := by decide +kernel

/-- An interface with an open session and the key of slot 3. -/
def attested (t : Tdisp) : State := world.setVi 0 { world.vi 0 with session := some [], tenantSet := false, keys := [(0, 0), (3, 5)], tdisp := t }

theorem witness_HostLink_session : (world.vi 0).created = true ∧ ¬ (world.vi 0).session ≠ none ∧ ((attested .unlocked).vi 0).session ≠ none ∧ Tab.find 3 ((attested .unlocked).vi 0).keys = some 5
    ∧ keyInUse (attested .unlocked) 0 5 = false ∧ ((attested .unlocked).vi 0).emptying = [] ∧ ((attested .unlocked).vi 0).tenantSet = false ∧ (∀ v ∈ (attested .unlocked).vis, (77 : BitVec 16) ∉ v.2.bound)
    ∧ ((attested .unlocked).vi 0).tdisp = .unlocked ∧ ((attested .locked).vi 0).tdisp = .locked ∧ (world.vi 1).created = false ∧ world.platform.bootHalted = false
    ∧ (let s := (attested .unlocked).setVi 0 { (attested .unlocked).vi 0 with bound := [77] }
       (77 : BitVec 16) ∈ (s.vi 0).bound ∧ (∃ v ∈ s.vis, (77 : BitVec 16) ∈ v.2.bound))
    ∧ (let s := world.setVi 0 { world.vi 0 with stopping := true }; (s.vi 0).stopping = true ∧ (s.vi 0).session = none)
    ∧ ((attested .unlocked).vi 0).stopping = false := by decide +kernel

theorem witness_PlatformEvents_queue : struckCore (.queueRow 0 0 0) = some 0 ∧ Struck.queueRow 0 0 0 ≠ .fetchPath 0 ∧ ((vecArgs 0).queueOfThread 0 0)[0]? = some { vr := 1, vl := 1, data := [11], struck := false } := by decide +kernel

theorem witness_PlatformEvents_update : (let p := world.platform; true ≠ p.bootHalted ∧ p.writing = none)
    ∧ (let p := { world.platform with bootHalted := true }; false ≠ p.bootHalted ∧ p.writing = none)
    ∧ (let p := { world.platform with writing := some FirmwareImage.delivered }; p.writing = some FirmwareImage.delivered)
    ∧ (let s : State := { world with platform := { world.platform with shutting := true } }; s.platform.shutting = true ∧ s.hub.stops = [] ∧ s.hub.halting = [])
    ∧ (world.gangOn 0).isSome = true ∧ world.gangOn 1 = none ∧ (world.core 0).fenced = false := by decide +kernel

theorem witness_PlatformEvents : FirmwareImage.delivered.signatureGood = true ∧ world.platform.running.secVersion ≤ FirmwareImage.delivered.secVersion
    ∧ ({ FirmwareImage.delivered with signatureGood := false } : FirmwareImage).signatureGood = false ∧ struckCore (.scratchWord 2 0) = some 2 ∧ (Struck.scratchWord 2 0) ≠ .fetchPath 2
    ∧ structureError (.operandSlot 2 1) = true
    ∧ (let s := world.setCore 0 { world.core 0 with struck := true }; (s.core 0).fenced = false ∧ (s.core 0).struck = true)
    ∧ (let s := world.setCore 0 { world.core 0 with corrected := List.replicate 64 0 }; 64 ≤ (s.core 0).corrected.length) := by decide +kernel

/-- An interface whose slot 3 is being emptied while a buffered store uses its key. -/
def emptied : State :=
  let s := (attested .unlocked).setVi 0 { (attested .unlocked).vi 0 with keys := [(0, 0)], emptying := [(3, 5)] }
  s.setDie 0 { s.die 0 with egress := [{ id := 1, loc := .hbm 0x5000, key := 5, data := [1], owners := [], src := none, who := none, vi := 0, req := none }] }

theorem witness_HostLink_emptying : (∃ k ∈ (emptied.vi 0).emptying, k.1 = 3 ∧ keyInUse emptied 0 k.2 = true) ∧ (emptied.vi 0).session ≠ none ∧ (emptied.vi 0).created = true := by decide +kernel

/-- The state on which the step of a control thread fetches. -/
def turned (w : Nat) : State := { at32 w with agenda := [.control 0 false false], cur := 0, defer := false, stale := false }
def fetcher (w : Nat) : Agent := { (turned w).agentOf 0 false with waiter := waiterFetch ((at32 w).thread 0).uid }

theorem witness_StepRunsDecoded_control : ∀ w ∈ [0x0840FFF8, 0], ∃ s1, (at32 w).platform.power = true ∧ (at32 w).agenda = [Actor.control 0 false false] ∧ ((at32 w).thread 0).live = true ∧ ((at32 w).thread 0).wait = .none
    ∧ (((at32 w).thread 0).nextHeld = none ∧ (turned w).heldBack 0 = false)
    ∧ (turned w).check (fetcher w) ((turned w).regionOf ((at32 w).thread 0)) .fetch true false spaceGlobal ((at32 w).thread 0).pc 4 = .ok (.here (.hbm 0x20000) 0, s1)
    ∧ s1.stale = false ∧ s1.readsPoison (fetcher w).die (.hbm 0x20000) 4 = false ∧ leNat (s1.loadBytes (fetcher w).die 0 (.hbm 0x20000) 4) = w := by
  intro w hw
  simp only [List.mem_cons, List.not_mem_nil, or_false] at hw
  rcases hw with rfl | rfl <;> exact ⟨_, by decide +kernel, by decide +kernel, by decide +kernel, by decide +kernel, by decide +kernel, ok_pair (by decide +kernel), by decide +kernel, by decide +kernel, by decide +kernel⟩

theorem witness_StepRunsDecoded_words : decodeScalarBytes (leBytes 4 0x0840FFF8) = .ok (.addi 2 0 0xFFF8) ∧ (Instr.addi 2 0 0xFFF8).wf = true
    ∧ (∀ i, decodeScalarBytes (leBytes 4 0) = .ok i → i.wf = false) := by
  refine ⟨ok_val (by decide +kernel), by decide +kernel, ?_⟩
  have h : (decodeScalarBytes (leBytes 4 0)).toOption.all (fun i => i.wf = false) = true := by decide +kernel
  intro i hi
  rw [hi] at h
  simpa [Except.toOption] using h

/-- The state on which the step of a vector thread fetches, and the word and state of a fetch. -/
def vturned (w : Nat) : State := { at64 w with agenda := [.vector 0 false false .whole], cur := 0, defer := false, stale := false }
def Fetched.word? : Fetched → Option Nat
  | .word w _ => some w
  | _ => none
def Fetched.end_ : Fetched → State
  | .word _ s => s
  | _ => State.reset

theorem fetched_word {r : Fetched} {w : Nat} (h : Fetched.word? r = some w) : r = .word w (Fetched.end_ r) := by
  cases r with
  | word x s => simp only [Fetched.word?, Option.some.injEq] at h; rw [← h]; rfl
  | _ => exact absurd h (by simp [Fetched.word?])

theorem witness_StepRunsDecoded_vector : ∃ s1 r, (at64 0x1324128800000000).platform.power = true ∧ (at64 0x1324128800000000).agenda = [Actor.vector 0 false false .whole]
    ∧ (let v := (at64 0x1324128800000000).vthread 0
       ((at64 0x1324128800000000).thread 0).live = true ∧ (at64 0x1324128800000000).hasVector 0 = true ∧ v.work.faulted = false ∧ v.work.run = some r ∧ v.work.insn = none ∧ r.word = 0)
    ∧ (vturned 0x1324128800000000).fetch 0 .blockFetch (r.addr + BitVec.ofNat 64 (8 * r.word)) 2 = .word 0x1324128800000000 s1
    ∧ has 0x1324128800000000 21 1 1 = false ∧ decodeVectorBytes (leBytes 8 0x1324128800000000) = .ok (.vfma { zv with vd := 4, sa := 32, sb := 37, sc := 4 })
    ∧ (Instr.vfma { zv with vd := 4, sa := 32, sb := 37, sc := 4 }).wf = true :=
  ⟨_, { addr := 0x20000, word := 0, geom := 0, seq := ((((at64 0x1324128800000000).vthread 0).work.run).map (fun r => r.seq)).getD 0, nested := false, drain := none },
    by decide +kernel, by decide +kernel, by decide +kernel, fetched_word (by decide +kernel), by decide +kernel, ok_val (by decide +kernel), by decide +kernel⟩

/-- A block with the VADD line of chapter 10 and its literal. -/
def literal : State := vturned 0x1028D6001B200000 |> fun s => put8 s 0x20008 0x3FC00000

theorem witness_StepRunsDecoded_literal : ∃ s1 s2, literal.fetch 0 .blockFetch 0x20000 2 = .word 0x1028D6001B200000 s1 ∧ has 0x1028D6001B200000 21 1 1 = true
    ∧ s1.fetch 0 .blockFetch 0x20008 2 = .word 0x3FC00000 s2
    ∧ decodeVectorBytes (leBytes 8 0x1028D6001B200000 ++ leBytes 8 0x3FC00000) = .ok (.vadd { zv with vd := 5, sa := 6, sb := 44, mask := 1, tail := 1, nb := 1, rs := 4, l := 1, lit := 0x3FC00000 })
    ∧ (Instr.vadd { zv with vd := 5, sa := 6, sb := 44, mask := 1, tail := 1, nb := 1, rs := 4, l := 1, lit := 0x3FC00000 }).wf = true :=
  ⟨_, _, fetched_word (by decide +kernel), by decide +kernel, fetched_word (by decide +kernel), ok_val (by decide +kernel), by decide +kernel⟩

theorem witness_StepRunsDecoded_event : ({ world with agenda := [.event (.agingCheck 0) .whole] } : State).agenda = Actor.event (.agingCheck 0) .whole :: [] ∧ world.platform.power = true := by decide +kernel

theorem witness_EncodeDecode : (Instr.add 3 4 5).wf = true ∧ (Instr.add 3 4 5).vectorParts = none ∧ (Instr.vadd zv).wf = true ∧ (Instr.vadd zv).vectorParts ≠ none := by decide +kernel

theorem witness_EncodeDecode_wordless : (Instr.copy2d 0 0).wordless = true ∧ (Instr.copy2d 0 0).wf = true ∧ (Instr.agingCheck 0).wordless = true ∧ (Instr.add 3 4 5).wordless = false := by decide +kernel

theorem witness_WordsHaveOneMeaning : decodeScalarBytes [0xF8, 0xFF, 0x40, 0x08] = .ok (.addi 2 0 0xFFF8)
    ∧ decodeVectorBytes (leBytes 8 0x1324128800000000 ++ leBytes 8 0) = .ok (.vfma { zv with vd := 4, sa := 32, sb := 37, sc := 4 }) := ⟨ok_val (by decide +kernel), ok_val (by decide +kernel)⟩

theorem quiet_reset : Quiet State.reset := ⟨rfl, rfl, rfl, rfl, by decide, by decide, rfl⟩

theorem witness_SettleQuiet : Quiet State.reset ∧ Ends (.hostAccessHoldTimeout 0) State.reset State.reset := ⟨quiet_reset, rfl⟩

theorem witness_StepKeepsInvariant : MemoriesCanonical (at32 0x0840FFF8) ∧ (after (step (at32 0x0840FFF8))).isSome = true :=
  ⟨⟨by decide +kernel, by decide +kernel, by decide +kernel⟩, by decide +kernel⟩

/-! ## Further witnesses: traps of held work, fences, splits, the ends of tasks and gangs -/

theorem witness_HeldTraps_operation : let s := (handled (working 1)).setThread 0 { (handled (working 1)).thread 0 with pending := [cause (.wmu 9)] }
    (s.thread 0).live = true ∧ (s.thread 0).nest = false ∧ (s.thread 0).tvec ≠ 0 ∧ (s.thread 0).wait = .none ∧ (s.core 0).pendSplit = none
    ∧ (s.thread 0).nextHeld = some (cause (.wmu 9)) ∧ (cause (.wmu 9)).nested = false ∧ (s.core 0).wops.find? (fun o => o.id = 9) = some op1 := by decide +kernel

/-- The queue's head is a block whose first instruction is a VLD. -/
def loadsAhead : State := queued (put8 task 0x20000 0x8004800000000000) [.block 0x20000 0]

theorem witness_QueueProgress_accesses : (let s := queued task [.varg 1 5, .setlen 4 1]
      s.hasVector 0 = true ∧ s.accessesMade 0 = true ∧ (s.vthread 0).work.run = none ∧ (s.thread 0).behind = none ∧ (s.vthread 0).work.entries < 32
      ∧ ∀ e ∈ (s.vthread 0).work.vcq, e.op = .varg 1 5 ∨ e.op = .setlen 4 1)
    ∧ (let s := loadsAhead
       s.accessesMade 0 = false ∧ (s.vthread 0).work.run = none ∧ (s.vthread 0).work.vcq = [{ seq := 7, op := .block 0x20000 0, nested := false, aside := false }]
       ∧ s.instrAt 0 0x20000 0 = some (.vld { zv with sa := 36 }, 0x8004800000000000, 0)) := by decide +kernel

theorem witness_QueueProgress_fences : (∃ s1, (queued task [.varg 1 5]).accessesMade 0 = true ∧ (if orderReleases 3 then (queued task [.varg 1 5]).releaseReady 0 4 else .ok task) = .ok s1)
    ∧ (∃ s1, task.accessesMade 1 = true ∧ task.hasVector 1 = false ∧ (task.vthread 1).work.entries < 32 ∧ (if orderReleases 1 then task.releaseReady 1 0 else .ok task) = .ok s1) :=
  ⟨⟨okState ((queued task [.varg 1 5]).releaseReady 0 4), by decide +kernel, ok_of_isOk (by decide +kernel)⟩, ⟨task, by decide +kernel, by decide +kernel, by decide +kernel, rfl⟩⟩

/-- Vector thread 0 with a length of 200. -/
def lengthy (s : State) : State := s.setVthread 0 { s.vthread 0 with vl := 200, vr := 1 }

theorem witness_SplitsAndMerges_traps : (let s := task.setThread 0 { task.thread 0 with vh := true }; (s.thread 0).vh = true ∧ s.hasVector 0 = true)
    ∧ (let s := lengthy task; (s.thread 0).vh = false ∧ (s.core 0).pendSplit = none ∧ splitReady s 0 0 = true ∧ 128 < (s.vthread 0).vl)
    ∧ (let s := (lengthy task).setCore 0 { task.core 0 with pendSplit := some (2, 0) }; (s.core 0).pendSplit = some (2, 0) ∧ splitReady s 0 0 = true ∧ 128 < (s.vthread 0).vl) := by decide +kernel

/-- A store of stream 2 that has been issued by the last instruction. -/
def issued : PendStore := { stream := 2, insn := 0, ea := 0x1000, loc := .hbm 0x1000, key := 0, data := [1], pc := 0x20000, nested := false, step := none, free := false }

theorem witness_BlocksAndBarriers_bars : let s := vec.setVthread 0 { vec.vthread 0 with pend := [issued] }
    s.vectorRuns 0 = true ∧ issued ∈ (s.vthread 0).pend ∧ issued.stream < 8 ∧ (0x0C : BitVec 21).getLsbD issued.stream = true ∧ (0x0C : BitVec 21).getLsbD 3 = true
    ∧ issued.insn ≤ (s.vthread 0).issued ∧ (s.vthread 0).issued < (s.vthread 0).issued + 1 := by decide +kernel

/-- The task's gang ends with it; a store of it may still stand in the egress buffer. -/
def lastTask (late : Bool) : State :=
  if late then world.setDie 0 { world.die 0 with egress := [{ id := 1, loc := .hbm 0x5000, key := 0, data := [1], owners := [(world.thread 0).uid], src := none, who := none, vi := 0, req := none }] }
  else world

theorem witness_TaskExits_last : ∀ late ∈ [true, false], let s := lastTask late
    let t := s.thread 0
    s.vectorQuiet 0 = true ∧ (s.cores.any (fun c => c.2.copyQ.any (fun k => k.uid = t.uid)) || s.dies.any (fun d => d.2.pageQ.any (fun k => k.uid = t.uid)) || s.hub.fcQ.any (fun k => k.uid = t.uid)) = false
    ∧ t.race = none ∧ t.pend = [] ∧ (s.vthread 0).pend = [] ∧ s.gang? t.gang = some gang0 ∧ gang0.cores ≠ [] ∧ gang0.held.Nodup
    ∧ (s.gangs.map (fun e => e.1)).Pairwise (fun x y => x < y) ∧ (s.threads.map (fun e => e.1)).Pairwise (fun x y => x < y) ∧ (∀ x ∈ s.tidsOf t.gang, x = 0)
    ∧ gang0.uids.any (fun u => s.unperformed u true) = late := by
  intro late h
  simp only [List.mem_cons, List.not_mem_nil, or_false] at h
  rcases h with rfl | rfl <;> decide +kernel

/-- A gang without cores that owes the word 1 at 5000H of its interface, on its home die or on another. -/
def owing (die : Nat) : Gang := { gang0 with st := .over, cores := [], held := [], owed := some 1, done := 0x5000, die := die }

theorem witness_TaskExits_word : ∃ z' z'', (∀ d ∈ [0, 1], let z := world.setGang 0 (owing d)
      z.gang? 0 = some (owing d) ∧ (owing d).cores = [] ∧ (owing d).owed = some 1 ∧ (Loc.hbm 0x5000).isByte = true)
    ∧ (world.setGang 0 (owing 0)).translateGlobal (engineAgent 0 (owing 0).asn 0 (waiterDispatch 0) true) .write false 0x5000 = .ok (.here (.hbm 0x5000) 0, z') ∧ (Loc.hbm 0x5000).home = 0
    ∧ (world.setGang 0 (owing 1)).translateGlobal (engineAgent 0 (owing 1).asn 1 (waiterDispatch 0) true) .write false 0x5000 = .ok (.here (.hbm 0x5000) 0, z'') ∧ (Loc.hbm 0x5000).home ≠ 1 :=
  ⟨_, _, by decide +kernel, ok_pair (by decide +kernel), by decide +kernel, ok_pair (by decide +kernel), by decide +kernel⟩

theorem witness_QuantaAndStarvation_preempt : (world.gang? 0 = some gang0 ∧ gang0.isPlaced = true ∧ gang0.held.Nodup ∧ (world.gangs.map (fun e => e.1)).Pairwise (fun x y => x < y)
      ∧ (world.threads.map (fun e => e.1)).Pairwise (fun x y => x < y) ∧ world.stopsLater 0 gang0 = false ∧ ((world.tidsOf 0).map (fun t => (world.thread t).index)).Nodup
      ∧ world.tidsOf 0 = [0]
      ∧ (∀ t ∈ world.tidsOf 0, (world.thread t).pending = [] ∧ (world.thread t).pend = [] ∧ (world.thread t).wait = .none ∧ (world.vthread t).pend = []
        ∧ ∀ o ∈ (world.core (t / 4)).wops, o.uid ≠ (world.thread t).uid) ∧ (∀ e ∈ world.dies, e.2.egress = []))
    ∧ (let s := world.setCore 0 { world.core 0 with copyQ := [{ cmd 1 0 [] with started := true }] }; s.gang? 0 = some gang0 ∧ s.stopsLater 0 gang0 = true) := by decide +kernel

theorem witness_QuantaAndStarvation_tasks : let s := tiled world 3
    let sv := (s.takeTask 0).1
    (sv.slots.map (fun e => e.1)) = [1, 2, 3] ∧ (sv.slots.map (fun e => e.1)).Nodup ∧ (sv.accs.map (fun e => e.1)) = [0, 1] ∧ (sv.accs.map (fun e => e.1)).Nodup := by decide +kernel

/-- Three gangs: placed, queued and failed ones of region 0, and one that is over. -/
def domained : State := ((world.setGang 1 { gang0 with st := .queued, cores := [], held := [] }).setGang 2 { gang0 with st := .failed, cores := [] }).setGang 3 { gang0 with st := .over, cores := [] }

theorem witness_SupervisorRegisterEvents_stop : (domained.gangs.map (fun e => e.1)).Pairwise (fun x y => x < y) ∧ (domained.domain 0 0).getD 0 = 0
    ∧ (∀ key ∈ [0, 1, 2], ∃ g, domained.gang? key = some g ∧ g.vi = 0 ∧ g.region = 0 ∧ (g.st = .placed ∨ g.st = .queued ∨ g.st = .failed) ∧ domained.keptByRecord g = false)
    ∧ (∃ g, domained.gang? 3 = some g ∧ g.st = .over) := by
  refine ⟨by decide +kernel, by decide +kernel, ?_, ⟨(domained.gang? 3).getD noGang, by decide +kernel⟩⟩
  intro key hk
  simp only [List.mem_cons, List.not_mem_nil, or_false] at hk
  rcases hk with rfl | rfl | rfl
  · exact ⟨(domained.gang? 0).getD noGang, by decide +kernel⟩
  · exact ⟨(domained.gang? 1).getD noGang, by decide +kernel⟩
  · exact ⟨(domained.gang? 2).getD noGang, by decide +kernel⟩

theorem witness_SupervisorRegisterEvents_end : let d : DomainStop := { id := 5, vi := 0, root := 0, region := 0, reason := 1 }
    let s := world.setGang 0 { gang0 with st := .stopped 5 }
    d.root = 0 ∧ ∃ e ∈ s.gangs, e.2.st = .stopped d.id ∧ (0 ∈ e.2.cores ∧ 0 ∉ e.2.freed) ∧ e.2.done = 0 := by decide +kernel

/-- A new gang of six tasks, three a core. -/
def newcomers : Gang := { gang0 with st := .queued, cores := [], held := [], fresh := true, saved := [], ntask := 6, percore := 3, uids := [], args := [1, 2, 3, 4, 5, 6, 7] }

theorem witness_Launches_placed : newcomers.fresh = true ∧ newcomers.saved = [] ∧ [3, 5].Nodup ∧ 0 < newcomers.percore ∧ newcomers.percore ≤ 4 ∧ newcomers.ntask ≤ newcomers.percore * [3, 5].length
    ∧ (chain0.map (fun x => x.1)).Nodup ∧ chain0 ≠ []
    ∧ (let s := world.setCore 3 { world.core 3 with last := some (9, 9) }; (s.core 3).last = some (9, 9) ∧ ((9, 9) : Nat × Nat) ≠ (newcomers.vi, domainOf chain0)) := by decide +kernel

/-- The task in the turn of its PARK, its record at 100000H. -/
def parking : State :=
  let s := withRegs world [(6, 0x100000)]
  (s.setThread 0 { s.thread 0 with parked := some 2 }).setRec 2 record

theorem some_getD {o : Option State} (h : o.isSome = true) : o = some (o.getD State.reset) := by
  cases o with
  | some x => rfl
  | none => exact absurd h (by simp)

theorem witness_Parking_turn : ∃ v1 v2, let v := parking
    let t := v.thread v.cur
    t.parked = some 2 ∧ v.rec? 2 = some record ∧ record.va = v.reg v.cur 6 ∧ record.st = .saving ∧ t.wait = .none ∧ v.vectorQuiet v.cur = true
    ∧ (v.cores.any (fun c => c.2.copyQ.any (fun c => c.uid = t.uid)) || v.dies.any (fun c => c.2.pageQ.any (fun c => c.uid = t.uid)) || v.hub.fcQ.any (fun c => c.uid = t.uid)) = false
    ∧ v.releaseReady v.cur 4 = .ok v1 ∧ v1.gang? t.gang = some gang0 ∧ (v1.gangs.map (fun e => e.1)).Pairwise (fun x y => x < y) ∧ gang0.held.Nodup
    ∧ v1.areaMoves record.die record.vi record.asn ((record.va.toNat + 256) % 2 ^ 56) (contextBytes (v1.core (v.cur / 4)).split) = false
    ∧ (v1.takeTask v.cur).2.writeArea record.die record.vi record.asn ((record.va.toNat + 256) % 2 ^ 56) (contextBytes (v1.core (v.cur / 4)).split) record.seed = some v2 :=
  ⟨okState (parking.releaseReady 0 4), ((((okState (parking.releaseReady 0 4)).takeTask 0).2).writeArea 0 0 0 ((record.va.toNat + 256) % 2 ^ 56) (contextBytes ((okState (parking.releaseReady 0 4)).core 0).split) record.seed).getD State.reset,
    by decide +kernel, by decide +kernel, by decide +kernel, by decide +kernel, by decide +kernel, by decide +kernel, by decide +kernel, ok_of_isOk (by decide +kernel), by decide +kernel, by decide +kernel, by decide +kernel,
    by decide +kernel, some_getD (by decide +kernel)⟩

/-! ## Further witnesses: vector values and formats -/

/-- The two first elements differ in key order and neither is a NaN, of a signalling NaN with its flag not enabled, or none is active. -/
def ordered (ty : Nat) (c : Reading) (s' : State) : Bool :=
  decide ((s'.vthread 0).ret.length < 16) && c.v.work.vstart = 0 && c.total = 2 && c.active 0 && c.active 1 && c.v.fctl = 0
    && [0, 1].all (fun i => !(readFloat (decide (ty = 1)) (c.plainA 0 i)).isNan && !(readFloat (decide (ty = 1)) (c.plainA 0 i)).signals)
    && decide ((keyOf ty (c.plainA 0 0)).toNat < (keyOf ty (c.plainA 0 1)).toNat)
def signalling (c : Reading) (s' : State) : Bool :=
  decide ((s'.vthread 0).ret.length < 16) && c.v.work.vstart = 0 && c.total = 2 && c.active 0 && c.active 1 && c.v.fctl &&& flagNv = 0
    && (readFloat false (c.plainA 0 0)).signals && (readFloat false (c.plainA 0 0)).isNan && !(readFloat false (c.plainA 0 1)).isNan
def inactive (c : Reading) (s' : State) : Bool :=
  decide ((s'.vthread 0).ret.length < 16) && c.v.work.vstart = 0 && c.total = 2 && !c.active 0 && !c.active 1 && c.v.fctl = 0

/-- The first element of v1 is a signalling NaN. -/
def vecNan : State := vec.setVthread 0 { vec.vthread 0 with regs := [(1, [(0, 0x7F800001), (1, 0x40000000)])] }

theorem witness_ReturnQueuePushes_keys : ∀ ty ∈ [(0 : BitVec 3), 1, 2, 3], ∃ c s', Begins vec 0 { vf with ty := ty } [vf.sa] [] c s' ∧ ordered ty.toNat c s' = true := by
  intro ty ht
  simp only [List.mem_cons, List.not_mem_nil, or_false] at ht
  rcases ht with rfl | rfl | rfl | rfl <;> exact begins_with (by decide +kernel) (by decide +kernel)

theorem witness_ReturnQueuePushes_flags : (∃ c s', Begins vecNan 0 vf [vf.sa] [] c s' ∧ signalling c s' = true)
    ∧ (∃ c s', Begins vec 0 { vf with mask := 1 } [vf.sa] [] c s' ∧ inactive c s' = true) := ⟨begins_with (by decide +kernel) (by decide +kernel), begins_with (by decide +kernel) (by decide +kernel)⟩

theorem witness_FoldsAndScans_floats : ∀ ty ∈ [(0 : BitVec 3), 1], ∀ ext ∈ [(0 : BitVec 21), 1, 2, 6], vf.sa.toNat ≠ vf.vd.toNat ∧ ext.toNat % 4 ≤ 2
    ∧ ∃ c s', Begins vec 0 { vf with ty := ty, ext := ext } [vf.sa] [] c s' ∧ (decide (c.v.work.vstart = 0) && decide (c.v.fctl = 0)) = true := by
  intro ty ht ext he
  simp only [List.mem_cons, List.not_mem_nil, or_false] at ht he
  rcases ht with rfl | rfl <;> rcases he with rfl | rfl | rfl | rfl <;> exact ⟨by decide, by decide, begins_with (by decide +kernel) (by decide +kernel)⟩

theorem witness_FoldsAndScans_picks : (readFloat false 0x7FC00000).isNan = true ∧ (readFloat true 0x7F800001).isNan = false ∧ (readFloat false 0x7F800001).signals = true
    ∧ (readFloat false 0x80000000).isNan = false := by decide +kernel

/-- A store of a block floating-point format, the exponents at b1. -/
def blockf : VFields := { sf with sb := 37, sc := 38, ext := 0x80000 }
def blockStores (n : Nat) (s : State) (f : VFields) (c : Reading) (s' : State) : Bool :=
  let g := s'.sound 0 .write f.space false (fun _ => none) (vstPlan c)
  let s2 := g.2.2.orderVector 0 f.rs.toNat 0
  decide (8 ≤ f.fmt ∧ f.fmt ≤ 16) && (bfpReady s 0 f (Instr.vst f).word).isOk && c.v.work.vstart = 0 && c.v.work.packets = [] && c.v.work.early.isEmpty
    && (vstPlan c).all (fun e => (c.v.firstEnabled e.flags).isNone && !e.bad) && g.2.1.isNone && !g.2.2.defer && (s2.vthread 0).pend.isEmpty && decide (g.1.length = n)
    && g.1.all (fun x => x.2.all (fun p => match p.2 with
      | .here l key => l.isByte && l.home = 0 && key = 0 && !s2.egressHolds 0 l p.1.n
      | _ => false))

/-- A store of raw mantissas of eight bits, in a block with the geometry. -/
def rawf : VFields := { sf with ty := 2, ext := 0x100000 }
def rawBlock : State := tileBlock.setVthread 0 { tileBlock.vthread 0 with bargs := [(0, 0x1000)] }

theorem witness_VectorStores_blocks : blockf.fmt = 8 ∧ rawf.fmt = 16 ∧ (∃ c s', Begins (vecArgs 0) 0 blockf [] [1] c s' ∧ blockStores 1 (vecArgs 0) blockf c s' = true)
    ∧ (∃ c s', Begins rawBlock 0 rawf [] [1] c s' ∧ blockStores 2 rawBlock rawf c s' = true) :=
  ⟨by decide, by decide, begins_with (by decide +kernel) (by decide +kernel), begins_with (by decide +kernel) (by decide +kernel)⟩

/-- What a set of VSTN asks of a state: all of its elements, or the first 64. -/
def setReady (next : Nat) (c : Reading) (z : State) : Bool :=
  let plan := ({ c with stop := next } : Reading).storePlan c.unitEa (nf.sc ≠ 0)
  let g := z.sound 0 .write nf.space false (fun _ => none) plan
  (z.vthread 0).work.packets = [] && (z.vthread 0).work.early.isEmpty && z.share = .whole && c.v.work.packets = [] && decide (c.v.work.vstart < c.total)
    && decide (next = Nat.min c.total ((c.v.work.vstart / 64 + 1) * 64)) && plan.all (fun e => (c.v.firstEnabled e.flags).isNone) && g.2.1.isNone && !g.2.2.defer
    && plain (g.2.2.orderVector 0 nf.rs.toNat 0) 0 g.1

theorem witness_VectorStores_sets : (∃ c s', Begins waypoint 0 nf (scaleCodes nf) [1] c s' ∧ (setReady 2 c s' && decide (c.total = 2)) = true)
    ∧ (∃ c s', Begins (waypoint.setVthread 0 { waypoint.vthread 0 with vl := 100 }) 0 nf (scaleCodes nf) [1] c s' ∧ (setReady 64 c s' && decide (c.total = 100)) = true) :=
  ⟨begins_with (by decide +kernel) (by decide +kernel), begins_with (by decide +kernel) (by decide +kernel)⟩

/-- What the waypoint write of VSTN asks of a state, the order code in b2's low bits. -/
def wayReady (code : Nat) (c : Reading) (z : State) : Bool :=
  let w := c.v.word c.f c.f.sb
  let z1 := z.flushVector 0 (fun k => k = c.f.rs.toNat)
  let e : VElem := { idx := 2, accs := [oneAcc 2 (w &&& ~~~7#64) 8 (BitVec.ofNat 64 2)], flags := [], bad := false }
  let g := z1.sound 0 .write c.f.space false (fun _ => none) [e]
  (z.vthread 0).work.packets = [] && (z.vthread 0).work.early.isEmpty && decide (w.toNat % 8 = code) && !z1.unperformed (z1.thread 0).uid (decide (w.toNat % 8 = 4)) && g.2.1.isNone && !g.2.2.defer
    && (match g.1 with
      | [(x, [(_, .here l key)])] => decide (x = e) && key = 0 && l.isByte && l.home = 0 && !(g.2.2.orderVector 0 c.f.rs.toNat 0).egressHolds 0 l 8
      | _ => false)

theorem witness_VectorStores_way : ∀ code ∈ [0, 4], let s := waypoint.setVthread 0 { waypoint.vthread 0 with bargs := [(0, 0x1000), (2, BitVec.ofNat 64 (0x3000 + code))] }
    ∃ c s', Begins s 0 nf (scaleCodes nf) [1] c s' ∧ (decide (c.f = nf) && wayReady code c s') = true := by
  intro code hc
  simp only [List.mem_cons, List.not_mem_nil, or_false] at hc
  rcases hc with rfl | rfl <;> exact begins_with (by decide +kernel) (by decide +kernel)

/-! ## Further witnesses: accesses to other modules, and what a gang's stop finds -/

/-- The page at 2^36 is another module's, and its address is in g6. -/
def faraway : State := withRegs (paged (0x4000000000FF + 2 ^ 56)) [(6, 0x1000000000)]
def farOrdered : State := (faraway.orderScalar 0).forgetEarly 0

theorem witness_FabricRequests_away : ∃ s1 s2 s3 s4, (faraway.thread faraway.cur).wait = .none ∧ faraway.cur = 0 ∧ faraway.defer = false
    ∧ farOrdered.check (farOrdered.agentOf 0 false) (farOrdered.regionOf (farOrdered.thread 0)) .read true true 0 0x1000000000 8 = .ok (.away 1 page36, s1)
    ∧ (s1.thread 0).pend = [] ∧ s1.egressHolds (0 / 64) (.remote 1 (s1.vi 0).tag page36) 8 = false
    ∧ (∀ n ∈ [4, 8], ∃ s, farOrdered.check (farOrdered.agentOf 0 false) (farOrdered.regionOf (farOrdered.thread 0)) .atomic true false spaceGlobal 0x1000000000 n = .ok (.away 1 page36, s))
    ∧ farOrdered.check (farOrdered.agentOf 0 false) (farOrdered.regionOf (farOrdered.thread 0)) .atomic true false spaceGlobal 0x1000000000 8 = .ok (.away 1 page36, s2)
    ∧ s2.releaseReady 0 4 = .ok s3 ∧ (s3.thread 0).pend = [] ∧ s3.egressHolds (0 / 64) (.remote 1 (s3.vi 0).tag page36) 8 = false
    ∧ farOrdered.check (farOrdered.agentOf 0 false) (farOrdered.regionOf (farOrdered.thread 0)) .write true true 0 0x1000000000 8 = .ok (.away 1 page36, s4)
    ∧ s4.defer = false ∧ (s4.thread 0).pend = [] := by
  refine ⟨_, _, okState ((okSnd (farOrdered.check (farOrdered.agentOf 0 false) (farOrdered.regionOf (farOrdered.thread 0)) .atomic true false spaceGlobal 0x1000000000 8)).releaseReady 0 4), _,
    by decide +kernel, by decide +kernel, by decide +kernel, ok_pair (by decide +kernel), by decide +kernel, by decide +kernel, ?_, ok_pair (by decide +kernel), ok_of_isOk (by decide +kernel),
    by decide +kernel, by decide +kernel, ok_pair (by decide +kernel), by decide +kernel, by decide +kernel⟩
  intro n hn
  simp only [List.mem_cons, List.not_mem_nil, or_false] at hn
  rcases hn with rfl | rfl <;> exact ⟨_, ok_pair (by decide +kernel)⟩

theorem witness_FabricRequests_leaves : let e : EgressEntry := { id := 1, loc := .remote 1 0 page36, key := 0, data := [1], owners := [], src := none, who := none, vi := 0, req := none }
    let s := world.setDie 0 { world.die 0 with egress := [e] }
    (s.die 0).egress[0]? = some e ∧ e.loc = .remote 1 0 page36 ∧ s.powered 0 = true ∧ State.egressFirst (s.die 0).egress 0 = true ∧ e.req = none := by decide +kernel

theorem witness_FabricRequests_answers : ∀ p ∈ [(some (.done [(0, 5)]), false), (some (.refused 0 .perm 0 4 []), false), (some (.refused 0 .remoteFault 0 2 []), false), (none, true), (none, false)],
    let r : FabReq := { request8 .load with uid := (task.thread 0).uid, reply := p.1, expired := p.2 }
    let s := (task.setHub { task.hub with reqs := [r] }).setThread 0 { task.thread 0 with wait := .request 8 }
    (s.thread 0).wait = .request 8 ∧ s.request 8 = some r := by decide +kernel

end Sys2Proof.Tests
end

/-! SUPPORT. The refusals of a CSR instruction (R238, R239, R308): each check said once, what an instruction does that fails one, and O10. -/

namespace Sys2Proof.Machine

/-! ## The first three checks of R238 -/

section
variable (s : State) (tid : Nat) {f : BitVec 12} (w : Word)

theorem csrChecks_unmapped (hm : csrMapped f = false) : csrChecks s tid f w = trapNow s causeIllegal w := by
  simp [csrChecks, hm]

theorem csrChecks_unprivileged (hm : csrMapped f = true)
    (hp : 0xC00 ≤ f.toNat ∨ (isSupervisorCsr f = true ∧ (s.thread tid).priv = .task)) :
    csrChecks s tid f w = trapNow s causePriv w := by
  simp [csrChecks, hm, hp]

theorem csrChecks_noVector (hm : csrMapped f = true)
    (hp : ¬ (0xC00 ≤ f.toNat ∨ (isSupervisorCsr f = true ∧ (s.thread tid).priv = .task)))
    (hv : isVectorCsr f = true ∧ s.hasVector tid = false) : csrChecks s tid f w = trapNow s causeBadSplit w := by
  simp [csrChecks, hm, hp, hv]

theorem csrChecks_pass (hm : csrMapped f = true)
    (hp : ¬ (0xC00 ≤ f.toNat ∨ (isSupervisorCsr f = true ∧ (s.thread tid).priv = .task)))
    (hv : ¬ (isVectorCsr f = true ∧ s.hasVector tid = false)) : csrChecks s tid f w = .ok () := by
  simp [csrChecks, hm, hp, hv]

/-- In supervisor privilege TSTATUS passes: it is a supervisor CSR and no vector CSR. -/
theorem csrChecks_tstatus (h : (s.thread tid).priv = .supervisor) : csrChecks s tid 0x035 w = .ok () :=
  csrChecks_pass s tid w (by decide) (by simp [h]) (fun hv => absurd hv.1 (by decide))

end

/-- A CSR read makes the checks before it waits for vector work (R267). -/
theorem execCsrr_of_checks {s : State} (d : Reg) {f : BitVec 12} {cause : BitVec 6}
    (h : csrChecks s s.cur f (Instr.csrr d f).word = trapNow s cause (Instr.csrr d f).word) :
    Ends (.csrr d f) s (s.takeTrap s.cur cause (Instr.csrr d f).word none false) := by
  change execCsrr d f s = _
  rw [execCsrr, h]
  rfl

theorem csrWrite_of_checks {s : State} (mode : Nat) (d a : Reg) {f : BitVec 12} {cause : BitVec 6} {w : Word}
    (h : csrChecks s s.cur f w = trapNow s cause w) :
    csrWrite mode d a f w s = .next (s.takeTrap s.cur cause w none false).settle := by
  rw [csrWrite, h]
  rfl

/-- All four CSR instructions on a number end in the trap of the check that it fails. -/
theorem csr_ends_of_checks {s : State} (d a : Reg) {f : BitVec 12} {cause : BitVec 6}
    (h : ∀ w, csrChecks s s.cur f w = trapNow s cause w) :
    ∀ i ∈ [Instr.csrr d f, .csrw d a f, .csrs d a f, .csrc d a f], Ends i s (s.takeTrap s.cur cause i.word none false) := by
  simp only [List.forall_mem_cons]
  exact ⟨execCsrr_of_checks d (h _), csrWrite_of_checks 1 d a (h _), csrWrite_of_checks 2 d a (h _), csrWrite_of_checks 3 d a (h _),
    List.forall_mem_nil _⟩

/-! ## The fourth check, and the rule of TSTATUS -/

/-- Why a write that passed the first three checks is ILLEGAL, whatever the mask of the CSR is: CSRW or CSRS sets a reserved bit (of a
queued CSR, in ga itself; R308), or the CSR's own rule refuses the new value. A read-only CSR has no mask, so this holds of every write to it. -/
def CsrWriteIllegal (s : State) (mode : Nat) (f : BitVec 12) (x : Word) : Prop :=
  ∀ m, csrMask f = some m →
    (mode ≠ 3 ∧ (if csrQueued f then x else csrNew mode (csrValue s s.cur f) x) &&& ~~~m ≠ 0#64)
    ∨ (csrQueued f = false ∧ csrRefuses s s.cur f (csrNew mode (csrValue s s.cur f) x) = true)

theorem csrWrite_illegal {s : State} {mode : Nat} (d : Reg) {a : Reg} {f : BitVec 12} {w : Word}
    (hc : csrChecks s s.cur f w = .ok ()) (h : CsrWriteIllegal s mode f (s.reg s.cur a)) :
    csrWrite mode d a f w s = .next (s.takeTrap s.cur causeIllegal w none false).settle := by
  have traps : csrWrite mode d a f w s = finish s.cur (trapNow s causeIllegal w) := by
    rw [csrWrite, hc]
    cases hm : csrMask f with
    | none => rfl
    | some m =>
      obtain ⟨h3, hx⟩ | ⟨hq, hr⟩ := h m hm
      · cases hq : csrQueued f
        all_goals
          simp only [hq, reduceIte, Bool.false_eq_true] at hx
          simp [bind, Except.bind, h3, hx]
      · simp [bind, Except.bind, hq, hr]
  rw [traps]
  rfl

theorem csrWriteIllegal_readOnly (s : State) (mode : Nat) {f : BitVec 12} (x : Word) (h : csrMask f = none) : CsrWriteIllegal s mode f x :=
  fun m hm => absurd (h.symm.trans hm) (by simp)

theorem csrWriteIllegal_reserved {s : State} {mode : Nat} {f : BitVec 12} {x m : Word} (hm : csrMask f = some m) (h3 : mode ≠ 3)
    (h : (if csrQueued f then x else csrNew mode (csrValue s s.cur f) x) &&& ~~~m ≠ 0) : CsrWriteIllegal s mode f x :=
  fun _ hm' => Option.some.inj (hm.symm.trans hm') ▸ .inl ⟨h3, h⟩

/-- TSTATUS refuses a new value that sets VH or WH from 0 to 1, or changes RET (R239). -/
theorem csrRefuses_tstatus (s : State) (tid : Nat) (v : Word) : csrRefuses s tid 0x035 v = true ↔
    (v.getLsbD 6 = true ∧ (s.thread tid).vh = false) ∨ (v.getLsbD 7 = true ∧ (s.thread tid).wh = false) ∨ v.getLsbD 5 ≠ (s.thread tid).ret := by
  simp [csrRefuses, or_assoc]

theorem csrWrite_tstatus_refused {s : State} (mode : Nat) (d a : Reg) (w : Word) (hp : (s.thread s.cur).priv = .supervisor)
    (h : csrRefuses s s.cur 0x035 (csrNew mode (csrValue s s.cur 0x035) (s.reg s.cur a)) = true) :
    csrWrite mode d a 0x035 w s = .next (s.takeTrap s.cur causeIllegal w none false).settle :=
  csrWrite_illegal d (csrChecks_tstatus s s.cur w hp) fun _ _ => .inr ⟨by decide, h⟩

/-! ## The obligation -/

/-- Settles O10, check by check in the order of R238; the last clause by TSTATUS's own rule (R239). -/
theorem csrRefusals : Obligations.CsrRefusals := by
  unfold Obligations.CsrRefusals
  refine ⟨fun s d a f => ?_, fun s d a hp => ?_⟩
  · dsimp only
    split
    case isTrue hm => exact csr_ends_of_checks d a fun w => csrChecks_unmapped s _ w hm
    case isFalse hm =>
    rw [Bool.not_eq_false] at hm
    split
    case isTrue hpriv => exact csr_ends_of_checks d a fun w => csrChecks_unprivileged s _ w hm hpriv
    case isFalse hpriv =>
    split
    case isTrue hvec => exact csr_ends_of_checks d a fun w => csrChecks_noVector s _ w hm hpriv hvec
    case isFalse hvec =>
    have pass := fun w => csrChecks_pass s s.cur w hm hpriv hvec
    cases hmask : csrMask f with
    | none =>
      have illegal := fun mode => csrWriteIllegal_readOnly s mode (s.reg s.cur a) hmask
      simp only [List.forall_mem_cons]
      exact ⟨csrWrite_illegal d (pass _) (illegal 1), csrWrite_illegal d (pass _) (illegal 2), csrWrite_illegal d (pass _) (illegal 3),
        List.forall_mem_nil _⟩
    | some m =>
      simp only [List.forall_mem_singleton]
      refine ⟨fun hx => ?_, fun hx => ?_⟩
      · exact csrWrite_illegal d (pass _) (csrWriteIllegal_reserved (mode := 1) hmask (by decide) (by simpa [csrNew] using hx))
      · exact csrWrite_illegal d (pass _) (csrWriteIllegal_reserved (mode := 2) hmask (by decide) hx)
  · have refused := fun mode w => csrWrite_tstatus_refused (s := s) mode d a w hp
    simp only [List.forall_mem_cons, ← csrRefuses_tstatus s s.cur]
    exact ⟨refused 1 _, refused 2 _, refused 3 _, List.forall_mem_nil _⟩

end Sys2Proof.Machine

/-! SUPPORT. Division (R298): the four results as bit-vector division, what they are in each case of the rule, and O2. -/

namespace Sys2Proof.Machine

/-- A register operation answers the state in which gd holds its result on the sources (R296, R297). -/
theorem aluR_wrote (s : State) (d a b : Reg) (f : Word → Word → Word) :
    ∃ t, aluR s d a b f = .next t ∧ Wrote s t s.cur d (f (s.reg s.cur a) (s.reg s.cur b)) ((s.thread s.cur).pc + 4) :=
  writeRetire_wrote s d _

/-! ## A zero divisor -/

theorem division_zero (x : Word) :
    divSigned x 0 = 0xFFFFFFFFFFFFFFFF ∧ remSigned x 0 = x ∧ divUnsigned x 0 = 0xFFFFFFFFFFFFFFFF ∧ remUnsigned x 0 = x :=
  ⟨rfl, rfl, rfl, rfl⟩

/-! ## Any other divisor -/

section
variable {x y : Word}

theorem divSigned_eq_sdiv (hy : y ≠ 0) : divSigned x y = x.sdiv y := by
  rw [divSigned, if_neg hy]
  exact BitVec.eq_of_toInt_eq ((BitVec.toInt_ofInt _).trans (BitVec.toInt_sdiv x y).symm)

theorem remSigned_eq_srem (hy : y ≠ 0) : remSigned x y = x.srem y := by
  rw [remSigned, if_neg hy, ← BitVec.toInt_srem, BitVec.ofInt_toInt]

theorem divUnsigned_toNat (hy : y ≠ 0) : (divUnsigned x y).toNat = x.toNat / y.toNat := by
  rw [divUnsigned, if_neg hy, ← BitVec.toNat_udiv, BitVec.ofNat_toNat, BitVec.setWidth_eq]

theorem remUnsigned_toNat (hy : y ≠ 0) : (remUnsigned x y).toNat = x.toNat % y.toNat := by
  rw [remUnsigned, if_neg hy, ← BitVec.toNat_umod, BitVec.ofNat_toNat, BitVec.setWidth_eq]

theorem toInt_eq_neg_one_iff : y.toInt = -1 ↔ y = -1#64 := BitVec.toInt_inj (y := -1#64)

theorem toInt_eq_min_iff : x.toInt = -(2 ^ 63) ↔ x = BitVec.intMin 64 := BitVec.toInt_inj (y := BitVec.intMin 64)

/-- The one quotient that leaves the signed range: −2^63 by −1. -/
theorem division_overflow (hx : x.toInt = -(2 ^ 63)) (hy : y.toInt = -1) : divSigned x y = x ∧ remSigned x y = 0 := by
  rw [toInt_eq_min_iff] at hx
  rw [toInt_eq_neg_one_iff] at hy
  subst hx hy
  decide

/-- In every other case the signed quotient is the truncated one, so that it keeps the signed range. -/
theorem divSigned_toInt (hy : y ≠ 0) (h : ¬ (x.toInt = -(2 ^ 63) ∧ y.toInt = -1)) : (divSigned x y).toInt = x.toInt.tdiv y.toInt := by
  rw [toInt_eq_min_iff, toInt_eq_neg_one_iff] at h
  rw [divSigned_eq_sdiv hy]
  exact BitVec.toInt_sdiv_of_ne_or_ne x y (Decidable.not_and_iff_not_or_not.mp h)

theorem remSigned_toInt (hy : y ≠ 0) : (remSigned x y).toInt = x.toInt.tmod y.toInt := by
  rw [remSigned_eq_srem hy, BitVec.toInt_srem]

/-! ## What a quotient and a remainder are -/

theorem division_signed (hy : y ≠ 0) (h : ¬ (x.toInt = -(2 ^ 63) ∧ y.toInt = -1)) :
    x.toInt = (divSigned x y).toInt * y.toInt + (remSigned x y).toInt := by
  rw [divSigned_toInt hy h, remSigned_toInt hy, Int.tdiv_mul_add_tmod]

theorem remSigned_natAbs_lt (hy : y ≠ 0) : (remSigned x y).toInt.natAbs < y.toInt.natAbs := by
  have pos : 0 < y.toInt.natAbs := Int.natAbs_pos.mpr fun h0 => hy (BitVec.toInt_inj.mp h0)
  rw [remSigned_toInt hy, Int.natAbs_tmod]
  exact Nat.mod_lt _ pos

theorem remSigned_nonneg (hy : y ≠ 0) (hx : 0 ≤ x.toInt) : 0 ≤ (remSigned x y).toInt := by
  rw [remSigned_toInt hy]
  exact Int.tmod_nonneg _ hx

theorem remSigned_nonpos (hy : y ≠ 0) (hx : x.toInt ≤ 0) : (remSigned x y).toInt ≤ 0 := by
  have neg : 0 ≤ (-x.toInt).tmod y.toInt := Int.tmod_nonneg _ (Int.neg_nonneg_of_nonpos hx)
  rw [Int.neg_tmod] at neg
  rw [remSigned_toInt hy]
  exact Int.nonpos_of_neg_nonneg neg

theorem division_unsigned (hy : y ≠ 0) : x.toNat = (divUnsigned x y).toNat * y.toNat + (remUnsigned x y).toNat := by
  rw [divUnsigned_toNat hy, remUnsigned_toNat hy, Nat.div_add_mod']

theorem remUnsigned_lt (hy : y ≠ 0) : (remUnsigned x y).toNat < y.toNat := by
  have pos : 0 < y.toNat := Nat.pos_of_ne_zero fun h0 => hy (BitVec.eq_of_toNat_eq h0)
  rw [remUnsigned_toNat hy]
  exact Nat.mod_lt _ pos

end

/-! ## The obligation -/

/-- Settles O2, case by case of R298: a zero divisor, −2^63 by −1, and every other division. -/
theorem divisions : Obligations.Divisions := by
  intro s d a b x y Gives
  refine ⟨divSigned x y, remSigned x y, divUnsigned x y, remUnsigned x y,
    aluR_wrote s d a b divSigned, aluR_wrote s d a b remSigned, aluR_wrote s d a b divUnsigned, aluR_wrote s d a b remUnsigned, ?_⟩
  split
  case isTrue hy => exact hy ▸ division_zero x
  case isFalse hy =>
  refine ⟨?_, division_unsigned hy, remUnsigned_lt hy⟩
  split
  case isTrue h => exact division_overflow h.1 h.2
  case isFalse h => exact ⟨division_signed hy h, remSigned_natAbs_lt hy, remSigned_nonneg hy, remSigned_nonpos hy⟩

end Sys2Proof.Machine
